-- ==== Sys2Proof/Word.lean ====
section
/-!
DEFINITION. The words of the Afnil and the plain types its commands and its state are built of: register
words, bytes, time stamps, page names. Nothing here computes an effect.
-/
namespace Sys2Proof

/-- A register word of BAR0 (spec/00_scope.md R10, spec/02_register_pages.md R39). -/
abbrev Word := BitVec 32

/-- The unit of HBM and of every memory the part addresses (R11). -/
abbrev Byte := BitVec 8

/-- Sparse data by key, in ONE canonical form: keys strictly rising, and no entry equal to the value an
unlisted key reads as. `Sys2Proof.Machine.mapGet` and `mapSet` are its only readers and writers. -/
abbrev AMap (α : Type) := List (Nat × α)

/-- An instant of the time base: 48-bit seconds, nanoseconds, and the readable 16-bit fraction of a
nanosecond (spec/04_time_and_sync.md R91). -/
structure Stamp where
  sec : BitVec 48
  ns : Nat
  frac : BitVec 16
deriving DecidableEq, Repr

/-- The parts of R1. -/
inductive Part where
  | af256x24
  | af256x16
  | af128x16
deriving DecidableEq, Repr

/-- The kinds of register page (R37). -/
inductive PageKind where
  | glb | isl | cpm | sec | time | sync | tgen | layr | geom | reng | scal | codec | trim | fade | bport | bgrp | diag
  | hbm | hbmpc | fab | pcie | nvme | net | flow | cam | aud | blit | thrm | cal
deriving DecidableEq, Repr

/-- A register page by kind and number (R37). -/
inductive Page where
  | glb | isl | cpm | sec | time | sync
  | tgen (g : Fin 16)
  | layr | geom
  | reng (e : Fin 16)
  | scal
  | codec (c : Fin 4)
  | trim | fade
  | bport (p : Fin 256)
  | bgrp (g : Fin 16)
  | diag | hbm
  | hbmpc (n : Fin 16)
  | fab | pcie | nvme
  | net (n : Fin 16)
  | flow
  | cam (c : Fin 4)
  | aud (a : Fin 4)
  | blit | thrm | cal
deriving DecidableEq, Repr

/-- The commit domain of a page (R52). -/
inductive Domain where
  | none
  | loc
  | group (g : Fin 16)
  | banked
deriving DecidableEq, Repr

/-- The status of a tagged reply (spec/03_islands_and_weirs.md R84). -/
inductive ReplyStatus where
  | ok | absent | poison
deriving DecidableEq, Repr

/-- What a request into a tagged Weir asks for (R75, R84). -/
inductive WeirReq where
  | hbmRead (a : BitVec 35) (len : Nat)
  | hbmWrite (a : BitVec 35) (bytes : List Byte)
  | regRead (addr : BitVec 26)
  | regWrite (addr : BitVec 26) (v : Word)
  | work
deriving DecidableEq, Repr

/-- A host read of BAR0: its address, and whether it reads 64 bits (R62). -/
structure BarRead where
  addr : BitVec 26
  wide : Bool
deriving DecidableEq, Repr

/-- The entry that moves through a Weir: the Weir, and whether the entry is a reply (R76). -/
structure WeirMove where
  w : Fin 158
  reply : Bool
deriving DecidableEq, Repr

/-- A configuration request that reaches the host port (R34, R448, R602): a read or a write of a double word of the header; a read, or a
write of MSI-X Enable and Function Mask, of the MSI-X capability; a read, or a write of the power state, of the power-management
capability; anything else. -/
inductive CfgReq where
  | header (dword : Fin 16)
  | headerWrite (dword : Fin 16) (v : Word)
  | msixRead
  | msixWrite (enable funcMask : Bool)
  | powerRead
  | powerWrite (d3 : Bool)
  | other (write : Bool)
deriving DecidableEq, Repr

/-- A module's own properties: identity, protocol version, capabilities (R335), forward delay f in u8.8 ns, and its lamp
array. -/
structure ModDesc where
  ident : BitVec 64
  version : BitVec 8
  maxStep : Fin 8
  idleCap : Bool
  deepCap : Bool
  f : BitVec 16
  lw : Nat
  lh : Nat
deriving DecidableEq, Repr

end Sys2Proof
end

