-- ==== Sys2Proof/Syntax.lean ====
section
/-!
DEFINITION. The commands of the Afnil: one constructor per row of spec/opcode_table.json, in the table's order. The
operands carry what the sender supplies (a written value, which unit, what arrives on a pin, a lane or a bus); what the
part itself computes is read from the state.
-/
namespace Sys2Proof

/-- The commands. The first words of each docstring name the governing rule. -/
inductive Instr where
  /-- R14. A host write to a register field with no behaviour of its own takes effect by its access code (RW, RWS shadow, W1C), or is discarded or answered ABSENT. -/
  | regWrite (addr : BitVec 26) (wide : Bool) (v : BitVec 64)
  /-- R62. A misaligned or partial BAR0 access is discarded or returns all ones, and raises ACCESS_ERR in GLB. -/
  | accessErr (addr : BitVec 26) (isWrite : Bool)
  /-- R65. A read of the _LO half of a changing RO pair captures the matching _HI value for the next read. -/
  | pairLoRead (addr : BarRead)
  /-- R47. A W1C write to EV_PEND clears latched event bits, except for a bit that is set again on the same edge. -/
  | evPendClear (p : Page) (v : Word) (same : Word)
  /-- R47. A write to EV_SET sets the named EV_PEND bits. -/
  | evSetWrite (p : Page) (v : Word)
  /-- R50. A write to GLB.EOI resends the vector's message if its input is 1. -/
  | glbEoi (v : Word)
  /-- R50. The host unmasks a vector whose pending bit is set; the message is sent and the pending bit clears. -/
  | msixUnmask (v : Fin 64)
  /-- R66. A read of GLB.FLUSH is issued and waits until every earlier BAR2 write is visible. -/
  | glbFlushRead
  /-- R66. The FLUSH read completes once every earlier BAR2 write has entered its HBM queue. -/
  | glbFlushComplete
  /-- R61. A write to GLB.CMT_HOLD sets or clears group hold bits; clearing a bit presents every held arm of the group to the gate on one edge. -/
  | cmtHoldWrite (v : Word)
  /-- R54. A write of CMT_CTRL.arm snapshots the shadows of the page or of the selected banks into the pending slot, unless the arm is refused. -/
  | cmtArm (p : Page) (v : Word)
  /-- R57. A write of CMT_CTRL.cancel discards the pending commit of the selected banks and keeps the shadows. -/
  | cmtCancel (p : Page) (v : Word)
  /-- R58. An arm leaves the Weir into PGRP g and is judged at the group's commit gate for its target frame. -/
  | cmtArmAtGate (p : Page) (g : Fin 16)
  /-- R58. The notice of a close of group g reaches an island that holds pages or banks of that group. -/
  | closeNoticeArrival (isl : Fin 44) (g : Fin 16)
  /-- R59. An immediate arm on a local page applies on the first island edge after the arm is seen. -/
  | localCommitApply (p : Page)
  /-- R59. The time base reaches the CMT_TIME of a scheduled commit on a local page, and the commit applies. -/
  | localSchedCommitDue (p : Page)
  /-- R58. A commit armed while the group's TGEN is not in RUN applies within 1 µs of the arm. -/
  | noframeCommitApply (p : Page) (g : Fin 16)
  /-- R135. Commits of RENG g and of bank g of the banked pages come into force within 2 µs of the close, GEOM records included. -/
  | bankCommitApply (g : Fin 16)
  /-- R42. A PCTRL write with req = 0 sets the island's resume field without making a request. -/
  | pctrlResumeSet (p : Page) (v : Word)
  /-- R43. A request OFF opens the island's power switch, with loss of all its state. -/
  | pctrlReqOff (p : Page) (resume : Bool)
  /-- R43. A request RESET closes the island's Weirs and holds it in reset, or queues power-on from OFF. -/
  | pctrlReqReset (p : Page) (resume : Bool)
  /-- R45. A request IDLE leaves RESET, or makes RUN complete the work already accepted and take no more. -/
  | pctrlReqIdle (p : Page) (resume : Bool)
  /-- R43. A request RUN puts an island in IDLE into normal operation. -/
  | pctrlReqRun (p : Page) (resume : Bool)
  /-- R553. A request UPDATE closes the Weirs and has the update agent load microcode for the island. -/
  | pctrlReqUpdate (p : Page) (resume : Bool)
  /-- R70. The power sequencer finishes closing one island's switch, the island enters RESET, and the next queued closure starts. -/
  | powerSwitchClosed
  /-- R43. An island leaves RESET for IDLE within 10 µs; its Weirs open and STATE is raised. -/
  | islandResetExit (isl : Fin 44)
  /-- R78. The last Weir of a closing island has closed and, 16 clocks later, the island is held in its new state. -/
  | islandWeirsClosed (isl : Fin 44)
  /-- R45. An island asked for IDLE from RUN finishes its accepted work and enters IDLE. -/
  | runToIdleDrainDone (isl : Fin 44)
  /-- R553. The post-activation self-check of an island ends; it passes to IDLE or RUN by resume, or fails to DEAD. -/
  | islandSelfCheckEnd (isl : Fin 44) (passed : Bool)
  /-- R74. A source issues a request into a Weir when it holds a credit, or is answered ABSENT when the Weir is closed. -/
  | weirRequest (w : Fin 158) (alt : Bool) (req : WeirReq)
  /-- R76. A Weir entry appears in the target's output register 3 to 5 clocks later and is taken, returning credit. -/
  | weirDeliver (w : WeirMove)
  /-- R43. PORST_N falls and the whole device is reset. -/
  | porstNAssert
  /-- R601. PORST_N rises; AON runs and every other island is in RESET, and start-up begins. -/
  | porstNRise
  /-- R73. PERST_N assertion acts as an accepted request RESET on the HOST island. -/
  | perstNAssert
  /-- R73. PERST_N release acts as a request IDLE, then RUN, on the HOST island. -/
  | perstNDeassert
  /-- R71. ABCLKa stops or leaves lock and the follower PLL of AUD a enters holdover. -/
  | abclkLoss (a : Fin 4)
  /-- R92. On each AON edge the time base advances by INC, with carries into nanoseconds and seconds. -/
  | timeBaseTick (edges : Nat)
  /-- R94. A read of TIME.NOW_NS captures seconds and fraction from the same AON edge. -/
  | nowNsRead
  /-- R99. TCTRL.set loads the time base from SET_SEC and SET_NS, a step. -/
  | timeSet
  /-- R99. TCTRL.add adds ADJ_OFFSET to the time base at once, a step. -/
  | timeAdd
  /-- R99. TCTRL.slew works off ADJ_OFFSET by holding f at SRV_FMAX. -/
  | timeSlew
  /-- R99. The slew has covered ADJ_OFFSET and f returns to the servo. -/
  | timeSlewEnd
  /-- R106. A phase sample (PTP offset or PPS edge) reaches the servo, which steps or updates integ and f. -/
  | servoSample
  /-- R106. Once per second the frequency error against REF_IN updates the servo integrator. -/
  | servoFreqSample (row : Unit)
  /-- R107. No sample arrives for SRV_HOLD and the servo enters HOLDOVER with f frozen. -/
  | servoHoldTimeout
  /-- R102. A received PTP message is stamped and processed by the control processor's PTP protocol. -/
  | ptpMessageRx (best : Bool)
  /-- R103. The primary port's Announce receipt timeout expires; the device fails over to the standby port or waits for holdover. -/
  | ptpAnnounceTimeout (standby : Bool)
  /-- R108. An edge at FSYNC_IN, PPS_IN or REF_IN passes the deglitch filter, is stamped and qualified by its tracker. -/
  | refInputEdge (k : Fin 3) (falling : Bool) (width stamp : Nat)
  /-- R110. stop_n predicted edges pass without an in-window edge and the tracker enters HOLDOVER. -/
  | trackerStop (k : Fin 3)
  /-- R113. REF_IN has no transition for 1 µs and its tracker enters HOLDOVER on the next AON edge. -/
  | refInLoss
  /-- R110. A tracker emits an output edge, from an input edge or predicted in HOLDOVER. -/
  | trackerOutputEdge (k : Fin 3)
  /-- R122. A read of EDGE_NS captures EDGE_SEC and EDGE_FRAC of the same stamp. -/
  | syncEdgeNsRead (k : Fin 3)
  /-- R114. SLOT_CTRL.arm snapshots the slot's time, period, action, target and width. -/
  | slotArm (k : Fin 64) (action target width : Nat)
  /-- R117. SLOT_CTRL.disarm disarms the slot unless it fires on the same edge. -/
  | slotDisarm (k : Fin 64)
  /-- R115. The time base reaches an armed slot's time; it acts, sets SLOT_PEND and disarms or reschedules. -/
  | slotFire
  /-- R125. A latch instant of group g passes; the frame counter advances and LATCH is raised. -/
  | frameLatch (g : Fin 16)
  /-- R130. A phase of the displayed frame starts at its offset from the latch. -/
  | phaseStart (g : Fin 16) (k : Fin 4)
  /-- R130. The still interval of the displayed frame begins. -/
  | stillStart (g : Fin 16)
  /-- R133. A scheduled pulse edge is driven on SHUTn by the owning group. -/
  | shutterPulse (g : Fin 16) (n : Fin 4) (k : Fin 4) (frame : Word)
  /-- R140. GEN_CTRL go with req 0 submits a STOPPED request for the next close. -/
  | genReqStopped (g : Fin 16) (atTime : Bool)
  /-- R140. GEN_CTRL go with req 1 submits a SLACK request. -/
  | genReqSlack (g : Fin 16) (atTime : Bool)
  /-- R140. GEN_CTRL go with req 2 submits a RUN request, or starts the grid from STOPPED. -/
  | genReqRun (g : Fin 16) (atTime : Bool)
  /-- R140. GEN_CTRL go with req 3 submits an ENSIGN request. -/
  | genReqEnsign (g : Fin 16) (atTime : Bool)
  /-- R135. The commit close C_F edge passes; group commits apply, pending generator requests take effect, and content is selected. -/
  | commitClose (g : Fin 16)
  /-- R135. At C_F + 16 µs PGRP g sends RAY g the frame-start command; band, fade and probe snapshots are taken. -/
  | streamStart (g : Fin 16)
  /-- R135. A waiting frame-start command begins composition once the engine is free. -/
  | frameComposeBegin (g : Fin 16)
  /-- R136. At L_F − D_p a ring sends the Pennant of F with its valid-through position, then the gap. -/
  | pennantDepart (p : Fin 256) (ttx : Nat)
  /-- R164. BUF_CMD op 1 claims a FREE or unheld READY buffer for the host after checking its entry. -/
  | bufClaim (b : Fin 16384)
  /-- R164. BUF_CMD op 2 makes a host-owned PRODUCING buffer READY with seq. -/
  | bufReady (b : Fin 16384)
  /-- R164. BUF_CMD op 3 frees a buffer, or defers the free of a HELD buffer. -/
  | bufFree (b : Fin 16384)
  /-- R162. The last holder of a buffer ends; it retires to READY or FREE and RETIRED is raised. -/
  | bufRetire (b : Fin 16384)
  /-- R180. A write to BUF_TBL_BASE or LAYER_TBL_BASE is checked, discarded while in use, and sets valid. -/
  | layrTableBaseWrite (layer isHi : Bool) (v : Word)
  /-- R160. LUT_CTRL.fill starts filling an input LUT slot with a preset, unless refused. -/
  | lutFillStart (slot : Fin 64) (curve : Fin 4) (preset : Fin 8)
  /-- R160. An input LUT fill completes and filling clears. -/
  | lutFillDone
  /-- R626. A LUT_DATA access reads or writes an entry and advances LUT_ADDR. -/
  | lutDataAccess (write : Option Word)
  /-- R170. The descriptors named by a LAYR arm are loaded on die and the arm is presented to the gate. -/
  | layrArmLoaded
  /-- R199. A GEOM bank's context update list is loaded and checked, and the arm is presented to the gate. -/
  | geomArmLoaded
  /-- R191. A write to the mesh window takes effect in FAB one word at a time. -/
  | meshWrite (entry : Fin 2097152) (w : Fin 4) (v : Word)
  /-- R191. A read of a mesh entry completes after every earlier mesh write. -/
  | meshRead (entry : Fin 2097152) (w : Fin 4)
  /-- R201. A CTX_DATA write changes an in-force context directly while its group is STOPPED. -/
  | ctxDataWrite (w : Fin 16) (v : Word)
  /-- R202. A TYPE_CFG write defines a module type unless the type is busy or too large. -/
  | typeCfgWrite (v : Word)
  /-- R205. A VIEW_XY write sets vx and vy of the addressed view entry. -/
  | viewXyWrite (v : Word)
  /-- R626. A VIEW_Z access reads or writes vz and advances VIEW_ADDR. -/
  | viewZAccess (write : Option Word)
  /-- R193. The engine's context and patch reads for a module complete ahead of its rays, with the cull test. -/
  | modulePatchLoad (e : Fin 16) (ring : Fin 16) (m : Fin 192)
  /-- R192. The engine generates a chunk of up to 48 rays and sends their drive codes into the stream Weir. -/
  | rayChunk (e : Fin 16)
  /-- R219. A texel-cache miss returns its tile data, or ABSENT or POISON. -/
  | texelFetchReply (e : Fin 16) (b : Fin 16384) (tx ty : Fin 8192)
  /-- R221. A ray's layers are intersected, sampled and accumulated, then passed through the output LUT and tap. -/
  | rayCompose (e : Fin 16) (taken : Nat)
  /-- R241. Every ray of a frame has passed to the trim unit and FRAME_DONE is raised. -/
  | frameComposed (e : Fin 16)
  /-- R227. Notice that the last Pennant of F has left reaches RAY g and the engine abandons F. -/
  | frameAbandon (e : Fin 16)
  /-- R229. OLUT_CTRL.fill starts the identity fill of an output LUT copy, unless refused. -/
  | olutFillStart (e : Fin 16) (copy : Bool) (curve : Fin 4)
  /-- R229. An output LUT fill completes. -/
  | olutFillDone (e : Fin 16)
  /-- R626. An OLUT_DATA access reads or writes an entry and advances OLUT_ADDR. -/
  | olutDataAccess (e : Fin 16) (write : Option Word)
  /-- R626. A KERN_DATA access reads or writes a coefficient and advances KERN_ADDR. -/
  | kernDataAccess (e : Fin 16) (write : Option Word)
  /-- R231. A signature region's last ray is composed; the CRC is stored and compared. -/
  | sigRegionComplete (e : Fin 16) (r : Fin 64)
  /-- R231. Writing 1 to a SIG_TRIP bit ends the engaged action from the next stream start. -/
  | sigTripClear (e : Fin 16) (r : Fin 64)
  /-- R234. Every tap copy of a frame has been written and WB_DONE is raised. -/
  | wbFrameDone (e : Fin 16)
  /-- R237. The Ensign renderer snapshots region, palette and store at a close and composes the frame. -/
  | ensignRender (g : Fin 16)
  /-- R254. JOB_CMD go raises a request for a served layer's working pair. -/
  | scalJobCmd (layer : Fin 4096) (bank : Fin 16)
  /-- R256. The idle pre-scaler starts the ready job with the earliest deadline and claims a working buffer. -/
  | scalJobStart
  /-- R257. A job's working surface is visible; it sends READY and releases its source hold. -/
  | scalJobDone
  /-- R259. A job fails, frees its working buffer and records its code. -/
  | scalJobFail
  /-- R626. A COEF_DATA access reads or writes a coefficient and advances COEF_ADDR. -/
  | coefDataAccess (write : Option Word)
  /-- R626. A PMAP_DATA access reads or writes a layer's profile and advances PMAP_ADDR. -/
  | pmapDataAccess (write : Option Word)
  /-- R294. A write to Q_BASE or Q_SIZE is discarded while busy and sets valid. -/
  | codecQueueConfigWrite (c : Fin 4) (which : Fin 3) (v : Word)
  /-- R281. A write to Q_TAIL queues descriptors on a codec channel. -/
  | codecQTailWrite (c : Fin 4) (v : Word)
  /-- R283. A channel starts a DECODE job from its queue. -/
  | codecDecode (c : Fin 4)
  /-- R283. A channel starts an ENCODE job. -/
  | codecEncode (c : Fin 4)
  /-- R283. A channel starts a TRANSCODE job. -/
  | codecTranscode (c : Fin 4)
  /-- R283. A channel writes a state slot's 4 KiB to HBM. -/
  | codecSaveState (c : Fin 4)
  /-- R283. A channel loads 4 KiB into a state slot and checks its CRC. -/
  | codecLoadState (c : Fin 4)
  /-- R286. A codec job ends, writes its result words last with done, and Q_HEAD advances. -/
  | codecJobEnd (c : Fin 4)
  /-- R293. CTRL.abort ends the running job at the next block with status 9 and clears en. -/
  | codecAbort (c : Fin 4) (blocks : Nat)
  /-- R289. STATE_CMD op 1 claims a free state slot for the host. -/
  | codecStateClaim (slot : Fin 64)
  /-- R289. STATE_CMD op 2 releases and empties a host state slot. -/
  | codecStateRelease (slot : Fin 64)
  /-- R296. A write of TBL_BASE or TBL_WORDS is checked and sets valid. -/
  | trimTableBaseWrite (which : Fin 3) (v : Word)
  /-- R298. A lamp's trim word arrives and the trim unit computes its drive code. -/
  | trimWordReply (e : Fin 16)
  /-- R626. A TP_DATA access reads or writes a correction-set word and advances TP_ADDR. -/
  | tpDataAccess (write : Option Word)
  /-- R307. At each whole second each group's wear is accumulated and new gains are computed. -/
  | wearSecondUpdate (g : Fin 16)
  /-- R307. A group's wear writes are visible; WEAR_DONE is raised and its half flips at the next close. -/
  | wearUpdateDone (g : Fin 16)
  /-- R309. Clearing hold applies the deferred seconds in one pass. -/
  | wearHoldRelease
  /-- R310. ckpt_now starts a wear checkpoint image. -/
  | wearCkptNow
  /-- R310. ckpt_min minutes pass and a checkpoint starts. -/
  | wearCkptTimer
  /-- R310. A checkpoint ends; CKPT_DONE or CKPT_FAILED is raised. -/
  | wearCkptEnd (ok : Bool)
  /-- R312. MF_CMD.go starts the master fade. -/
  | mfGo (now : Bool)
  /-- R318. A write to a slot's RGN registers is discarded unless the slot is IDLE with nothing queued. -/
  | rgnWrite (r : Fin 64) (which : Fin 3) (v : Word)
  /-- R319. UPD_CMD go with kind 0 requests a region update from raw trim words. -/
  | updWords (slot : Fin 64) (atTime : Bool)
  /-- R319. UPD_CMD go with kind 1 requests a region update from a Bamler surface. -/
  | updBamler (slot : Fin 64) (atTime : Bool)
  /-- R324. UPD_CMD go with kind 2 requests a region update from a measurement list. -/
  | updMeasurements (slot : Fin 64) (atTime : Bool)
  /-- R320. A queued request starts when its slot returns to IDLE, entering FILL. -/
  | updRequestStart (r : Fin 64)
  /-- R321. Staging is complete and visible; the slot enters ARMED. -/
  | updFillDone (r : Fin 64)
  /-- R321. Frame T − 1 has finished and the slot enters COPY. -/
  | updCopyStart (r : Fin 64)
  /-- R321. The copy into the table is visible and the slot enters RELEASE. -/
  | updCopyDone (r : Fin 64)
  /-- R321. Frame U − 1 has finished; the slot returns to IDLE and UPD_DONE is raised. -/
  | updDrainDone (r : Fin 64)
  /-- R343. LINK_CMD.up takes a DOWN ring to RESET. -/
  | linkCmdUp (p : Fin 256)
  /-- R343. LINK_CMD.down puts the ring in DOWN at once. -/
  | linkCmdDown (p : Fin 256)
  /-- R347. LINK_CMD.remeasure starts a measurement of the ring's hop delays. -/
  | linkCmdRemeasure (p : Fin 256)
  /-- R350. LINK_CMD.restep steps the ring to its negotiated step. -/
  | linkCmdRestep (p : Fin 256)
  /-- R351. LINK_CMD.sleep 1 puts the ring into Idle. -/
  | linkCmdSleepIdle (p : Fin 256)
  /-- R351. LINK_CMD.sleep 2 puts the ring into Deep. -/
  | linkCmdSleepDeep (p : Fin 256)
  /-- R353. LINK_CMD.wake starts waking the ring from Idle or Deep. -/
  | linkCmdWake (p : Fin 256)
  /-- R356. GRP_CMD op 1 sends an up command to each named ring. -/
  | grpCmdUp (g : Fin 16) (mask : BitVec 16)
  /-- R356. GRP_CMD op 2 sends a down command to each named ring. -/
  | grpCmdDown (g : Fin 16) (mask : BitVec 16)
  /-- R356. GRP_CMD op 3 sends a remeasure command to each named ring. -/
  | grpCmdRemeasure (g : Fin 16) (mask : BitVec 16)
  /-- R356. GRP_CMD op 4 sends a restep command to each named ring. -/
  | grpCmdRestep (g : Fin 16) (mask : BitVec 16)
  /-- R343. 100 ms after entering DOWN with auto_up = 1, the ring leaves DOWN. -/
  | linkAutoUpTimer (p : Fin 256)
  /-- R343. 150 µs after entering RESET, the ring enters TRAIN. -/
  | linkResetTimer (p : Fin 256)
  /-- R343. The device's TRAIN blocks return with block lock, and the ring moves to ENUM, MEASURE or UP. -/
  | linkTrainReturn (p : Fin 256)
  /-- R343. No TRAIN return within 25 ms; the ring goes DOWN with TRAIN_FAIL. -/
  | linkTrainTimeout (p : Fin 256)
  /-- R344. The enumeration train returns and module entries are recorded. -/
  | enumReturn (p : Fin 256) (slots : List (BitVec 128)) (overflow : Bool)
  /-- R346. A measurement train returns and, after the sixteenth, hop delays are computed. -/
  | measTrainReturn (p : Fin 256) (r : BitVec 24) (fs : List (BitVec 16))
  /-- R349. The STEP block and FILLs are sent and the device switches its TX to the target step. -/
  | stepSent (p : Fin 256)
  /-- R350. A step's TRAIN does not return within 25 ms; STEP_FAIL and RESET. -/
  | stepTimeout (p : Fin 256)
  /-- R343. Loss of signal, of block lock, or a TRAIN with origin 1 at BRXp in UP or MEASURE. -/
  | linkLoss (p : Fin 256)
  /-- R352. With idle_slack, a Slack ring enters Idle after a Pennant and its gap. -/
  | slackIdleEnter (p : Fin 256)
  /-- R352. At L − D_p − Wt a Slack ring starts to wake. -/
  | slackWakeStart (p : Fin 256)
  /-- R353. A ring fails to wake in time; it goes to RESET with WAKE_FAIL. -/
  | wakeTimeout (p : Fin 256)
  /-- R341. A TX_CFG write becomes pending until the next gap, or takes effect at once off UP. -/
  | txCfgWrite (p : Fin 256) (v : Word)
  /-- R341. A pending TX_CFG takes effect mid-gap and TRIM_APPLIED is raised. -/
  | txCfgApply (p : Fin 256)
  /-- R626. A CBL_DATA access reads or writes a cable entry and advances CBL_ADDR. -/
  | cblDataAccess (p : Fin 256) (write : Option Word)
  /-- R340. After a REF_CFG change the ring reference PLL relocks within 200 µs. -/
  | refPllLock (g : Fin 16)
  /-- R379. The link packer receives a chunk of drive codes and sends flag parts on its ring. -/
  | packerChunk (g : Fin 16)
  /-- R371. A returning REPORT updates MOD_RPT, temperature, band and fault map entries. -/
  | reportRx (p : Fin 256) (payload : BitVec 128) (diag : List (BitVec 128))
  /-- R371. A FLAG_HEAD returns to the device and FLAG_RETURNED is raised. -/
  | flagHeadReturn (p : Fin 256)
  /-- R371. A Pennant returns; modules whose report did not return raise RPT_MISSING. -/
  | pennantReturn (p : Fin 256)
  /-- R393. A Pennant has not returned valid within rl + 1 µs. -/
  | penLost (p : Fin 256)
  /-- R382. WD_CMD.go withdraws the streaming frame, sends WITHDRAW and applies waiting commits. -/
  | withdrawCmd (g : Fin 16)
  /-- R382. At E + 16 µs the next attempt of the withdrawn frame starts with gen + 1. -/
  | withdrawRestart (g : Fin 16)
  /-- R386. MFW_CMD.go starts relaying a module image to the named rings and positions. -/
  | mfwRelayGo (g : Fin 16)
  /-- R386. MFW_CMD.abort ends a relay. -/
  | mfwAbort (g : Fin 16)
  /-- R387. MFW_CMD.activate sends MFW_ACTIVATE for frame X to the destination. -/
  | mfwActivateCmd (g : Fin 16)
  /-- R386. The whole image has been sent and MFW_DONE is raised. -/
  | mfwRelayDone (g : Fin 16)
  /-- R344. A module fills the first empty ENUM_SLOT and takes its position. -/
  | moduleEnumSlot (p : Fin 256) (k : Fin 256) (d : ModDesc) (filled : Nat)
  /-- R346. A module fills a MEAS_SLOT with its position and forward delay. -/
  | moduleMeasSlot (p : Fin 256) (k : Fin 256)
  /-- R373. A module receives its hold value h, used from the next Pennant. -/
  | moduleAssignRx (p : Fin 256) (k : Fin 256) (payload : BitVec 128)
  /-- R367. A module takes a part addressed to it, checks it, and inserts its report or FILL in its place. -/
  | moduleFlagPartRx (p : Fin 256) (k : Fin 256) (head : BitVec 128) (body : List (Bool × BitVec 128)) (temp : Option (BitVec 16))
  /-- R376. A module receives a valid Pennant and chooses its new content at t_rx. -/
  | modulePennantRx (p : Fin 256) (k : Fin 256) (a b : BitVec 128)
  /-- R375. At t_rx + h + φ the module latches and displays its chosen content. -/
  | moduleLatch (p : Fin 256) (k : Fin 256) (meas : List (Fin 65536 × Fin 3 × Fin 3))
  /-- R383. A module forwards WITHDRAW and discards the parts of that frame and gen. -/
  | moduleWithdrawRx (p : Fin 256) (k : Fin 256) (payload : BitVec 128)
  /-- R405. A module receives PROBE entries for a frame. -/
  | moduleProbeRx (p : Fin 256) (k : Fin 256) (payload : BitVec 128)
  /-- R405. In a probe slot the module pulses and measures the named lamp colours. -/
  | moduleProbePulse (p : Fin 256) (k : Fin 256) (slot : Fin 8) (r0 r1 r2 : Fin 3)
  /-- R410. A module applies a DIAG_CFG window from the next frame. -/
  | moduleDiagCfgRx (p : Fin 256) (k : Fin 256) (payload : BitVec 128)
  /-- R396. A colour unmeasured for window frames becomes unmeasured and an entry is queued. -/
  | moduleUnmeasuredWindow (p : Fin 256) (k : Fin 256) (lamp : Fin 65536) (colour : Fin 4)
  /-- R349. A module forwards STEP and FILLs, then switches rate and trains. -/
  | moduleStepRx (p : Fin 256) (k : Fin 256) (target : Fin 8)
  /-- R351. A module forwards SLEEP and FILLs and silences its TX. -/
  | moduleSleepRx (p : Fin 256) (k : Fin 256) (kind : Fin 4)
  /-- R357. A module loses signal or lock for 50 µs and resets its link. -/
  | moduleLinkLoss (p : Fin 256) (k : Fin 256)
  /-- R388. 250 ms after its last valid Pennant the module displays dark. -/
  | moduleHoldExpiry (p : Fin 256) (k : Fin 256)
  /-- R385. A module stores a relay chunk and, after the last, verifies the image. -/
  | moduleMfwChunkRx (p : Fin 256) (k : Fin 256) (head : BitVec 128) (data : List (BitVec 128)) (check : BitVec 128) (ok : Bool)
  /-- R387. A STAGED module begins activation at the Pennant of frame X or later. -/
  | moduleMfwActivateRx (p : Fin 256) (k : Fin 256) (payload : BitVec 128)
  /-- R387. A module's activation ends and it reports RUNNING or DEAD. -/
  | moduleActivationEnd (p : Fin 256) (k : Fin 256) (ok : Bool)
  /-- R400. FMAP_CMD op 1 sets masked on a range of fault-map bytes. -/
  | fmapMask
  /-- R400. FMAP_CMD op 2 clears masked on a range. -/
  | fmapUnmask
  /-- R400. FMAP_CMD op 3 clears the colour fields of a range. -/
  | fmapClear
  /-- R400. A fault-map command completes and FMAP_DONE is raised. -/
  | fmapCmdDone
  /-- R416. The arbiter admits a waiting request into a pseudo-channel queue; a write is acknowledged on entry. -/
  | hbmRequestAdmit (n : Fin 16)
  /-- R417. A read's data is complete and its reply leaves, corrected or POISON. -/
  | hbmReadReply (n : Fin 16)
  /-- R416. A request waits ARB_STARVE.us at the arbiter and STARVED is raised. -/
  | arbStarveTimeout
  /-- R419. An open row idles for idle_close × 8 clocks and is closed. -/
  | pageIdleClose (n bank : Fin 16)
  /-- R421. A refresh falls due and owed rises. -/
  | refDue (n : Fin 16)
  /-- R422. A REF is issued when the queue empties, a non-class-0 head arrives, or an urgent burst ends. -/
  | refIssue (n : Fin 16)
  /-- R424. The 1 ms stack temperature sample enters or leaves doubled refresh. -/
  | hbmTempSample (t : Option (BitVec 8))
  /-- R424. A sample not obtained within 2 ms counts as hot and raises TEMP_BAD. -/
  | hbmTempSampleTimeout
  /-- R429. AERR or DERR signals a parity error and the channel replays from its Eddy. -/
  | hbmParityError (c : Fin 8) (same : Bool)
  /-- R429. A channel's replay completes and CA_REPLAY is raised. -/
  | hbmReplayDone (c : Fin 8)
  /-- R430. A channel retraining completes or fails, setting chan_failed. -/
  | hbmRetrainDone (c : Fin 8) (ok : Bool)
  /-- R431. Patrol scrub reads and corrects the next granule at its rate. -/
  | scrubAccess
  /-- R432. INJ_CTRL.go with a kind arms one error injection. -/
  | injArm (kind : Fin 4)
  /-- R432. INJ_CTRL.go with kind 0 cancels an armed injection. -/
  | injCancel
  /-- R433. HBM training and clear complete, or fail, and the island enters IDLE. -/
  | hbmTrainingDone (fail : Fin 4) (chan : Fin 8) (repaired : Bool)
  /-- R66. A posted BAR2 write reaches HBM, or is discarded beyond capacity or while HBM or FAB is not in RUN. -/
  | bar2Write (a : BitVec 35) (bytes : List Byte) (poisoned : Bool)
  /-- R67. A BAR2 read returns HBM contents, 0xFF beyond capacity, or poisoned data. -/
  | bar2Read (a : BitVec 35) (n : Nat)
  /-- R602. A configuration request is answered, or retried before the device is ready. -/
  | pcieConfigRequest (ready : Bool) (req : CfgReq)
  /-- R449. A Hot Reset acts as PERST_N assertion and release on HOST. -/
  | pcieHotReset
  /-- R449. A Function Level Reset acts as PERST_N assertion and release on HOST. -/
  | pcieFlr
  /-- R449. A host link-down event acts as PERST_N assertion and release on HOST. -/
  | pcieLinkDown
  /-- R475. The host link trains or changes speed or width. -/
  | pcieLinkChange (speed : Fin 6) (width : Fin 17) (l1 : Bool)
  /-- R451. A doorbell DB_SEQ write waits for every earlier posted write to enter its queue. -/
  | dbSeqWrite (k : Fin 8) (seq : Word)
  /-- R451. The doorbell performs READY on its buffer, or is refused. -/
  | doorbellReady (k : Fin 8)
  /-- R452. A write to DMA_QTAIL queues descriptors on a DMA channel. -/
  | dmaQtailWrite (c : Fin 4) (v : Word)
  /-- R454. A DMA channel starts a copy from bus memory into HBM. -/
  | dmaToHbm (c : Fin 4)
  /-- R454. A DMA channel starts a copy from HBM to bus memory. -/
  | dmaFromHbm (c : Fin 4)
  /-- R454. A DMA channel starts filling a buffer from a bus image, encoding where needed. -/
  | dmaFillBuf (c : Fin 4)
  /-- R455. A DMA job ends and its result words are written. -/
  | dmaJobEnd (c : Fin 4)
  /-- R474. DMA_CTRL.abort ends the job with status 5 and clears en. -/
  | dmaAbort (c : Fin 4)
  /-- R456. A bus read completion arrives for a DMA channel. -/
  | dmaCompletionRx (c : Fin 4) (job : Fin 256) (data : Option (List Byte))
  /-- R456. A completion timeout expires and the job fails. -/
  | cplTimeout (c : Fin 4)
  /-- R460. A write to NVME.CTRL.drive_en enables or removes a drive. -/
  | driveEnableWrite (v : Word)
  /-- R460. A root port link trains and the drive enters INIT. -/
  | driveLinkUp (d : Fin 4) (speed : Fin 6) (width : Fin 5)
  /-- R460. A root port link goes down and the drive is ABSENT. -/
  | driveLinkDown (d : Fin 4)
  /-- R460. Drive initialisation succeeds to READY or fails to FAILED. -/
  | driveInitDone (d : Fin 4) (ok : Bool) (lbaLog2 : Fin 64) (blocks : BitVec 64) (mdts : Fin 256) (mqes : BitVec 16)
  /-- R461. An NVMe command completes; a stream chunk may be promoted. -/
  | nvmeCompletion (d : Fin 4) (tag : Fin 256) (field : BitVec 15) (data : List Byte)
  /-- R461. A command exceeds CMD_TMO and the drive controller is reset. -/
  | nvmeCmdTimeout (d : Fin 4) (tag : Fin 256)
  /-- R466. STR_CMD.start starts a stream run at STR_SEEK. -/
  | strStart (k : Fin 32)
  /-- R467. STR_CMD.stop cancels a stream's run. -/
  | strStop (k : Fin 32)
  /-- R467. STR_CMD.seek cancels the run and starts a new one. -/
  | strSeek (k : Fin 32)
  /-- R466. STR_CMD.consume releases the oldest promoted chunk of a raw stream. -/
  | strConsume (k : Fin 32)
  /-- R471. REQ_CMD op 0 reads logical blocks into HBM. -/
  | nvmeReqRead (d : Fin 4)
  /-- R471. REQ_CMD op 1 writes logical blocks from HBM. -/
  | nvmeReqWrite (d : Fin 4)
  /-- R471. REQ_CMD op 2 flushes a drive. -/
  | nvmeReqFlush (d : Fin 4)
  /-- R471. A host request ends and REQ_DONE is raised. -/
  | nvmeReqDone
  /-- R472. REC_CTRL.enter with the key resets CTL into ROM recovery WAIT. -/
  | recEnter (key : BitVec 16)
  /-- R472. REC_CTRL.go starts the ROM check of the recovery image. -/
  | recGo (src : Bool)
  /-- R473. A REC_DATA write appends an image word at REC_LEN. -/
  | recDataWrite (v : Word)
  /-- R472. The recovery check passes to RUN or fails to FAILED. -/
  | recCheckDone
  /-- R472. The recovered image signals that it has started and recovery returns to NONE. -/
  | recImageStarted
  /-- R482. A received Ethernet frame is taken by a flow, stamped, passed to CTL or discarded. -/
  | netFrameRx (n : Fin 16) (bytes : List Byte) (full : Bool)
  /-- R490. frame_tmo passes without an accepted packet and the frame closes. -/
  | flowFrameTimeout (f : Fin 8) (which : Fin 3)
  /-- R492. A flow frame's writes are visible and it is made READY, or dropped. -/
  | flowFrameReady (f : Fin 8)
  /-- R497. FL_CMD.start starts a flow, or is refused. -/
  | flowStart (f : Fin 8)
  /-- R485. FL_CMD.stop stops a flow and abandons its frame. -/
  | flowStop (f : Fin 8)
  /-- R484. A network port link goes up or down. -/
  | netLinkChange (n : Fin 16) (up align anDone : Bool) (fec : Fin 3)
  /-- R504. A Frame Start begins a camera frame and takes a queued trigger. -/
  | csiFrameStart (c : Fin 4) (vc : Fin 4)
  /-- R505. A long packet delivers one line through the camera stages. -/
  | csiLine (c : Fin 4) (vc : Fin 4) (dt : Fin 64) (raw : List (BitVec 16)) (hdr crc full : Bool)
  /-- R505. A Frame End closes the camera frame with its flags. -/
  | csiFrameEnd (c : Fin 4) (vc : Fin 4)
  /-- R505. No Frame End within FR_TMO and the frame closes short. -/
  | camFrameTimeout (c : Fin 4)
  /-- R521. A read of FR_SEQ captures FR_FLAGS and FR_SET. -/
  | camFrSeqRead (c : Fin 4)
  /-- R510. A CTRIGc pulse is emitted, TRIG_SEQ advances and the trigger is queued. -/
  | camTrigger (c : Fin 4) (k : Fin 4) (frame : Word)
  /-- R510. TRIG_CMD.start begins a sequence run. -/
  | trigStart (c : Fin 4)
  /-- R510. TRIG_CMD.stop ends a sequence run. -/
  | trigStop (c : Fin 4)
  /-- R513. SET_CMD.go arms a settings set for trigger N. -/
  | setArm (c : Fin 4) (next : Bool)
  /-- R513. A queued set starts to be written after trigger N − 1. -/
  | setWriteStart (c : Fin 4)
  /-- R512. One set entry is written as an I2C transaction, or fails on NACK. -/
  | i2cTransaction (c : Fin 4) (nack : Bool)
  /-- R512. The bus is held low for 10 ms and the set fails. -/
  | i2cBusStuckTimeout (c : Fin 4)
  /-- R514. A set completes its writes and SET_DONE is raised. -/
  | setComplete (c : Fin 4)
  /-- R515. A frame's stats block is visible and STATS_DONE is raised. -/
  | statsWritten (c : Fin 4)
  /-- R519. A frame's spot measurement list is visible and SPOT_DONE is raised. -/
  | spotListDone (c : Fin 4)
  /-- R529. CMD.start arms a port and its aligned group. -/
  | audStart (a : Fin 4)
  /-- R529. CMD.stop returns the port to STOPPED. -/
  | audStop (a : Fin 4)
  /-- R532. A frame-sync edge starts a position, begins an armed port, and is checked and stamped. -/
  | afsyncEdge (a : Fin 4) (clocks : Nat)
  /-- R527. The port fetches a transmit frame and applies the fade gain. -/
  | audTxFetch (a : Fin 4)
  /-- R527. The port writes a receive frame and advances RX_HW. -/
  | audRxWrite (a : Fin 4) (slots : List (BitVec 32))
  /-- R531. No ABCLKa edge for 2 µs and the port enters HOLDOVER. -/
  | audClockLossTimeout (a : Fin 4)
  /-- R531. In HOLDOVER a virtual frame advances the position at the last period. -/
  | audVirtualFrame (a : Fin 4)
  /-- R535. A read of LAST_STAMP_POS captures the stamp words. -/
  | audLastStampRead (a : Fin 4)
  /-- R538. CMD.go with op 0 starts a FILL. -/
  | blitFill
  /-- R544. CMD.go with op 1 starts a COPY with overlap handling. -/
  | blitCopy
  /-- R540. CMD.go with op 2 starts a GLYPH expansion. -/
  | blitGlyph
  /-- R545. A blitter operation completes; busy clears and DONE or FAILED is raised. -/
  | blitComplete
  /-- R547. CTRL.abort ends the operation at the next row boundary. -/
  | blitAbort (rows : BitVec 17)
  /-- R565. Mailbox command returning firmware and settings versions and device ID. -/
  | getInfo (tag : BitVec 8)
  /-- R556. Mailbox command verifying an image in HBM and staging it. -/
  | imgStage (a : BitVec 35) (n : Word) (tag : BitVec 8)
  /-- R567. Mailbox command writing an image to NVM. -/
  | imgStore (cls : Fin 16) (target : BitVec 8) (boot : Bool) (tag : BitVec 8) (nv : Bool)
  /-- R556. Mailbox command removing a staged entry. -/
  | imgClear (cls : Fin 16) (target tag : BitVec 8)
  /-- R571. Mailbox command starting a handover of the control processor. -/
  | cpHandover (nvm slot : Bool) (tag : BitVec 8)
  /-- R552. Mailbox command moving a helper to UPDATE and loading its image. -/
  | helperUpdate (h : Fin 32) (tag : BitVec 8)
  /-- R565. Mailbox command returning the settings payload. -/
  | settingsRead (tag : BitVec 8)
  /-- R569. Mailbox command writing a settings record to NVM. -/
  | settingsWrite (p : List Word) (tag : BitVec 8) (nv : Bool)
  /-- R561. Signed command applying the privileged settings. -/
  | policy (a : BitVec 35) (n : Word) (tag : BitVec 8) (nv : Bool)
  /-- R559. Signed command programming a root-key slot. -/
  | keyEnroll (a : BitVec 35) (n : Word) (tag : BitVec 8)
  /-- R559. Signed command revoking a root-key slot. -/
  | keyRevoke (a : BitVec 35) (n : Word) (tag : BitVec 8)
  /-- R560. Signed command raising a class's minimum security version. -/
  | svnAdvance (a : BitVec 35) (n : Word) (tag : BitVec 8)
  /-- R564. Mailbox command writing a signed attestation report to HBM. -/
  | attest (a : BitVec 35) (nonce : List Word) (tag : BitVec 8)
  /-- R576. Mailbox command returning the lifetime counters. -/
  | lifetimeRead (tag : BitVec 8)
  /-- R573. Mailbox command arming a campaign list for time T. -/
  | campaignArm (a : BitVec 35) (n ns sec : Word) (tag : BitVec 8)
  /-- R574. Mailbox command returning the state of each campaign entry. -/
  | campaignStatus (tag : BitVec 8)
  /-- R575. Mailbox command failing every pending campaign entry. -/
  | campaignCancel (tag : BitVec 8)
  /-- R235. Mailbox command setting the Ensign region. -/
  | ensignRegion (g : Fin 16) (rings : List Word) (tag : BitVec 8)
  /-- R236. Mailbox command setting the 16-entry palette. -/
  | ensignPalette (words : List Word) (tag : BitVec 8)
  /-- R236. Mailbox command copying packed nibbles from HBM into the bitmap store. -/
  | ensignLoad (a : BitVec 35) (first lamps : Word) (tag : BitVec 8)
  /-- R565. The control processor's response appears, busy clears and MB_DONE is raised. -/
  | mbResponse
  /-- R565. No response within MB_TMO; hardware completes with status 8. -/
  | mbTimeout
  /-- R552. A helper's watchdog expires and it restarts from its microcode. -/
  | helperWatchdogExpiry (h : Fin 23)
  /-- R552. A helper's update self-check ends; it enters RUN or DEAD. -/
  | helperSelfCheckEnd (h : Fin 23) (passed : Bool)
  /-- R554. At start the firmware updates each island that takes microcode from NVM, one at a time. -/
  | autoLoadSequence
  /-- R568. The ROM takes the boot record, verifies the image and starts it or enters recovery. -/
  | bootRom
  /-- R570. At first start the firmware migrates or ignores the settings record. -/
  | settingsMigration
  /-- R571. The new image is loaded and verified, or the handover fails. -/
  | handoverLoadDone
  /-- R571. The shadow self-check ends and SWITCH begins, or the handover fails. -/
  | handoverShadowDone (passed : Bool)
  /-- R571. The new image takes control and PROBATION begins. -/
  | handoverSwitchDone
  /-- R571. The new image's first watchdog signal ends PROBATION and HANDOVER_DONE is raised. -/
  | handoverProbationPass
  /-- R572. The control processor's watchdog expires after SWITCH and CTL enters DEAD. -/
  | cpWatchdogExpiry
  /-- R574. Time T is reached and helper and island entries are carried out in list order. -/
  | campaignTimeT
  /-- R576. Every 600 power-on seconds the counters are appended to the lifetime log. -/
  | lifetimeLogAppend (ok : Bool)
  /-- R580. Every 50 µs the die sensors are sampled, with rise, alert and trip checks. -/
  | sensorSample (readings : List (Option (BitVec 16)))
  /-- R585. 10 s after the rise condition ends the governor drops rf. -/
  | riseHoldExpiry
  /-- R583. Every 10 ms the governor moves each group's step by at most one. -/
  | governorTick
  /-- R591. period seconds pass and a calibration pass is requested. -/
  | calPeriodTimer
  /-- R591. CAL CMD.run requests a calibration pass. -/
  | calRun
  /-- R594. CAL CMD.save writes the calibration records to NVM. -/
  | calSave
  /-- R594. A save ends with SAVE_DONE or SAVE_FAILED. -/
  | calSaveDone (ok : Bool)
  /-- R591. A calibration pass over the lines completes and first_done is set. -/
  | calPassDone
  /-- R592. A new line scale comes into force at a quiet moment. -/
  | calStepApply (k : Fin 43) (sum : Nat)
  /-- R592. No quiet moment within 16 frames or 1 s; CAL_DEFERRED is raised. -/
  | calDeferTimeout (k : Fin 43)
  /-- R615. VDD_CORE falls below 0.2 V for 10 ms and a thermal trip is cleared. -/
  | vddCoreOff
  /-- R71. ABCLKa returns within its lock range; the follower PLL of AUD a leaves holdover, clk_holdover clears and CLK_HOLD falls. -/
  | abclkRelock (a : Fin 4)
  /-- R357. A module's receiver gains block lock after a link reset, a rate step or a wake; it stops sending TRAIN with origin 1 and starts forwarding. -/
  | moduleRxBlockLock (p : Fin 256) (k : Fin 256)
  /-- R102. At each interval the PTP protocol sends Sync, Announce or Delay_Req on a port, and the port stamps it with the transmit correction of R104 and R483. -/
  | ptpMessageTx (kind : Fin 3) (standby : Bool)
  /-- R503. A camera's D-PHY lanes lose signal, enter or leave ULPS, or start signalling; RX_STAT.state and ulps change and RX_SIGNAL rises or falls. -/
  | csiLaneSignalChange (c : Fin 4) (signal ulps : Bool)
deriving DecidableEq, Repr

end Sys2Proof
end

