-- ==== Sys2Proof/Decode.lean ====
section
/-!
DEFINITION. Decoding: no row of spec/opcode_table.json gives its command bits, so no word spells a command. The block is driven
by register accesses, bus requests and pin events, which the constructors of `Instr` name (log 1).
-/
namespace Sys2Proof

/-- The command that a word of the table's bits spells: none. -/
def decodeTableWord (_nbits _w : Nat) : Option Instr := none

end Sys2Proof
end

