-- ==== Sys2Proof/Machine/Operands.lean ====
section
/-!
DEFINITION. The operand forms of the block: bit fields of register and memory words (R10), two's complement values,
little-endian byte lists (R11), and the roundings of exact results (R16 to R19).
-/
namespace Sys2Proof.Machine

/-! ## Bit fields -/

/-- The field `[lo+len-1:lo]` of a natural number. -/
def nfld (w lo len : Nat) : Nat := w / 2 ^ lo % 2 ^ len

/-- The field `[lo+len-1:lo]` of a register word (R10). -/
def fld (w : Word) (lo len : Nat) : Nat := nfld w.toNat lo len

/-- Bit `b` of a register word. -/
def bitOf (w : Word) (b : Nat) : Bool := w.toNat.testBit b

/-- `w` with bit `b` set to `v`. -/
def putBit (w : Word) (b : Nat) (v : Bool) : Word :=
  let m : Word := BitVec.ofNat 32 (2 ^ b)
  if v then w ||| m else w &&& ~~~m

/-- 1 for true, 0 for false. -/
def b2n (b : Bool) : Nat := if b then 1 else 0

/-- The low `n` bits of `x` read as two's complement (R16). -/
def signed (n x : Nat) : Int :=
  let y := x % 2 ^ n
  if y < 2 ^ (n - 1) then (y : Int) else (y : Int) - (2 ^ n : Nat)

/-- The `n`-bit two's complement code of an integer: an assignment to an s-type keeps the low-order bits (R17). -/
def code (n : Nat) (x : Int) : Nat := (x % ((2 ^ n : Nat) : Int)).toNat

/-- `sat(x, lo, hi)` (R17). -/
def sat (x lo hi : Int) : Int := if x < lo then lo else if hi < x then hi else x

/-! ## Rounding (R19) -/

/-- Truncate: toward minus infinity. -/
def floorDiv (x : Int) (d : Nat) : Int := x / (d : Int)

/-- Round-half-up of `x / d`. -/
def halfUp (x : Int) (d : Nat) : Int := (2 * x + (d : Int)) / (2 * (d : Int))

/-- Round-half-even of `x / d`. -/
def halfEven (x : Int) (d : Nat) : Int :=
  let q := x / (d : Int)
  let r := (x - q * d).toNat
  if 2 * r < d then q
  else if d < 2 * r then q + 1
  else if q % 2 = 0 then q else q + 1

/-- Round-half-even of a rational. -/
def ratHalfEven (x : Rat) : Int := halfEven x.num x.den

/-- Truncate a rational toward minus infinity. -/
def ratFloor (x : Rat) : Int := x.num / (x.den : Int)

/-- The least integer at or above a rational. -/
def ratCeil (x : Rat) : Int := -((-x.num) / (x.den : Int))

/-- Round-half-up of a rational. -/
def ratHalfUp (x : Rat) : Int := halfUp x.num x.den

/-! ## Bytes (R11: little-endian) -/

/-- The value of a byte list, the first byte least significant. -/
def leVal : List Byte → Nat
  | [] => 0
  | b :: bs => b.toNat + 256 * leVal bs

/-- The low `n` bytes of a value, least significant first. -/
def leBytes : Nat → Nat → List Byte
  | 0, _ => []
  | n + 1, x => BitVec.ofNat 8 x :: leBytes n (x / 256)

/-- Words from bytes, four bytes a word. -/
def wordsOf : List Byte → List Word
  | a :: b :: c :: d :: r => BitVec.ofNat 32 (leVal [a, b, c, d]) :: wordsOf r
  | _ => []

/-- Bytes of a list of words. -/
def bytesOfWords (ws : List Word) : List Byte := ws.flatMap (fun w => leBytes 4 w.toNat)

end Sys2Proof.Machine
end

