-- ==== Sys2Proof/Machine/Arith.lean ====
section
/-!
DEFINITION. The numeric forms of the data path: L20 (spec/06_layers_and_surfaces.md R157), the exact powers and
logarithms that presets and drive codes name, and the two cyclic redundancy checks.

Irrational values (powers, exponentials, logarithms) are computed in fixed point with 192 fraction bits, far below the
20 bits they are rounded to; log 6 records it.
-/
namespace Sys2Proof.Machine

/-! ## L20 (R157) -/

/-- The exact value of an L20 code, in units of 2^-53. -/
def l20Units (c : Nat) : Nat :=
  let e := c / 2 ^ 14 % 64
  let m := c % 2 ^ 14
  if e = 0 then m else (2 ^ 14 + m) * 2 ^ (e - 1)

/-- The exact value of an L20 code. -/
def l20Val (c : Nat) : Rat := mkRat (l20Units c) (2 ^ 53)

/-- The L20 code of `n / d` in units of 2^-53: mantissa round-half-even, saturating at 0xF_FFFF. -/
def toL20Units (n d : Nat) : Nat :=
  let q := n / d
  if q < 2 ^ 14 then (halfEven n d).toNat
  else
    let e := Nat.log2 q - 13
    let r := (halfEven n (d * 2 ^ (e - 1))).toNat
    min 0xFFFFF (e * 2 ^ 14 + r - 2 ^ 14)

/-- The L20 code of an exact value; a negative value has none and gives 0. -/
def toL20 (x : Rat) : Nat := if x < 0 then 0 else toL20Units (x.num.toNat * 2 ^ 53) x.den

/-! ## Fixed point with 192 fraction bits -/

def fxOne : Nat := 2 ^ 192

/-- A rational in fixed point, truncated. -/
def fxOf (x : Rat) : Int := ratFloor (x * ((fxOne : Nat) : Rat))

def fxMul (a b : Int) : Int := a * b / (fxOne : Int)

/-- 2 * atanh(z) by its series, `n` terms; `zp` is the running odd power of `z`. -/
def fxAtanhSum (z2 : Int) : Nat → Nat → Int → Int
  | 0, _, _ => 0
  | n + 1, k, zp => 2 * zp / ((2 * k + 1 : Nat) : Int) + fxAtanhSum z2 n (k + 1) (fxMul zp z2)

/-- ln of a fixed-point value in [1, 2]. -/
def fxLn1 (m : Int) : Int :=
  let z := (m - fxOne) * (fxOne : Int) / (m + fxOne)
  fxAtanhSum (fxMul z z) 64 0 z

/-- ln 2. -/
def fxLn2 : Int := fxLn1 (2 * fxOne)

/-- ln of a positive rational. -/
def fxLn (x : Rat) : Int :=
  let n := x.num.toNat
  let d := x.den
  let k : Int := (Nat.log2 n : Int) - (Nat.log2 d : Int)
  let m : Int := if 0 ≤ k then (n * fxOne / (d * 2 ^ k.toNat) : Nat) else (n * 2 ^ (-k).toNat * fxOne / d : Nat)
  if m < fxOne then (k - 1) * fxLn2 + fxLn1 (2 * m) else k * fxLn2 + fxLn1 m

/-- The exponential series of `r`, `n` terms from term `k`. -/
def fxExpSum (r : Int) : Nat → Nat → Int → Int
  | 0, _, _ => 0
  | n + 1, k, term => term + fxExpSum r n (k + 1) (fxMul term r / ((k + 1 : Nat) : Int))

/-- e^x of a fixed-point value, as a rational. -/
def fxExp (x : Int) : Rat :=
  let k := x / fxLn2
  let r := x - k * fxLn2
  let m := fxExpSum r 64 0 fxOne
  if 0 ≤ k then mkRat (m * 2 ^ k.toNat) fxOne else mkRat m (fxOne * 2 ^ (-k).toNat)

/-- x^y for x at or above 0. -/
def ratPow (x y : Rat) : Rat := if x ≤ 0 then 0 else fxExp (fxMul (fxLn x) (fxOf y))

/-! ## Cyclic redundancy checks -/

/-- One bit of a reflected CRC. -/
def crcBit (poly : Nat) (c : Nat) : Nat := if c % 2 = 1 then (c / 2) ^^^ poly else c / 2

def crcBits (poly : Nat) : Nat → Nat → Nat
  | 0, c => c
  | n + 1, c => crcBits poly n (crcBit poly c)

/-- A reflected CRC-32 over bytes, with the running value. -/
def crcRun (poly : Nat) (c : Nat) : List Byte → Nat
  | [] => c
  | b :: bs => crcRun poly (crcBits poly 8 (c ^^^ b.toNat)) bs

/-- CRC-32C (Castagnoli). -/
def crc32c (bs : List Byte) : Word := BitVec.ofNat 32 (crcRun 0x82F63B78 0xFFFFFFFF bs ^^^ 0xFFFFFFFF)

/-- CRC-32 (IEEE 802.3). -/
def crc32 (bs : List Byte) : Word := BitVec.ofNat 32 (crcRun 0xEDB88320 0xFFFFFFFF bs ^^^ 0xFFFFFFFF)

/-! ## binary16 and binary32 (R18) -/

/-- A binary16 code as a value. -/
inductive Half where
  | nan
  | inf (neg : Bool)
  | fin (x : Rat)
deriving DecidableEq, Repr

/-- The magnitude of a finite binary16 code, in units of 2^-24. -/
def halfUnits (c : Nat) : Nat :=
  let e := c / 2 ^ 10 % 32
  if e = 0 then c % 2 ^ 10 else (2 ^ 10 + c % 2 ^ 10) * 2 ^ (e - 1)

/-- Reads a binary16 code. -/
def halfOf (c : Nat) : Half :=
  let neg := decide (2 ^ 15 ≤ c % 2 ^ 16)
  if c / 2 ^ 10 % 32 = 31 then (if c % 2 ^ 10 = 0 then .inf neg else .nan)
  else
    let x : Rat := mkRat (halfUnits c) (2 ^ 24)
    .fin (if neg then -x else x)

/-- The value the data path takes: NaN as 0, infinities as 65504 with their sign (R248). -/
def halfSat (c : Nat) : Rat :=
  match halfOf c with
  | .nan => 0
  | .inf true => -65504
  | .inf false => 65504
  | .fin x => x

/-- The code of a magnitude n / d in units of 2^-p, with f fraction bits: round-half-even, no limit above. -/
def floatCode (f n d : Nat) : Nat :=
  let q := n / d
  if q < 2 ^ f then (halfEven n d).toNat
  else
    let e := Nat.log2 q - (f - 1)
    e * 2 ^ f + (halfEven n (d * 2 ^ (e - 1))).toNat - 2 ^ f

/-- The binary16 code of a value, saturating at 0x7BFF in magnitude. -/
def toHalf (x : Rat) : Nat :=
  let m := min 0x7BFF (floatCode 10 (x.num.natAbs * 2 ^ 24) x.den)
  if x < 0 then 2 ^ 15 + m else m

/-- Rounds a value to binary32's 24 significant bits, and to 2^-149 below its normal range, round-half-even. -/
def toF32 (x : Rat) : Rat :=
  let n := x.num.natAbs * 2 ^ 149
  let q := n / x.den
  let r : Nat := if q < 2 ^ 24 then (halfEven n x.den).toNat
                 else
                   let e := Nat.log2 q - 23
                   (halfEven n (x.den * 2 ^ e)).toNat * 2 ^ e
  let m : Rat := mkRat r (2 ^ 149)
  if x < 0 then -m else m

/-- Bit replication of an n-bit component to 16 bits (R158, R217). -/
def rep16 (n c : Nat) : Nat :=
  match n with
  | 2 => c * 0x5555
  | 8 => c * 257
  | 10 => c * 64 + c / 16
  | _ => c

end Sys2Proof.Machine
end

