-- ==== Sys2Proof/Machine/Bamler.lean ====
section
/-!
DEFINITION. Bamler blocks as pure functions: formats and sizes, decoding, the device encoder
(spec/10_bamler_codec.md R266 to R279, spec/06_layers_and_surfaces.md R151 to R155).
-/
namespace Sys2Proof.Machine

/-! ## Formats (R151, R152, R267) -/

/-- Bytes per pixel of a format code (R151). -/
def fmtBytes (f : Nat) : Nat :=
  match f with
  | 0 | 1 => 4
  | 2 | 3 => 8
  | 4 => 6
  | 5 => 1
  | _ => 0

/-- Component depths of a format, in order (R151, R267). -/
def fmtDepths (f : Nat) : List Nat :=
  match f with
  | 0 => [8, 8, 8, 8]
  | 1 => [10, 10, 10, 2]
  | 2 | 3 => [16, 16, 16, 16]
  | 4 => [16, 16, 16]
  | 5 => [8]
  | _ => []

/-- The pair of pix_fmt and storage is one R151 allows: Bamler forms for formats 0, 1, 2 and 4 only. -/
def fmtStorageOk (f st : Nat) : Bool :=
  decide (f ≤ 5) && decide (st ≤ 5) && (decide (st = 0) || decide (f = 0) || decide (f = 1) || decide (f = 2) || decide (f = 4))

/-- Raw block size (R267). -/
def rawBlock (f : Nat) : Nat := 64 * fmtBytes f

/-- Coded size S of a fixed-ratio block; storage 1, 2, 3 is ratio 2, 3, 4 (R275). -/
def fixedSize (f st : Nat) : Nat := 16 * (rawBlock f / (16 * (st + 1)))

def ceilDiv (a b : Nat) : Nat := (a + b - 1) / b

/-- The least pitch of a surface `w` pixels wide (R155, R275, R276, R277). -/
def minPitch (f st w : Nat) : Nat :=
  match st with
  | 0 => w * fmtBytes f
  | 1 | 2 | 3 => ceilDiv w 8 * fixedSize f st
  | _ => ceilDiv w 8 * (rawBlock f + 16)

/-- A surface's size in bytes for the check of R155. -/
def surfaceBytes (st h pitch : Nat) : Nat :=
  match st with
  | 0 => pitch * h
  | 5 => pitch * ceilDiv h 8 + 16
  | _ => pitch * ceilDiv h 8

/-! ## Blocks as bit strings (R268 to R271) -/

/-- A pixel: its components, in the format's order. -/
abbrev Pixel := List Nat

/-- Slot depths m_k (R270): as the components, or with the colour transform. -/
def slotDepths (f : Nat) (ct : Bool) : List Nat :=
  match ct, fmtDepths f with
  | true, r :: _ :: _ :: rest => r :: (r + 1) :: (r + 1) :: rest
  | _, ds => ds

/-- Reads slot headers (base, q, w) from bit `pos` of the block value (R271). -/
def readHdrs (v : Nat) : List Nat → Nat → List (Nat × Nat × Nat) × Nat
  | [], pos => ([], pos)
  | m :: ms, pos =>
    let h := (nfld v pos m, nfld v (pos + m) 5, nfld v (pos + m + 5) 5)
    let r := readHdrs v ms (pos + m + 10)
    (h :: r.1, r.2)

/-- T of R271. -/
def codedBits (ms : List Nat) (hs : List (Nat × Nat × Nat)) : Nat :=
  8 + (ms.map (· + 10)).foldl (· + ·) 0 + 64 * (hs.map (fun h => h.2.2)).foldl (· + ·) 0

/-- The headers of a coded block are valid (R273). -/
def hdrsOk (ms : List Nat) (hs : List (Nat × Nat × Nat)) : Bool :=
  (ms.zip hs).all (fun x => decide (x.2.2.1 ≤ x.1) && decide (x.2.2.2 ≤ x.1) && (decide (x.2.2.2 ≠ 0) || decide (x.2.2.1 = 0)))

/-- v[k][i] of R272. -/
def slotVal (m : Nat) (h : Nat × Nat × Nat) (c : Nat) : Nat :=
  let v := if h.2.2 = 0 then h.1 else (h.1 + c * 2 ^ h.2.1 + 2 ^ h.2.1 / 2) % 2 ^ 18
  min v (2 ^ m - 1)

/-- Pixel `i`'s slot values from the code planes that start at `pos`. -/
def readPlanes (v i : Nat) : List Nat → List (Nat × Nat × Nat) → Nat → List Nat
  | m :: ms, h :: hs, pos => slotVal m h (nfld v (pos + i * h.2.2) h.2.2) :: readPlanes v i ms hs (pos + 64 * h.2.2)
  | _, _, _ => []

/-- Undoes the colour transform (R272). -/
def unTransform (f : Nat) (ct : Bool) (p : Pixel) : Pixel :=
  match ct, p with
  | true, g :: a :: b :: rest =>
    let n := (fmtDepths f).headD 0
    let top : Int := ((2 ^ n - 1 : Nat) : Int)
    (sat ((a : Int) + g - 2 ^ n) 0 top).toNat :: g :: (sat ((b : Int) + g - 2 ^ n) 0 top).toNat :: rest
  | _, _ => p

/-- Decodes a coded block held in `v`, at most `space` bits long: its pixels and its length T; none where invalid (R273). -/
def decodeCoded (f v space : Nat) : Option (List Pixel × Nat) :=
  let ct := nfld v 2 1 = 1
  let ms := slotDepths f ct
  let (hs, pos) := readHdrs v ms 8
  let t := codedBits ms hs
  if nfld v 0 2 ≠ 0 ∨ nfld v 7 1 ≠ 0 ∨ hdrsOk ms hs = false ∨ space < t then none
  else some ((List.range 64).map (fun i => unTransform f ct (readPlanes v i ms hs pos)), t)

/-- Decodes a fixed-ratio block: slot and hist_reset must be 0 (R269, R273). -/
def decodeFixed (f st : Nat) (bs : List Byte) : Option (List Pixel) :=
  let v := leVal bs
  if nfld v 3 4 ≠ 0 then none else (decodeCoded f v (8 * fixedSize f st)).map (·.1)

/-- A raw pixel's components from its linear bytes (R151). -/
def pixelOf (f : Nat) (v : Nat) : Pixel :=
  ((fmtDepths f).foldl (fun acc n => (acc.1 ++ [nfld v acc.2 n], acc.2 + n)) (([] : List Nat), 0)).1

/-- The linear bytes of a pixel, as a value. -/
def pixelVal (f : Nat) (p : Pixel) : Nat :=
  ((fmtDepths f).zip p).foldr (fun x acc => x.2 % 2 ^ x.1 + acc * 2 ^ x.1) 0

/-! ## The device encoder (R274, R276) -/

/-- bitlen of R274. -/
def bitlen (x : Nat) : Nat := if x = 0 then 0 else Nat.log2 x + 1

/-- Applies the colour transform (R270). -/
def transform (f : Nat) (ct : Bool) (p : Pixel) : Pixel :=
  match ct, p with
  | true, r :: g :: b :: rest =>
    let n := (fmtDepths f).headD 0
    g :: (r + 2 ^ n - g) :: (b + 2 ^ n - g) :: rest
  | _, _ => p

/-- The least and greatest value of each slot over the pixels. -/
def slotRange (ps : List Pixel) : List (Nat × Nat) :=
  match ps with
  | [] => []
  | p :: r => r.foldl (fun acc q => (acc.zip q).map (fun x => (min x.1.1 x.2, max x.1.2 x.2))) (p.map (fun x => (x, x)))

def lenUnder (f : Nat) (ps : List Pixel) (ct : Bool) : Nat :=
  ((slotRange (ps.map (transform f ct))).map (fun r => bitlen (r.2 - r.1))).foldl (· + ·) 0

/-- The slot of largest width, ties to the highest. -/
def widest (ws : List Nat) : Nat :=
  ((ws.foldl (fun (acc : Nat × Nat × Nat) w => if acc.2.2 ≤ w then (acc.1 + 1, acc.1, w) else (acc.1 + 1, acc.2.1, acc.2.2)) (0, 0, 0))).2.1

/-- The while loop of R274, with fuel. -/
def shiftLoop (rs : List (Nat × Nat)) (budget : Nat) : Nat → List Nat → List Nat → List Nat × List Nat
  | 0, qs, ws => (qs, ws)
  | n + 1, qs, ws =>
    if ws.foldl (· + ·) 0 ≤ budget then (qs, ws)
    else
      let k := widest ws
      let q := qs.getD k 0 + 1
      let r := rs.getD k (0, 0)
      shiftLoop rs budget n (qs.set k q) (ws.set k (bitlen ((r.2 - r.1) / 2 ^ q)))

/-- Lays values of given widths one after another, the first lowest (R268). -/
def packBits : List (Nat × Nat) → Nat
  | [] => 0
  | (n, x) :: r => x % 2 ^ n + packBits r * 2 ^ n

/-- A coded block as a value, and its length T in bits; `size` the fixed-ratio size in bytes, or 0 for no limit. -/
def encodeCoded (f size : Nat) (ps : List Pixel) : Nat × Nat :=
  let ct := decide (lenUnder f ps true < lenUnder f ps false) && decide (3 ≤ (fmtDepths f).length)
  let ms := slotDepths f ct
  let vs := ps.map (transform f ct)
  let rs := slotRange vs
  let w0 := rs.map (fun r => bitlen (r.2 - r.1))
  let hdr := (ms.map (· + 10)).foldl (· + ·) 0
  let (qs, ws) := if size = 0 then (rs.map (fun _ => 0), w0)
                  else shiftLoop rs ((8 * size - 8 - hdr) / 64) 128 (rs.map (fun _ => 0)) w0
  let qs := (qs.zip ws).map (fun x => if x.2 = 0 then 0 else x.1)
  let head := (ms.zip (rs.zip (qs.zip ws))).flatMap (fun x => [(x.1, x.2.1.1), (5, x.2.2.1), (5, x.2.2.2)])
  let planes := (List.range ms.length).flatMap (fun k =>
    vs.map (fun p => (ws.getD k 0, (p.getD k 0 - (rs.getD k (0, 0)).1) / 2 ^ qs.getD k 0)))
  (packBits ((8, if ct then 4 else 0) :: (head ++ planes)), 8 + hdr + 64 * ws.foldl (· + ·) 0)

/-- A fixed-ratio block (R274, R275). -/
def encodeFixed (f st : Nat) (ps : List Pixel) : List Byte :=
  leBytes (fixedSize f st) (encodeCoded f (fixedSize f st) ps).1

/-- A lossless-capped block (R276): coded and padded to 16 B, or raw behind a 16 B header. -/
def encodeCapped (f : Nat) (ps : List Pixel) : List Byte :=
  let (v, t) := encodeCoded f 0 ps
  let t16 := ceilDiv t 128 * 128
  if t16 < 8 * rawBlock f then leBytes (t16 / 8) v
  else leBytes 16 1 ++ ps.flatMap (fun p => leBytes (fmtBytes f) (pixelVal f p))

/-- A block of the lossless-capped or stream forms at the head of a byte list. -/
inductive BlockRead where
  | pixels (ps : List Pixel) (len : Nat) (histReset : Bool)
  | rep (slot : Nat) (histReset : Bool)
  | invalid
deriving DecidableEq, Repr

/-- Reads one lossless-capped or stream block from the head of `bs` (R269, R273, R276, R277). R273 lists what makes a block invalid; what it
does not list, the fields of other modes and the 15 bytes after the header of a raw or repeat block, is not looked at (DEDUCED, log 66). -/
def readBlock (f : Nat) (stream : Bool) (bs : List Byte) : BlockRead :=
  let v := leVal (bs.take (rawBlock f + 16))
  let mode := nfld v 0 2
  let hr := nfld v 6 1 = 1
  if nfld v 7 1 ≠ 0 ∨ (hr = true ∧ stream = false) then .invalid
  else if mode = 0 then
    match decodeCoded f (v - nfld v 6 1 * 64) (8 * (rawBlock f + 16)) with
    | some (ps, t) => .pixels ps (ceilDiv t 128 * 16) hr
    | none => .invalid
  else if mode = 1 then
    .pixels ((List.range 64).map (fun i => pixelOf f (nfld v (128 + i * 8 * fmtBytes f) (8 * fmtBytes f)))) (16 + rawBlock f) hr
  else if mode = 2 then
    if stream = false ∨ 6 ≤ nfld v 3 3 then .invalid else .rep (nfld v 3 3) hr
  else .invalid

/-- Pixel index within its block (R266). -/
def blockIndex (x y : Nat) : Nat := x % 8 + 8 * (y % 8)

/-- The 64 pixels of block (bx, by) of a surface given by its pixels, edges filled from the nearest inside pixel (R266). -/
def blockOf (px : Nat → Nat → Pixel) (w h bx byy : Nat) : List Pixel :=
  (List.range 64).map (fun i => px (min (8 * bx + i % 8) (w - 1)) (min (8 * byy + i / 8) (h - 1)))

end Sys2Proof.Machine
end

