-- ==== Sys2Proof/Config.lean ====
section
/-!
DEFINITION. What the spec leaves open: free values that nothing in the model evaluates, each drawn at a fresh index, and
the functions of external standards that the spec names without defining.
-/
namespace Sys2Proof

/-- A choice the spec leaves open between two outcomes (log 2). -/
opaque Config.freeBool : Nat → Bool

/-- A word whose value the spec leaves open (log 2). -/
opaque Config.freeWord : Nat → BitVec 32

/-- A number whose value the spec leaves open (log 2). -/
opaque Config.freeNat : Nat → Nat

/-- A byte whose value the spec leaves open (log 2). -/
opaque Config.freeByte : Nat → Byte

/-- The scrambler's state with which a run of blocks starts on a lane, the oldest line bit in bit 0: the blocks before it are
not all listed (R333; log 69). Lanes 0 to 255 are the ring ports' transmitters, 256 + 256 p + k the module at place k of
ring p. -/
opaque Config.laneState : Nat → Nat → BitVec 58

/-- The receive slicer offset that a measurement finds for a lane, the loss-of-signal threshold that it is trimmed to, and the
equaliser code of a lane that adapts (R354, R593; log 71). Lanes 0 to 255 are the rings' receivers, 256 to 271 the network's. -/
opaque Config.slicerOffset : Nat → Nat → Byte
opaque Config.losThreshold : Nat → Nat → Byte
opaque Config.laneEqualiser : Nat → Nat → Byte

/-- SHAKE256 of a byte list to a number of bytes, an external standard (log 7). -/
opaque Config.shake256 : List Byte → Nat → List Byte

/-- Ed448 verification of a signature over a message under a public key, an external standard (log 7). -/
opaque Config.ed448Verify : List Byte → List Byte → List Byte → Bool

/-- Ed448 signature of a message under the device key of a part, an external standard (log 7). -/
opaque Config.ed448Sign : List Byte → List Byte

/-- The digest of the root key that slot 0 was given at manufacture (R559; log 7). -/
opaque Config.rootKeyDigest : List Byte

/-- The device ID in fuses (R578; log 7). -/
opaque Config.deviceId : BitVec 64

/-- The public attestation key of the die (R564; log 7). -/
opaque Config.attestKey : List Byte

end Sys2Proof
end

