-- ==== Sys2Proof/Machine/Offsets.lean ====
section
/-!
DEFINITION. The offsets of the registers within their pages, under the names the register lists of spec/ give them;
a repeated register's name stands for its first copy.
-/
namespace Sys2Proof.Off

/-! The page header. -/
abbrev HDR_PID : Nat := 0x0
abbrev HDR_PCAP : Nat := 0x4
abbrev HDR_PISL : Nat := 0x8
abbrev HDR_PSTATE : Nat := 0xc
abbrev HDR_PCTRL : Nat := 0x10
abbrev HDR_EV_RAW : Nat := 0x20
abbrev HDR_EV_EN : Nat := 0x24
abbrev HDR_EV_PEND : Nat := 0x28
abbrev HDR_EV_SET : Nat := 0x30
abbrev HDR_CMT_CTRL : Nat := 0x40
abbrev HDR_CMT_STAT : Nat := 0x44
abbrev HDR_CMT_TIME_LO : Nat := 0x48
abbrev HDR_CMT_TIME_HI : Nat := 0x4c
abbrev HDR_CMT_SEQ : Nat := 0x50
abbrev HDR_CMT_FRAME : Nat := 0x54
abbrev HDR_IMG_VER : Nat := 0x60
/-! GLB. -/
abbrev GLB_SUM_LO : Nat := 0x100
abbrev GLB_SUM_HI : Nat := 0x104
abbrev GLB_VEC_IN_LO : Nat := 0x108
abbrev GLB_VEC_IN_HI : Nat := 0x10c
abbrev GLB_EOI : Nat := 0x110
abbrev GLB_CMT_HOLD : Nat := 0x114
abbrev GLB_FLUSH : Nat := 0x118
abbrev GLB_GSUM : Nat := 0x140
abbrev GLB_VEC_MAP : Nat := 0x200
/-! ISL. -/
abbrev ISL_ISTAT : Nat := 0x100
abbrev ISL_DOWN_LO : Nat := 0x200
abbrev ISL_DOWN_HI : Nat := 0x204
abbrev ISL_DEAD_LO : Nat := 0x208
abbrev ISL_DEAD_HI : Nat := 0x20c
abbrev ISL_PWR_SEQ : Nat := 0x210
abbrev ISL_REFUSED_LO : Nat := 0x214
abbrev ISL_REFUSED_HI : Nat := 0x218
/-! CPM. -/
abbrev CPM_MB_CTRL : Nat := 0x100
abbrev CPM_MB_STAT : Nat := 0x104
abbrev CPM_MB_TMO : Nat := 0x108
abbrev CPM_CP_STAT : Nat := 0x10c
abbrev CPM_HO_INFO : Nat := 0x110
abbrev CPM_CAMP_STAT : Nat := 0x114
abbrev CPM_HLP_STAT : Nat := 0x140
abbrev CPM_HLP_VER : Nat := 0x1c0
abbrev CPM_MB_REQ : Nat := 0x400
abbrev CPM_MB_RSP : Nat := 0x500
/-! SEC. -/
abbrev SEC_KEY_STAT : Nat := 0x100
abbrev SEC_MIN_SVN : Nat := 0x104
abbrev SEC_DEBUG : Nat := 0x108
abbrev SEC_POLICY_SEQ : Nat := 0x10c
abbrev SEC_NONCE : Nat := 0x110
abbrev SEC_DEV_ID_LO : Nat := 0x120
abbrev SEC_DEV_ID_HI : Nat := 0x124
/-! TIME. -/
abbrev TIME_NOW_NS : Nat := 0x100
abbrev TIME_NOW_SEC_LO : Nat := 0x104
abbrev TIME_NOW_SEC_HI : Nat := 0x108
abbrev TIME_NOW_FRAC : Nat := 0x10c
abbrev TIME_SET_NS : Nat := 0x110
abbrev TIME_SET_SEC_LO : Nat := 0x114
abbrev TIME_SET_SEC_HI : Nat := 0x118
abbrev TIME_TCTRL : Nat := 0x11c
abbrev TIME_ADJ_OFFSET : Nat := 0x120
abbrev TIME_UTC_OFF : Nat := 0x124
abbrev TIME_SRV_CTRL : Nat := 0x130
abbrev TIME_SRV_KP : Nat := 0x134
abbrev TIME_SRV_KI : Nat := 0x138
abbrev TIME_SRV_STEP_THR : Nat := 0x13c
abbrev TIME_SRV_LOCK_THR : Nat := 0x140
abbrev TIME_SRV_UNLOCK_THR : Nat := 0x144
abbrev TIME_SRV_SLEW : Nat := 0x148
abbrev TIME_SRV_FMAX : Nat := 0x14c
abbrev TIME_SRV_HOLD : Nat := 0x150
abbrev TIME_SRV_STAT : Nat := 0x160
abbrev TIME_SRV_OFFSET : Nat := 0x164
abbrev TIME_SRV_FREQ : Nat := 0x168
abbrev TIME_PTP_CTRL : Nat := 0x170
abbrev TIME_PTP_ASYM : Nat := 0x174
abbrev TIME_PTP_RATES : Nat := 0x178
abbrev TIME_PTP_STAT : Nat := 0x180
abbrev TIME_PTP_MPD : Nat := 0x184
abbrev TIME_GM_ID_LO : Nat := 0x188
abbrev TIME_GM_ID_HI : Nat := 0x18c
abbrev TIME_SLOT_PEND_LO : Nat := 0x1a0
abbrev TIME_SLOT_PEND_HI : Nat := 0x1a4
abbrev TIME_SLOT_IE_LO : Nat := 0x1a8
abbrev TIME_SLOT_IE_HI : Nat := 0x1ac
abbrev TIME_SLOT_NS : Nat := 0x400
abbrev TIME_SLOT_SEC : Nat := 0x404
abbrev TIME_SLOT_PERIOD : Nat := 0x408
abbrev TIME_SLOT_CTRL : Nat := 0x40c
/-! SYNC. -/
abbrev SYNC_CFG : Nat := 0x100
abbrev SYNC_NOMINAL : Nat := 0x104
abbrev SYNC_WINDOW : Nat := 0x108
abbrev SYNC_TOL : Nat := 0x10c
abbrev SYNC_SLEW : Nat := 0x110
abbrev SYNC_STAT : Nat := 0x114
abbrev SYNC_PERIOD_NS : Nat := 0x118
abbrev SYNC_PERIOD_FRAC : Nat := 0x11c
abbrev SYNC_EDGE_NS : Nat := 0x120
abbrev SYNC_EDGE_SEC : Nat := 0x124
abbrev SYNC_EDGE_FRAC : Nat := 0x128
abbrev SYNC_PHASE_ERR : Nat := 0x12c
abbrev SYNC_SDN : Nat := 0x1c0
/-! TGEN. -/
abbrev TGEN_MODE : Nat := 0x100
abbrev TGEN_PERIOD_NS : Nat := 0x104
abbrev TGEN_PERIOD_FRAC : Nat := 0x108
abbrev TGEN_LATCH_OFS : Nat := 0x10c
abbrev TGEN_STILL : Nat := 0x110
abbrev TGEN_CLOSE_LEAD : Nat := 0x114
abbrev TGEN_GEN_SLEW : Nat := 0x118
abbrev TGEN_PHASE_OFS : Nat := 0x124
abbrev TGEN_SHUT_CLAIM : Nat := 0x130
abbrev TGEN_SHUT_CFG : Nat := 0x140
abbrev TGEN_SHUT_DLY : Nat := 0x144
abbrev TGEN_SHUT_WID : Nat := 0x148
abbrev TGEN_GEN_CTRL : Nat := 0x180
abbrev TGEN_GEN_TIME_LO : Nat := 0x184
abbrev TGEN_GEN_TIME_HI : Nat := 0x188
abbrev TGEN_STAT : Nat := 0x190
abbrev TGEN_LATCH_FRAME : Nat := 0x194
abbrev TGEN_LATCH_NS : Nat := 0x198
abbrev TGEN_LATCH_SEC : Nat := 0x19c
abbrev TGEN_LATCH_FRAC : Nat := 0x1a0
abbrev TGEN_NEXT_NS : Nat := 0x1a4
abbrev TGEN_NEXT_SEC : Nat := 0x1a8
abbrev TGEN_PERIOD_NOW_NS : Nat := 0x1ac
abbrev TGEN_PERIOD_NOW_FRAC : Nat := 0x1b0
abbrev TGEN_PHASE_ERR : Nat := 0x1b4
/-! LAYR. -/
abbrev LAYR_BANK_SEL : Nat := 0x100
abbrev LAYR_BUF_TBL_BASE_LO : Nat := 0x104
abbrev LAYR_BUF_TBL_BASE_HI : Nat := 0x108
abbrev LAYR_LAYER_TBL_BASE_LO : Nat := 0x10c
abbrev LAYR_LAYER_TBL_BASE_HI : Nat := 0x110
abbrev LAYR_BUF_CMD : Nat := 0x120
abbrev LAYR_BUF_ARG : Nat := 0x124
abbrev LAYR_BUF_CMD_STAT : Nat := 0x128
abbrev LAYR_BUF_QUERY : Nat := 0x130
abbrev LAYR_BUF_STATE : Nat := 0x134
abbrev LAYR_BUF_HOLD : Nat := 0x138
abbrev LAYR_BUF_SEQ : Nat := 0x13c
abbrev LAYR_LUT_CTRL : Nat := 0x140
abbrev LAYR_LUT_ADDR : Nat := 0x144
abbrev LAYR_LUT_DATA : Nat := 0x148
abbrev LAYR_LUT_STAT : Nat := 0x14c
abbrev LAYR_REJ_REASON : Nat := 0x160
abbrev LAYR_ACTIVE_CNT : Nat := 0x164
abbrev LAYR_STACK : Nat := 0x400
abbrev LAYR_STACK_CNT : Nat := 0x500
abbrev LAYR_NR : Nat := 0x800
/-! GEOM. -/
abbrev GEOM_BANK_SEL : Nat := 0x100
abbrev GEOM_CTX_LIST_LO : Nat := 0x104
abbrev GEOM_CTX_LIST_HI : Nat := 0x108
abbrev GEOM_CTX_LIST_CNT : Nat := 0x10c
abbrev GEOM_REJ_REASON : Nat := 0x110
abbrev GEOM_CTX_SEL : Nat := 0x120
abbrev GEOM_CTX_DATA : Nat := 0x140
abbrev GEOM_TYPE_SEL : Nat := 0x180
abbrev GEOM_TYPE_CFG : Nat := 0x184
abbrev GEOM_TYPE_REFS : Nat := 0x188
abbrev GEOM_VIEW_ADDR : Nat := 0x18c
abbrev GEOM_VIEW_XY : Nat := 0x190
abbrev GEOM_VIEW_Z : Nat := 0x194
/-! RENG. -/
abbrev RENG_DEPTH : Nat := 0x100
abbrev RENG_T_STOP : Nat := 0x104
abbrev RENG_CTRL : Nat := 0x108
abbrev RENG_OLUT_SEL : Nat := 0x10c
abbrev RENG_BG_R : Nat := 0x110
abbrev RENG_BG_G : Nat := 0x114
abbrev RENG_BG_B : Nat := 0x118
abbrev RENG_DCAP_NOW : Nat := 0x150
abbrev RENG_STAT : Nat := 0x154
abbrev RENG_DONE_FRAME : Nat := 0x158
abbrev RENG_REJ_REASON : Nat := 0x15c
abbrev RENG_OLUT_CTRL : Nat := 0x160
abbrev RENG_OLUT_ADDR : Nat := 0x164
abbrev RENG_OLUT_DATA : Nat := 0x168
abbrev RENG_OLUT_STAT : Nat := 0x16c
abbrev RENG_KERN_SEL : Nat := 0x170
abbrev RENG_KERN_ADDR : Nat := 0x174
abbrev RENG_KERN_DATA : Nat := 0x178
abbrev RENG_WB_CTRL : Nat := 0x180
abbrev RENG_WB_BASE_LO : Nat := 0x184
abbrev RENG_WB_BASE_HI : Nat := 0x188
abbrev RENG_WB_TRIM_LO : Nat := 0x18c
abbrev RENG_WB_COUNT : Nat := 0x190
abbrev RENG_FAULT_MAP : Nat := 0x1a0
abbrev RENG_SIG_CFG : Nat := 0x200
abbrev RENG_SIG_EXP : Nat := 0x204
abbrev RENG_SIG_CRC : Nat := 0x208
abbrev RENG_SIG_TRIP_LO : Nat := 0x600
abbrev RENG_SIG_TRIP_HI : Nat := 0x604
abbrev RENG_SIG_MIS_LO : Nat := 0x608
abbrev RENG_SIG_MIS_HI : Nat := 0x60c
/-! SCAL. -/
abbrev SCAL_CTRL : Nat := 0x100
abbrev SCAL_STAT : Nat := 0x104
abbrev SCAL_JOB_CMD : Nat := 0x108
abbrev SCAL_JOB_CUR : Nat := 0x10c
abbrev SCAL_JOB_PROG : Nat := 0x110
abbrev SCAL_JOB_TAPS : Nat := 0x114
abbrev SCAL_FAIL_INFO : Nat := 0x118
abbrev SCAL_PMAP_ADDR : Nat := 0x120
abbrev SCAL_PMAP_DATA : Nat := 0x124
abbrev SCAL_COEF_SEL : Nat := 0x130
abbrev SCAL_COEF_ADDR : Nat := 0x134
abbrev SCAL_COEF_DATA : Nat := 0x138
abbrev SCAL_COEF_BUSY : Nat := 0x13c
abbrev SCAL_REJ_REASON : Nat := 0x140
abbrev SCAL_PROF : Nat := 0x200
/-! CODEC. -/
abbrev CODEC_CTRL : Nat := 0x100
abbrev CODEC_STAT : Nat := 0x104
abbrev CODEC_Q_BASE_LO : Nat := 0x108
abbrev CODEC_Q_BASE_HI : Nat := 0x10c
abbrev CODEC_Q_SIZE : Nat := 0x110
abbrev CODEC_Q_TAIL : Nat := 0x114
abbrev CODEC_Q_HEAD : Nat := 0x118
abbrev CODEC_CUR_BLOCKS : Nat := 0x11c
abbrev CODEC_LAST : Nat := 0x120
abbrev CODEC_STATE_CMD : Nat := 0x140
abbrev CODEC_STATE_RESULT : Nat := 0x144
abbrev CODEC_STATE_HOST_LO : Nat := 0x148
abbrev CODEC_STATE_HOST_HI : Nat := 0x14c
abbrev CODEC_STATE_USED_LO : Nat := 0x150
abbrev CODEC_STATE_USED_HI : Nat := 0x154
/-! TRIM. -/
abbrev TRIM_BANK_SEL : Nat := 0x100
abbrev TRIM_CTRL : Nat := 0x104
abbrev TRIM_TSET_LO : Nat := 0x108
abbrev TRIM_TSET_HI : Nat := 0x10c
abbrev TRIM_REJ_REASON : Nat := 0x110
abbrev TRIM_TBL_BASE_LO : Nat := 0x120
abbrev TRIM_TBL_BASE_HI : Nat := 0x124
abbrev TRIM_TBL_WORDS : Nat := 0x128
abbrev TRIM_WACC_BASE_LO : Nat := 0x130
abbrev TRIM_WACC_BASE_HI : Nat := 0x134
abbrev TRIM_WGAIN_BASE_LO : Nat := 0x138
abbrev TRIM_WGAIN_BASE_HI : Nat := 0x13c
abbrev TRIM_WRATE_BASE_LO : Nat := 0x140
abbrev TRIM_WRATE_BASE_HI : Nat := 0x144
abbrev TRIM_WEAR_BLOCKS : Nat := 0x148
abbrev TRIM_WEAR_CTRL : Nat := 0x14c
abbrev TRIM_WEAR_STAT : Nat := 0x150
abbrev TRIM_WEAR_HALF : Nat := 0x154
abbrev TRIM_WEAR_SEC : Nat := 0x158
abbrev TRIM_CKPT_LBA_LO : Nat := 0x15c
abbrev TRIM_CKPT_LBA_HI : Nat := 0x160
abbrev TRIM_TP_SEL : Nat := 0x170
abbrev TRIM_TP_ADDR : Nat := 0x174
abbrev TRIM_TP_DATA : Nat := 0x178
abbrev TRIM_TP_STAT : Nat := 0x17c
abbrev TRIM_UPD_CTRL : Nat := 0x180
abbrev TRIM_STAGE_BASE_LO : Nat := 0x184
abbrev TRIM_STAGE_BASE_HI : Nat := 0x188
abbrev TRIM_UPD_SRC_LO : Nat := 0x190
abbrev TRIM_UPD_SRC_HI : Nat := 0x194
abbrev TRIM_UPD_SRC_LEN : Nat := 0x198
abbrev TRIM_UPD_TARGET_RG : Nat := 0x19c
abbrev TRIM_UPD_TARGET_B : Nat := 0x1a0
abbrev TRIM_UPD_TIME_LO : Nat := 0x1a4
abbrev TRIM_UPD_TIME_HI : Nat := 0x1a8
abbrev TRIM_UPD_CMD : Nat := 0x1ac
abbrev TRIM_UPD_INFO : Nat := 0x1b0
abbrev TRIM_RGN_LO : Nat := 0x400
abbrev TRIM_RGN_CNT : Nat := 0x404
abbrev TRIM_RGN_CFG : Nat := 0x408
abbrev TRIM_RGN_STAT : Nat := 0x40c
abbrev TRIM_RGN_FRAME : Nat := 0x800
/-! FADE. -/
abbrev FADE_BANK_SEL : Nat := 0x100
abbrev FADE_GF_TARGET : Nat := 0x104
abbrev FADE_GF_DUR : Nat := 0x108
abbrev FADE_MF_TARGET : Nat := 0x110
abbrev FADE_MF_DUR : Nat := 0x114
abbrev FADE_MF_T0_NS : Nat := 0x118
abbrev FADE_MF_T0_SEC : Nat := 0x11c
abbrev FADE_MF_CMD : Nat := 0x120
abbrev FADE_MF_STAT : Nat := 0x124
abbrev FADE_ATT : Nat := 0x200
/-! BPORT. -/
abbrev BPORT_LINK_CMD : Nat := 0x100
abbrev BPORT_LINK_CFG : Nat := 0x104
abbrev BPORT_LINK_STAT : Nat := 0x108
abbrev BPORT_LOOP_DLY : Nat := 0x10c
abbrev BPORT_CBL_ADDR : Nat := 0x110
abbrev BPORT_CBL_DATA : Nat := 0x114
abbrev BPORT_TX_CFG : Nat := 0x118
abbrev BPORT_TX_STAT : Nat := 0x11c
abbrev BPORT_RX_CFG : Nat := 0x120
abbrev BPORT_RX_STAT : Nat := 0x124
abbrev BPORT_MOD_ID_LO : Nat := 0x400
abbrev BPORT_MOD_ID_HI : Nat := 0x404
abbrev BPORT_MOD_INFO : Nat := 0x408
abbrev BPORT_MOD_HOP : Nat := 0x40c
abbrev BPORT_STREAM_CFG : Nat := 0x200
abbrev BPORT_PEN_LEAD : Nat := 0x204
abbrev BPORT_LAST_PEN : Nat := 0x208
abbrev BPORT_LAST_FRAME : Nat := 0x20c
abbrev BPORT_FRAME_BLOCKS : Nat := 0x210
abbrev BPORT_RPT_SEL : Nat := 0x214
abbrev BPORT_RPT_FRAME : Nat := 0x218
abbrev BPORT_RPT_FW : Nat := 0x21c
abbrev BPORT_MOD_RPT : Nat := 0x280
/-! BGRP. -/
abbrev BGRP_REF_CFG : Nat := 0x100
abbrev BGRP_REF_STAT : Nat := 0x104
abbrev BGRP_GAP_CFG : Nat := 0x108
abbrev BGRP_RINGS_UP : Nat := 0x10c
abbrev BGRP_GRP_CMD : Nat := 0x110
abbrev BGRP_REJ_REASON : Nat := 0x114
abbrev BGRP_WD_CMD : Nat := 0x200
abbrev BGRP_WD_STAT : Nat := 0x204
abbrev BGRP_DGST_BASE_LO : Nat := 0x208
abbrev BGRP_DGST_BASE_HI : Nat := 0x20c
abbrev BGRP_MFW_SRC_LO : Nat := 0x210
abbrev BGRP_MFW_SRC_HI : Nat := 0x214
abbrev BGRP_MFW_LEN : Nat := 0x218
abbrev BGRP_MFW_DEST : Nat := 0x21c
abbrev BGRP_MFW_CFG : Nat := 0x220
abbrev BGRP_MFW_CMD : Nat := 0x224
abbrev BGRP_MFW_ACT_FRAME : Nat := 0x228
abbrev BGRP_MFW_STAT : Nat := 0x22c
/-! DIAG. -/
abbrev DIAG_BANK_SEL : Nat := 0x100
abbrev DIAG_PRB_CFG : Nat := 0x104
abbrev DIAG_PRB_WINDOW : Nat := 0x108
abbrev DIAG_TEMP_CFG : Nat := 0x10c
abbrev DIAG_REJ_REASON : Nat := 0x110
abbrev DIAG_CTRL : Nat := 0x120
abbrev DIAG_FMAP_BASE_LO : Nat := 0x124
abbrev DIAG_FMAP_BASE_HI : Nat := 0x128
abbrev DIAG_FMAP_LEN : Nat := 0x12c
abbrev DIAG_FMAP_CMD : Nat := 0x130
abbrev DIAG_FMAP_IDX : Nat := 0x134
abbrev DIAG_FMAP_CNT : Nat := 0x138
abbrev DIAG_FMAP_STAT : Nat := 0x13c
abbrev DIAG_PRB_STAT : Nat := 0x200
abbrev DIAG_TEMP_MAX : Nat := 0x240
abbrev DIAG_HOT_RINGS : Nat := 0x280
abbrev DIAG_STALE_RINGS : Nat := 0x2c0
abbrev DIAG_TYPE_MINPW : Nat := 0x400
/-! HBM. -/
abbrev HBM_CFG : Nat := 0x100
abbrev HBM_PWR_CFG : Nat := 0x104
abbrev HBM_STAT : Nat := 0x108
abbrev HBM_TEMP : Nat := 0x10c
abbrev HBM_TRAIN_STAT : Nat := 0x110
abbrev HBM_SCRUB_CFG : Nat := 0x114
abbrev HBM_SCRUB_POS : Nat := 0x118
abbrev HBM_REJ_REASON : Nat := 0x11c
abbrev HBM_INJ_ADDR_LO : Nat := 0x120
abbrev HBM_INJ_ADDR_HI : Nat := 0x124
abbrev HBM_INJ_CTRL : Nat := 0x128
/-! HBMPC. -/
abbrev HBMPC_PAGE_CFG : Nat := 0x100
abbrev HBMPC_QSTAT : Nat := 0x104
abbrev HBMPC_REF_STAT : Nat := 0x108
abbrev HBMPC_LANE_STAT : Nat := 0x10c
/-! FAB. -/
abbrev FAB_ARB_CFG : Nat := 0x100
abbrev FAB_ARB_STARVE : Nat := 0x104
abbrev FAB_TAG_RAY : Nat := 0x108
abbrev FAB_TAG_GEN : Nat := 0x10c
abbrev FAB_PCQ_FULL : Nat := 0x110
abbrev FAB_REJ_REASON : Nat := 0x114
/-! PCIE. -/
abbrev PCIE_LINK_STAT : Nat := 0x100
abbrev PCIE_CPL_TMO : Nat := 0x104
abbrev PCIE_DB_BUF : Nat := 0x110
abbrev PCIE_DB_SEQ : Nat := 0x114
abbrev PCIE_DB_STAT : Nat := 0x150
abbrev PCIE_DMA_CTRL : Nat := 0x180
abbrev PCIE_DMA_STAT : Nat := 0x184
abbrev PCIE_DMA_QB_LO : Nat := 0x188
abbrev PCIE_DMA_QB_HI : Nat := 0x18c
abbrev PCIE_DMA_QSIZE : Nat := 0x190
abbrev PCIE_DMA_QTAIL : Nat := 0x194
abbrev PCIE_DMA_QHEAD : Nat := 0x198
abbrev PCIE_DMA_LAST : Nat := 0x19c
abbrev PCIE_REC_CTRL : Nat := 0x200
abbrev PCIE_REC_STAT : Nat := 0x204
abbrev PCIE_REC_SRC_LO : Nat := 0x208
abbrev PCIE_REC_SRC_HI : Nat := 0x20c
abbrev PCIE_REC_LEN : Nat := 0x210
abbrev PCIE_REC_DATA : Nat := 0x214
/-! NVME. -/
abbrev NVME_CTRL : Nat := 0x100
abbrev NVME_RP_CFG : Nat := 0x104
abbrev NVME_CMD_TMO : Nat := 0x108
abbrev NVME_CLIP_BASE_LO : Nat := 0x10c
abbrev NVME_CLIP_BASE_HI : Nat := 0x110
abbrev NVME_CLIP_CNT : Nat := 0x114
abbrev NVME_DRV_STAT : Nat := 0x120
abbrev NVME_DRV_CAP_LO : Nat := 0x124
abbrev NVME_DRV_CAP_HI : Nat := 0x128
abbrev NVME_REQ_LBA_LO : Nat := 0x180
abbrev NVME_REQ_LBA_HI : Nat := 0x184
abbrev NVME_REQ_CNT : Nat := 0x188
abbrev NVME_REQ_HBM_LO : Nat := 0x18c
abbrev NVME_REQ_HBM_HI : Nat := 0x190
abbrev NVME_REQ_CMD : Nat := 0x194
abbrev NVME_REQ_STAT : Nat := 0x198
abbrev NVME_STR_CFG : Nat := 0x800
abbrev NVME_STR_STAGE_LO : Nat := 0x804
abbrev NVME_STR_STAGE_HI : Nat := 0x808
abbrev NVME_STR_CMD : Nat := 0x80c
abbrev NVME_STR_SEEK_LO : Nat := 0x810
abbrev NVME_STR_SEEK_HI : Nat := 0x814
abbrev NVME_STR_DEC : Nat := 0x818
abbrev NVME_STR_STAT : Nat := 0x81c
abbrev NVME_STR_PROM : Nat := 0x820
abbrev NVME_STR_POS_LO : Nat := 0x824
abbrev NVME_STR_POS_HI : Nat := 0x828
abbrev NVME_STR_HEAD : Nat := 0x82c
abbrev NVME_STR_FRAME : Nat := 0x830
/-! NET. -/
abbrev NET_PORT_CFG : Nat := 0x100
abbrev NET_PORT_STAT : Nat := 0x104
abbrev NET_MAC_LO : Nat := 0x108
abbrev NET_MAC_HI : Nat := 0x10c
abbrev NET_PTP_LAT_TX : Nat := 0x110
abbrev NET_PTP_LAT_RX : Nat := 0x114
abbrev NET_MTU : Nat := 0x118
abbrev NET_REJ_REASON : Nat := 0x11c
/-! FLOW. -/
abbrev FLOW_PORT_MODE : Nat := 0x100
abbrev FLOW_LBUF_USED : Nat := 0x104
abbrev FLOW_REJ_REASON : Nat := 0x108
abbrev FLOW_FL_CFG : Nat := 0x400
abbrev FLOW_FL_SIZE : Nat := 0x404
abbrev FLOW_FL_FMT : Nat := 0x408
abbrev FLOW_FL_BUF : Nat := 0x40c
abbrev FLOW_FL_A_IP : Nat := 0x410
abbrev FLOW_FL_A_SRC : Nat := 0x414
abbrev FLOW_FL_A_UDP : Nat := 0x418
abbrev FLOW_FL_B_IP : Nat := 0x41c
abbrev FLOW_FL_B_SRC : Nat := 0x420
abbrev FLOW_FL_B_UDP : Nat := 0x424
abbrev FLOW_FL_STAGE_LO : Nat := 0x428
abbrev FLOW_FL_STAGE_HI : Nat := 0x42c
abbrev FLOW_FL_CMD : Nat := 0x430
abbrev FLOW_FL_STAT : Nat := 0x434
abbrev FLOW_FL_SEQ : Nat := 0x438
abbrev FLOW_FL_RTP : Nat := 0x43c
/-! CAM. -/
abbrev CAM_CSI_CFG : Nat := 0x100
abbrev CAM_FR_SIZE : Nat := 0x104
abbrev CAM_FR_TMO : Nat := 0x108
abbrev CAM_CLIP : Nat := 0x10c
abbrev CAM_BLACK_GAIN : Nat := 0x110
abbrev CAM_CROP_XY : Nat := 0x120
abbrev CAM_CROP_WH : Nat := 0x124
abbrev CAM_BIN : Nat := 0x128
abbrev CAM_TRIG_CFG : Nat := 0x130
abbrev CAM_TRIG_DLY : Nat := 0x134
abbrev CAM_TRIG_WID : Nat := 0x138
abbrev CAM_TRIG_COUNT : Nat := 0x13c
abbrev CAM_TRIG_CMD : Nat := 0x140
abbrev CAM_TRIG_SEQ : Nat := 0x144
abbrev CAM_MATCH_MAX : Nat := 0x148
abbrev CAM_SET_ADDR_LO : Nat := 0x150
abbrev CAM_SET_ADDR_HI : Nat := 0x154
abbrev CAM_SET_TRIG : Nat := 0x158
abbrev CAM_SET_CMD : Nat := 0x15c
abbrev CAM_SET_STAT : Nat := 0x160
abbrev CAM_I2C_CFG : Nat := 0x164
abbrev CAM_TAP_CFG : Nat := 0x170
abbrev CAM_STATS_LO : Nat := 0x180
abbrev CAM_STATS_HI : Nat := 0x184
abbrev CAM_STATS_CFG : Nat := 0x188
abbrev CAM_SPOT_IN_LO : Nat := 0x190
abbrev CAM_SPOT_IN_HI : Nat := 0x194
abbrev CAM_SPOT_CNT : Nat := 0x198
abbrev CAM_SPOT_OUT_LO : Nat := 0x19c
abbrev CAM_SPOT_OUT_HI : Nat := 0x1a0
abbrev CAM_SPOT_CFG : Nat := 0x1a4
abbrev CAM_FR_SEQ : Nat := 0x1b0
abbrev CAM_FR_FLAGS : Nat := 0x1b4
abbrev CAM_FR_SET : Nat := 0x1b8
abbrev CAM_RX_STAT : Nat := 0x1bc
abbrev CAM_REJ_REASON : Nat := 0x1c0
/-! AUD. -/
abbrev AUD_CFG : Nat := 0x100
abbrev AUD_NOM_RATE : Nat := 0x104
abbrev AUD_TOL : Nat := 0x108
abbrev AUD_FADE : Nat := 0x10c
abbrev AUD_ALIGN_TOL : Nat := 0x110
abbrev AUD_START_POS : Nat := 0x114
abbrev AUD_CMD : Nat := 0x118
abbrev AUD_STAT : Nat := 0x11c
abbrev AUD_POS : Nat := 0x120
abbrev AUD_PERIOD : Nat := 0x124
abbrev AUD_STAMP_CFG : Nat := 0x128
abbrev AUD_STAMP_BASE_LO : Nat := 0x12c
abbrev AUD_STAMP_BASE_HI : Nat := 0x130
abbrev AUD_LAST_STAMP_POS : Nat := 0x134
abbrev AUD_LAST_STAMP_NS : Nat := 0x138
abbrev AUD_LAST_STAMP_SEC : Nat := 0x13c
abbrev AUD_LAST_STAMP_FRAC : Nat := 0x140
abbrev AUD_RX_MASK : Nat := 0x180
abbrev AUD_TX_MASK : Nat := 0x1a0
abbrev AUD_RX_BASE_LO : Nat := 0x184
abbrev AUD_TX_BASE_LO : Nat := 0x1a4
abbrev AUD_RX_BASE_HI : Nat := 0x188
abbrev AUD_TX_BASE_HI : Nat := 0x1a8
abbrev AUD_RX_SIZE : Nat := 0x18c
abbrev AUD_TX_SIZE : Nat := 0x1ac
abbrev AUD_RX_SW : Nat := 0x190
abbrev AUD_TX_SW : Nat := 0x1b0
abbrev AUD_RX_HW : Nat := 0x194
abbrev AUD_TX_HW : Nat := 0x1b4
abbrev AUD_REJ_REASON : Nat := 0x1c0
/-! BLIT. -/
abbrev BLIT_CTRL : Nat := 0x100
abbrev BLIT_OP : Nat := 0x104
abbrev BLIT_DST_LO : Nat := 0x108
abbrev BLIT_DST_HI : Nat := 0x10c
abbrev BLIT_DST_PITCH : Nat := 0x110
abbrev BLIT_DST_XY : Nat := 0x114
abbrev BLIT_SIZE : Nat := 0x118
abbrev BLIT_SRC_LO : Nat := 0x11c
abbrev BLIT_SRC_HI : Nat := 0x120
abbrev BLIT_SRC_PITCH : Nat := 0x124
abbrev BLIT_SRC_XY : Nat := 0x128
abbrev BLIT_FG_LO : Nat := 0x12c
abbrev BLIT_FG_HI : Nat := 0x130
abbrev BLIT_BG_LO : Nat := 0x134
abbrev BLIT_BG_HI : Nat := 0x138
abbrev BLIT_DST_BUF : Nat := 0x13c
abbrev BLIT_SEQ : Nat := 0x140
abbrev BLIT_CMD : Nat := 0x144
abbrev BLIT_STAT : Nat := 0x148
abbrev BLIT_ROWS : Nat := 0x14c
/-! THRM. -/
abbrev THRM_TEMP : Nat := 0x100
abbrev THRM_TEMP_MAX : Nat := 0x180
abbrev THRM_GOV_CFG : Nat := 0x184
abbrev THRM_RISE_CFG : Nat := 0x188
abbrev THRM_ALERT_CFG : Nat := 0x18c
abbrev THRM_LIMITS : Nat := 0x190
abbrev THRM_STEP_LO : Nat := 0x194
abbrev THRM_STEP_HI : Nat := 0x198
abbrev THRM_REJ_REASON : Nat := 0x19c
/-! CAL. -/
abbrev CAL_CAL_CFG : Nat := 0x100
abbrev CAL_CMD : Nat := 0x104
abbrev CAL_STAT : Nat := 0x108
abbrev CAL_LAST_SEC : Nat := 0x10c
abbrev CAL_LINE : Nat := 0x110

end Sys2Proof.Off
end

