-- ==== Sys2Proof/Machine/State.lean ====
section
/-!
DEFINITION. The state of the Afnil as plain data: everything spec/ gives the part, and the queue of the commands that
wait. Each field's docstring names what it holds, the rule of spec/ that gives it, and its value at reset.
-/
namespace Sys2Proof.Machine

/-! ## Stops -/

/-- Why the machine stops with a fault. No rule of spec/ gives the block a condition on which it stops: an access outside
a memory is answered (R4, R5), and work that meets a missing island ends ABSENT (R84). -/
inductive Fault where
deriving DecidableEq, Repr

/-- Why a command is refused. -/
inductive Refusal where
  /-- Raised by an arm of `exec` whose command has no meaning yet. Safe: nothing is claimed of it. -/
  | notModelled (mnemonic : String)
deriving DecidableEq, Repr

/-! ## Islands, Weirs and the host's register path (spec/02_register_pages.md, spec/03_islands_and_weirs.md) -/

/-- PSTATE.state (R42). -/
inductive IslState where
  | off | reset | idle | run | update | dead
deriving DecidableEq, Repr

/-- One clock island. -/
structure Island where
  /-- PSTATE.state (R42, R43). Reset: RUN for AON, RESET for every other island (R43). -/
  st : IslState
  /-- The state a requested transition leads to while PSTATE.moving = 1 (R42, R70, R78). Reset: none. -/
  target : Option IslState
  /-- PCTRL.resume, held in AON (R42). Reset: 0. -/
  resume : Bool
  /-- The state from which UPDATE was entered, judged with resume when the self-check passes (R43). Reset: IDLE. -/
  updFrom : IslState
  /-- ISTAT.clk_holdover, AUD islands (R71, R88). Reset: 0. -/
  holdover : Bool
  /-- IMG_VER (R42). Reset: 0. -/
  imgVer : Word
  /-- The image an accepted UPDATE loads: its version, and whether it was read whole with the digest its header gives (R553).
  Reset: none. -/
  load : Option (Word × Bool)
deriving DecidableEq, Repr

/-- An island as PORST_N leaves it (R43, R88); `k` is its number. -/
def Island.initial (k : Nat) : Island :=
  ⟨if k = 0 then .run else .reset, none, false, .idle, false, 0, none⟩

/-- A pending commit of a page or bank (R54, R55, R58). -/
structure Pending where
  /-- The snapshot: the RWS shadows of the page or bank that differ from their Reset values, by register key. -/
  snap : AMap Word
  /-- CMT_CTRL.mode at the arm. -/
  mode : Nat
  /-- CMT_TIME_LO.ns at the arm. -/
  ns : Nat
  /-- CMT_TIME_HI.sec at the arm. -/
  sec : Nat
  /-- The target frame F fixed at acceptance. -/
  frame : Word
  /-- arm_seq of this arm. -/
  seq : BitVec 16
  /-- The arm has left the Weir into PGRP g and is known at the gate; for a local page, it has been seen. -/
  seen : Bool
  /-- GLB.CMT_HOLD keeps the arm from the gate (R61). -/
  held : Bool
  /-- The close has taken the commit; it comes into force at the bank's application (R135). -/
  taken : Bool
  /-- LAYR: the Layer Table descriptors loaded for the arm, by layer ID, 16 words each (R170). -/
  descs : AMap (List Word)
  /-- LAYR: the phases whose stacks were loaded (R172). -/
  phases : Nat
  /-- GEOM: the context update records loaded for the arm, (context index, 16 words) in list order (R199). -/
  ctxs : List (Nat × List Word)
deriving DecidableEq, Repr

/-- An arm of LAYR or GEOM that waits for its descriptors or list to be loaded (R170, R199): its place among the page's arms in the order
written, the banks it selects, and the snapshot of one of them. -/
structure ArmLoad where
  order : Nat
  banks : List Nat
  arm : Pending
deriving DecidableEq, Repr

/-- The commit state of a page or of one bank of a banked page (R53). Reset: nothing pending, every field 0. -/
structure CommitSlot where
  pending : Option Pending
  /-- CMT_STAT.missed. -/
  missed : Bool
  /-- CMT_STAT.rejected. -/
  rejected : Bool
  /-- CMT_SEQ.arm_seq. -/
  armSeq : BitVec 16
  /-- CMT_SEQ.applied_seq. -/
  appliedSeq : BitVec 16
  /-- CMT_FRAME while nothing is pending: the frame at which the last commit applied. -/
  frame : Word
  /-- The arms of LAYR or GEOM that wait to be loaded in this bank, oldest first (R170, R199). -/
  loading : List ArmLoad
deriving DecidableEq, Repr

def CommitSlot.initial : CommitSlot := ⟨none, false, false, 0, 0, 0, []⟩

/-- A Weir (R74 to R83). Reset: closed with its islands, nothing held. -/
structure Weir where
  /-- Requests in the source-side queue, not yet crossed, oldest first: the tag, the purpose (`weirClass`), the request. -/
  queue : List (Nat × Bool × WeirReq)
  /-- The shadow tag list: tags of requests that have crossed and are not yet answered, in the order in which they crossed. -/
  shadow : List Nat
  /-- Tags of requests that had crossed when the source closed and that the live target still carries out: each returns to its pool as
  its reply is discarded (R81). -/
  orphans : List Nat
  /-- Replies that the target holds until the reply queue has an entry for them (R75). -/
  due : List (Nat × ReplyStatus × List Byte)
  /-- The reply queue at the target side, oldest first (R74, R75). -/
  replies : List (Nat × ReplyStatus × List Byte)
  /-- The reply last delivered at the source: tag, status, data. -/
  lastReply : Option (Nat × ReplyStatus × List Byte)
  /-- ABSENT answers given since the Weir opened. -/
  absents : Nat
deriving DecidableEq, Repr

def Weir.initial : Weir := ⟨[], [], [], [], [], none, 0⟩

/-- The MSI-X capability and table (R50). -/
structure Msix where
  /-- MSI-X Enable. Reset: 0 (PRESUMED, PCI Express). -/
  enable : Bool
  /-- Function Mask. Reset: 0 (PRESUMED, PCI Express). -/
  funcMask : Bool
  /-- Vectors whose mask bit the host has cleared. Reset: none, every vector is masked (R50). -/
  unmasked : List Nat
  /-- The table's address (low, high) and data words by vector. Reset: 0 (R50). -/
  addrLo : AMap Word
  addrHi : AMap Word
  data : AMap Word
  /-- The pending bit array. Reset: 0. -/
  pend : List Nat
  /-- Vector inputs as last driven, to find their rising edges (R50). Reset: 0. -/
  inputs : List Nat
  /-- Messages sent: vectors, newest first. Reset: none. -/
  sent : List Nat
deriving DecidableEq, Repr

def Msix.initial : Msix := ⟨false, false, [], [], [], [], [], [], []⟩


/-! ## Time base, PTP, trackers and schedule slots (spec/04_time_and_sync.md) -/

/-- What the device holds of PTP on one port (R102, R103). -/
structure PtpLeg where
  /-- A master that the best master clock algorithm selects is heard on the leg (R103). Reset: no. -/
  master : Bool
  /-- The sourcePortIdentity of the master last selected on the leg, and the address its messages come from (R102). Reset: 0, none. -/
  masterId : Nat
  masterAddr : List Byte
  /-- The stamps of IEEE 1588 in 2^-16 ns: t1 and t2 of the last Sync, t3 of the last Delay_Req. Reset: none. -/
  t1 : Option Int
  t2 : Option Int
  t3 : Option Int
  /-- sequenceId of the two-step Sync that waits for its Follow_Up, and of the last Delay_Req sent. Reset: none, 0. -/
  syncSeq : Option Nat
  dreqSeq : Nat
  /-- logMessageInterval of the last Sync. Reset: 0. -/
  syncLog : Int
  /-- The mean path delay, 2^-16 ns (PTP_MPD of the port in use). Reset: 0. -/
  mpd : Int
deriving DecidableEq, Repr

def PtpLeg.initial : PtpLeg := ⟨false, 0, [], none, none, none, none, 0, 0, 0⟩

/-- A PTP message that the device has sent (R102). -/
structure PtpSent where
  port : Nat
  /-- messageType and sequenceId. -/
  type : Nat
  seq : Nat
  /-- The transmit stamp of an event message, 2^-16 ns. -/
  stamp : Option Int
  /-- The time in its body, 2^-16 ns: a Follow_Up's precise origin, a Delay_Resp's receive stamp. -/
  time : Option Int
  /-- correctionField, 2^-16 ns. -/
  corr : Int
  /-- logMessageInterval. -/
  log : Int
  /-- The address of a unicast message; none for multicast. -/
  dest : Option (List Byte)
  /-- requestingPortIdentity of a Delay_Resp; 0 in any other message. -/
  requester : Nat
  /-- clockClass and clockAccuracy of an Announce; 0 in any other message. -/
  quality : Nat × Nat
deriving DecidableEq, Repr

/-- PTP (R102, R103). -/
structure PtpState where
  /-- PTP_STAT.port_state, IEEE 1588 numbering (R120). Reset: 0. -/
  portState : Nat
  /-- PTP_STAT.active_port. Reset: 0. -/
  activePort : Nat
  /-- PTP_STAT.on_standby. Reset: 0. -/
  onStandby : Bool
  /-- Grandmaster clockIdentity (GM_ID_LO, GM_ID_HI). Reset: 0. -/
  gmId : BitVec 64
  /-- UTC_OFF: currentUtcOffset of the last Announce. Reset: 0. -/
  utcOff : BitVec 16
  /-- The primary port's leg and the standby port's. -/
  leg : PtpLeg
  stby : PtpLeg
  /-- The next sequenceId by message kind (Sync 0, Announce 1, Delay_Req 2). Reset: 0. -/
  seq : AMap Nat
  /-- Messages sent, newest first. Reset: none. -/
  sent : List PtpSent
deriving DecidableEq, Repr

/-- The time base, its servo and PTP. -/
structure TimeUnit where
  /-- The time base in units of 2^-32 ns: seconds, nanoseconds, the fraction and the 16-bit extension below it (R91, R92).
  Reset: 0 (R93). -/
  now : Nat
  /-- A slew is running (R99). Reset: no. -/
  slewing : Bool
  /-- What the slew has still to cover, 2^-32 ns. Reset: 0. -/
  slewLeft : Int
  /-- SRV_STAT.state: 0 FREE, 1 ACQUIRE, 2 LOCKED, 3 HOLDOVER (R107). Reset: 0. -/
  srv : Nat
  /-- integ, f and f_prev of R106, raw s24.16 ppb. Reset: 0. -/
  integ : Int
  f : Int
  fPrev : Int
  /-- The last sample's o, raw s32.16 ns (SRV_OFFSET). Reset: 0. -/
  offset : Int
  /-- Consecutive samples at or below lock_thr, and above unlock_thr (R107). Reset: 0. -/
  lowRun : Nat
  highRun : Nat
  /-- The last 64 values of f since the source commit, newest first (R107). Reset: none. -/
  fHist : List Int
  /-- The servo has been in LOCKED since the source was committed (R106). Reset: no. -/
  everLocked : Bool
  /-- There is no previous sample used: t is the source's nominal interval (R106). Reset: yes. -/
  first : Bool
  /-- The time of the previous sample used, 2^-16 ns. Reset: 0. -/
  lastUsed : Nat
  /-- A phase sample on its way to the servo: o raw s32.16 ns, and its Sync's logMessageInterval (R106). Reset: none. -/
  sample : Option (Int × Int)
  ptp : PtpState
deriving DecidableEq, Repr

def TimeUnit.initial : TimeUnit :=
  { now := 0, slewing := false, slewLeft := 0, srv := 0, integ := 0, f := 0, fPrev := 0, offset := 0, lowRun := 0
    highRun := 0, fHist := [], everLocked := false, first := true, lastUsed := 0, sample := none
    ptp := { portState := 0, activePort := 0, onStandby := false, gmId := 0, utcOff := 0, leg := PtpLeg.initial
             stby := PtpLeg.initial, seq := [], sent := [] } }

/-- A reference input tracker (R110). Stamps and periods in units of 2^-16 ns. -/
structure Tracker where
  /-- STAT.state: 0 OFF, 1 QUALIFY, 2 LOCKED, 3 HOLDOVER. Reset: 0. -/
  st : Nat
  /-- The stamp of the last passed edge (EDGE_NS, EDGE_SEC, EDGE_FRAC). Reset: none. -/
  edge : Option Nat
  /-- That edge, and the last in-window edge, on the time base as it runs now: a step shifts them with the time base (R100, R143).
  Reset: none. -/
  last : Option Nat
  good : Option Nat
  /-- The period that ended at that edge. Reset: none. -/
  prevPeriod : Option Nat
  /-- Consecutive stable edges at the period that would qualify (R110). Reset: 0. -/
  stable : Nat
  /-- Consecutive stable edges whose period differs from the locked period by more than TOL (R111). Reset: 0. -/
  change : Nat
  /-- The last 8 periods of in-window edges, newest first. Reset: none. -/
  last8 : List Nat
  /-- The locked period (PERIOD_NS, PERIOD_FRAC). Reset: 0. -/
  period : Nat
  /-- The predicted next edge. Reset: 0. -/
  predicted : Nat
  /-- Predicted edges that have passed without an in-window edge since the last in-window edge (R110). Reset: 0. -/
  miss : Nat
  /-- REF_IN: input cycles since the last tracker edge (R113). Reset: 0. -/
  cycles : Nat
  /-- The last output edge. Reset: none. -/
  out : Option Nat
  /-- PHASE_ERR: output edge minus input edge, 2^-16 ns. Reset: 0. -/
  phaseErr : Int
  /-- A followed rate change has not yet reached an output edge (R111, R144). Reset: no. -/
  newRate : Bool
deriving DecidableEq, Repr

def Tracker.initial : Tracker := ⟨0, none, none, none, none, 0, 0, [], 0, 0, 0, 0, none, 0, false⟩

/-- A schedule slot (R114, R115). -/
structure Slot where
  /-- SLOT_CTRL.armed. Reset: 0. -/
  armed : Bool
  /-- SLOT_CTRL.late. Reset: 0. -/
  late : Bool
  /-- The arm's time had already passed when it was seen. Reset: no. -/
  past : Bool
  /-- The snapshot of the arm: time, period, action, target, width. Reset: 0. -/
  sec : Nat
  ns : Nat
  period : Nat
  action : Nat
  target : Nat
  width : Nat
deriving DecidableEq, Repr

def Slot.initial : Slot := ⟨false, false, false, 0, 0, 0, 0, 0, 0⟩

/-- The level a slot drove on a GPIO, and the end of a pulse in 2^-16 ns (R116). -/
structure Gpio where
  level : Bool
  pulseEnd : Option Nat
deriving DecidableEq, Repr

def Gpio.initial : Gpio := ⟨false, none⟩


/-! ## Output timing (spec/05_output_timing.md) -/

/-- gen_state (R139). -/
inductive GenState where
  | stopped | slack | run | ensign
deriving DecidableEq, Repr

/-- A pending generator request (R140): the state asked for, and its time where at_time was set. -/
structure GenReq where
  want : GenState
  atTime : Option (Nat × Nat)
deriving DecidableEq, Repr

/-- How a frame's Pennant is sent (R140, R145, R372). -/
inductive PenKind where
  | latch | rep | dark
deriving DecidableEq, Repr

/-- A frame between its commit close and the end of its display (R130, R140). Times are ns on the time base. -/
structure FramePlan where
  /-- F. -/
  frame : Word
  /-- The state that governs F. -/
  gov : GenState
  /-- L_F. -/
  latch : Rat
  /-- D_F as planned. -/
  len : Rat
  /-- MODE.phases + 1 in force for F, 1 in ENSIGN. -/
  phases : Nat
  /-- PHASE_OFS 1 to 3 in force for F, ns. -/
  ofs : List Nat
  /-- STILL in force for F, ns. -/
  still : Nat
  /-- F is a transition frame (R142). -/
  transition : Bool
  /-- F is composed and streamed (R135): RUN, or ENSIGN with changed content. -/
  composed : Bool
  /-- Streaming of F has started (R135). -/
  started : Bool
  /-- L_F lies on the FSYNC_IN tracker's output edges (R128, R129). -/
  grid : Bool
  /-- A followed rate change brought L_F forward into the frame displayed before it (R144). -/
  cut : Bool
  /-- SHUT_CLAIM in force for F, and SHUT_CFG, SHUT_DLY and SHUT_WID of SHUT0 to SHUT3 (R133, R142). -/
  claim : Word
  shut : List (Word × Word × Word)
  /-- ENSIGN: rings that are sent DARK (R145, R235). -/
  dark : List Nat
deriving DecidableEq, Repr

/-- A timing generator. -/
structure Tgen where
  /-- STAT.gen_state. Reset: STOPPED (R139). -/
  gen : GenState
  /-- The pending request (STAT.req_pending). Reset: none. -/
  req : Option GenReq
  /-- STAT.req_late. Reset: 0. -/
  reqLate : Bool
  /-- The frame counter: the frame of the last latch (LATCH_FRAME). Reset: 0 (R125). -/
  cur : Word
  /-- The time of the last latch. Reset: 0. -/
  latch : Rat
  /-- The last frame whose close has passed. Reset: 0. -/
  closed : Word
  /-- The latch instant scheduled for the frame after `closed`. Reset: 0. -/
  sched : Rat
  /-- The frames between close and end of display, oldest first. Reset: none. -/
  plans : List FramePlan
  /-- P in force, ns (PERIOD_NOW). Reset: 0 (R147). -/
  period : Rat
  /-- STAT.transition. Reset: 0. -/
  transition : Bool
  /-- STAT.realigning (R142). Reset: 0. -/
  realigning : Bool
  /-- A rate change was refused and the last period is kept (R144). Reset: no. -/
  refused : Bool
  /-- A commit has changed rate, period, source or LATCH_OFS since the last close (R142). Reset: no. -/
  dirty : Bool
  /-- A step of the time base has shifted the schedule since the last close (R143). Reset: no. -/
  stepped : Bool
  /-- The last latch, and the latch scheduled for the frame after `closed`, lie on the FSYNC_IN tracker's edges (R126, R129). Reset: no. -/
  onTrk : Bool
  schedOn : Bool
  /-- STAT.phase. Reset: 0. -/
  phase : Nat
  /-- STAT.still. Reset: 0. -/
  still : Bool
deriving DecidableEq, Repr

def Tgen.initial : Tgen :=
  { gen := .stopped, req := none, reqLate := false, cur := 0, latch := 0, closed := 0, sched := 0, plans := []
    period := 0, transition := false, realigning := false, refused := false, dirty := false, stepped := false, onTrk := false, schedOn := false, phase := 0, still := false }


/-! ## Layers and buffers (spec/06_layers_and_surfaces.md) -/

/-- Who keeps a buffer's content fixed (R162). -/
inductive Hold where
  /-- Group g has it as selected content or working surface of a layer in force. -/
  | sel (g : Nat)
  /-- A frame of group g used it and has not finished. -/
  | frame (g : Nat) (f : Word)
  /-- A pre-scaler job reads it. -/
  | scal
deriving DecidableEq, Repr

/-- A buffer's ownership, held on die (R161). Reset: FREE, owner 0, seq 0. -/
structure Buf where
  /-- 0 FREE, 1 PRODUCING, 2 READY, 3 HELD. -/
  st : Nat
  freePending : Bool
  ownerClass : Nat
  ownerInst : Nat
  /-- BUF_SEQ: the content's sequence number. -/
  seq : Word
  holds : List Hold
deriving DecidableEq, Repr

def Buf.initial : Buf := ⟨0, false, 0, 0, 0, []⟩

/-- One curve of an input LUT slot (R157, R159): the preset it was last filled with, whether it has been written since,
and the written entries. Reset: preset 0, not written. -/
structure LutCurve where
  preset : Nat
  written : Bool
  edits : AMap Nat
deriving DecidableEq, Repr

def LutCurve.initial : LutCurve := ⟨0, false, []⟩

/-- What a bank holds for one layer (R173, R174). -/
structure LayerSel where
  /-- The selected content. -/
  content : Option Nat
  /-- Its seq when selected. -/
  seq : Word
  /-- The selected working surface, with ps_en (R173 step 3). -/
  work : Option Nat
  /-- The orientation that the working surface was made with (R244). -/
  orient : Nat
  /-- Consecutive frames the content has been selected. -/
  age : Nat
  /-- The layer is shown in the frame last closed: not transparent for it (R174). -/
  shown : Bool
deriving DecidableEq, Repr

def LayerSel.initial : LayerSel := ⟨none, 0, none, 0, 0, false⟩

/-- A bank of LAYR on die: the descriptors in force by layer ID, 16 words each (R170), the selections, the phases whose
stacks were loaded at the arm, NR by phase, and whether the bank is held (R175). Reset: empty. -/
structure LayrBank where
  descs : AMap (List Word)
  sels : AMap LayerSel
  loaded : Nat
  nr : AMap Word
  holding : Bool
  /-- FAB has lost its ownership state since the bank was committed: none of its layers is ready (R166). -/
  stale : Bool
deriving DecidableEq, Repr

def LayrBank.initial : LayrBank := ⟨[], [], 0, [], false, false⟩

/-- The layer unit. -/
structure LayrUnit where
  /-- Ownership of the 16,384 buffers (R161). -/
  bufs : AMap Buf
  /-- Input LUT curves by slot * 3 + curve (R157). -/
  luts : AMap LutCurve
  /-- The fill in progress: slot, curve code, preset (R160). Reset: none. -/
  fill : Option (Nat × Nat × Nat)
  banks : AMap LayrBank
deriving DecidableEq, Repr

def LayrUnit.initial : LayrUnit := ⟨[], [], none, []⟩

/-! ## Pre-scaler (spec/09_prescaler.md) -/

/-- A running pre-scaler job and the snapshots of its start (R256). -/
structure ScalJob where
  /-- The pair: its ps_buf. -/
  pair : Nat
  layer : Nat
  work : Nat
  src : Nat
  seq : Word
  srcEntry : List Word
  workEntry : List Word
  /-- The profile in force. -/
  prof : Word
  /-- The coefficient banks. -/
  coef : AMap Nat
  /-- Vertical taps in force (R252). -/
  tv : Nat
  /-- Index of the free values that the pixels of invalid source blocks take. -/
  free : Nat
  /-- Working rows written (R257, R262). -/
  rows : Nat
  /-- Tiles of the summary with a pixel that is not opaque, of the rows written (R257). -/
  dull : List (Nat × Nat)
deriving DecidableEq, Repr

/-- The pre-scaler. -/
structure ScalUnit where
  /-- PMAP: the profile of each layer ID (R246). Reset: 0. -/
  pmap : AMap Nat
  /-- The coefficient banks, raw s1.14 by bank*512 + 8*phase + tap (R249). Reset: the kernel of R249. -/
  coef : AMap Nat
  /-- Queued pairs, oldest first (R254). Reset: none. -/
  queue : List Nat
  running : Option ScalJob
  /-- Source buffer and seq of the working surface in each working buffer (R257), and the orientation it was made in
  (R244). Reset: none. -/
  recs : AMap (Option (Nat × Word × Nat))
deriving DecidableEq, Repr

def ScalUnit.initial : ScalUnit := ⟨[], [], [], none, []⟩


/-! ## Wall geometry (spec/07_ray_generation.md) -/

abbrev Vec3 := Int × Int × Int

/-- A ray's geometry as it reaches the compositor (R195). -/
structure RayGeo where
  org : Vec3
  dir : Vec3
  cx : Int
  cy : Int
  degenerate : Bool
deriving DecidableEq, Repr

/-- The geometry memories of FAB (R191). Reset: everything reads 0. -/
structure GeomUnit where
  /-- The mesh's words by entry * 4 + word (R190). -/
  mesh : AMap Word
  /-- The module contexts in force, by context * 16 + word (R187). -/
  ctx : AMap Word
  /-- TYPE_CFG by type (R206). -/
  types : AMap Word
  /-- The view tables' vx, vy words and vz words by type * 256 + view (R185). -/
  viewXY : AMap Word
  viewZ : AMap Word
deriving DecidableEq, Repr

def GeomUnit.initial : GeomUnit := ⟨[], [], [], [], []⟩


/-! ## Lamp correction (spec/11_lamp_correction.md) -/

/-- One piece of a fade (R311): from t0 (ns on the time base), level a0 at t0, target and duration in µs. -/
structure FadeSeg where
  t0 : Rat
  a0 : Nat
  target : Nat
  dur : Nat
deriving DecidableEq, Repr

/-- A lamp total of a wear block in the sampled frame: sums of I[a] * p per colour, and the drive codes counted (R307). -/
structure WearSum where
  r : Nat
  g : Nat
  b : Nat
  n : Nat
deriving DecidableEq, Repr

/-- What a second's update adds to a block (R307): from the sampled frame's sums by wear block, the stored rate, or 0. -/
inductive WearGain where
  | sums (m : AMap WearSum)
  | rate
  | zero
deriving DecidableEq, Repr

/-- What is known of a group's sampled frame of a second (R307). -/
structure WearRec where
  sec : Nat
  gain : WearGain
deriving DecidableEq, Repr

/-- A region request's snapshot (R319). -/
structure RgnReq where
  kind : Nat
  atTime : Bool
  src : Nat
  len : Nat
  tr : Nat
  tg : Nat
  tb : Nat
  maxStep : Nat
  ns : Nat
  sec : Nat
deriving DecidableEq, Repr

/-- A region slot (R321). Reset: IDLE, nothing queued. -/
structure Rgn where
  /-- RGN_STAT.state: 0 IDLE, 1 FILL, 2 ARMED, 3 OVERLAY, 4 COPY, 5 RELEASE, 6 DRAIN. -/
  st : Nat
  req : Option RgnReq
  queued : Option RgnReq
  missed : Bool
  window : Nat
  /-- RGN_FRAME: the frame T of the last apply. -/
  frameT : Word
  /-- The frame U at whose close the window was dropped. -/
  frameU : Word
  /-- The decode of a kind 1 request (R319): 0 not yet on its channel, 1 there, 2 done. -/
  dec : Nat
  /-- Requests begun. -/
  run : Nat
  /-- The frame that OVERLAY or DRAIN waits for has finished, since RAY g or PGRP g has left IDLE or RUN (R162). -/
  past : Bool
deriving DecidableEq, Repr

def Rgn.initial : Rgn :=
  { st := 0, req := none, queued := none, missed := false, window := 0, frameT := 0, frameU := 0, dec := 0, run := 0, past := false }

/-- A checkpoint being written (R310): its place, its header, its drive, its commands not yet sent (first block, blocks, bytes, offset in
the image), how many are out, and whether one has failed. -/
structure Ckpt where
  img : Bool
  hdr : List Word
  drive : Nat
  todo : List (Nat × Nat × Nat × Nat)
  out : Nat
  bad : Bool
deriving DecidableEq, Repr

/-- The trim and wear units. -/
structure TrimUnit where
  /-- Correction-set words by (type * 2 + set) * 128 + word (R300). Reset: R301. -/
  tsets : AMap Word
  /-- WEAR_HALF: the gain half in force by group (R307). Reset: 0. -/
  half : AMap Bool
  /-- Groups whose half flips at their next close. Reset: none. -/
  flip : List Nat
  /-- Groups whose update's writes are not yet visible. Reset: none. -/
  wearBusy : List Nat
  /-- By group: the seconds whose update has come and waits for its sampled frame or for the update before it, oldest first; and the last
  second that came. Reset: none. -/
  wearNext : AMap (List Nat)
  wearLast : AMap (Option Nat)
  /-- WEAR_STAT.deferred, and the second last counted there. Reset: 0. -/
  deferred : Nat
  deferSec : Option Nat
  /-- WEAR_SEC. Reset: 0. -/
  wearSec : Word
  /-- Sampled frames by group, oldest first, as far back as a second waits. Reset: none. -/
  recs : AMap (List WearRec)
  ckpt : Option Ckpt
  /-- WEAR_STAT.ckpt_img, and the sequence of the last image. Reset: 0. -/
  ckptImg : Bool
  ckptSeq : Word
  /-- Region slots (R318). -/
  rgns : AMap Rgn
  /-- Slots in FILL, in the order in which their requests started (R320). Reset: none. -/
  fills : List Nat
deriving DecidableEq, Repr

def TrimUnit.initial : TrimUnit :=
  { tsets := [], half := [], flip := [], wearBusy := [], wearNext := [], wearLast := [], deferred := 0, deferSec := none, wearSec := 0
    recs := [], ckpt := none, ckptImg := false, ckptSeq := 0, rgns := [], fills := [] }

/-- The fade unit (R311 to R313). -/
structure FadeUnit where
  /-- Group fades by group, newest piece first. Reset: constant 0. -/
  group : AMap (List FadeSeg)
  master : List FadeSeg
  /-- GF_DONE has been raised for the newest piece of the group; MF_DONE for the master. Reset: raised. -/
  groupRun : List Nat
  masterRun : Bool
  /-- ATT g: the group fade of the last frame and its att_F. Reset: 0. -/
  att : AMap (Nat × Nat)
deriving DecidableEq, Repr

def FadeUnit.initial : FadeUnit := ⟨[], [], [], false, []⟩


/-! ## Ray engines (spec/07_ray_generation.md, spec/08_ray_compositing.md) -/

/-- A tile of a surface as a fetch brings it. -/
inductive Tile where
  | absent
  | poison
  /-- The 64 pixels of an 8 x 8 tile; none where its Bamler block is invalid (R273). -/
  | pixels (ps : List (Option (List Nat)))
deriving DecidableEq, Repr

/-- A layer as a frame composes it: its descriptor, whether it is shown, the buffer sampled with its entry, and the
size W' x H' of the oriented source content where a working surface is sampled (R209, R213, R244). -/
structure LayerView where
  desc : List Word
  shown : Bool
  buf : Nat
  entry : List Word
  ratio : Option (Nat × Nat)
deriving DecidableEq, Repr

/-- An engaged signature action: ring within the group, module range, action (R231). -/
structure SigTrip where
  ring : Nat
  first : Nat
  last : Nat
  action : Nat
deriving DecidableEq, Repr

/-- The snapshots of a frame-start command (R135, R208, R226, R231, R304, R307, R313, R314). -/
structure EngFrame where
  frame : Word
  latch : Rat
  /-- The second whose sampled frame it is (R307). -/
  sampled : Option Nat
  phases : Nat
  dcap : Nat
  /-- The RENG page's registers in force. -/
  regs : AMap Word
  /-- Stacks of layer IDs by phase, and the layers by ID. -/
  stackIds : List (List Nat)
  layers : AMap LayerView
  /-- The group's contexts, with the bands of R304. -/
  ctx : AMap Word
  /-- TYPE_CFG by type, and the correction sets (R188, R314). -/
  types : AMap Word
  tsets : AMap Word
  trips : List SigTrip
  /-- TRIM CTRL, TSET_LO and TSET_HI of bank g in force. -/
  trimCtl : Word
  tsetLo : Word
  tsetHi : Word
  att : Nat
  half : Bool
  /-- Windows in force: first trim index, words, staging address (R321). -/
  windows : List (Nat × Nat × Nat)
deriving DecidableEq, Repr

/-- A module's context, views and patch as loaded for the present phase (R192, R193), and where its culling stops (R224). -/
structure ModLoad where
  ctx : List Word
  tc : Word
  views : List Vec3
  verts : List Word
  void : Bool
  cull : Nat
deriving DecidableEq, Repr

/-- A generated ray: its lamp, its geometry, and whether it is the last of its chunk. -/
structure RayRec where
  ring : Nat
  m : Nat
  l : Nat
  phase : Nat
  geo : RayGeo
  void : Bool
  cull : Nat
  last : Bool
deriving DecidableEq, Repr

/-- A composed ray that waits for its trim word: its frame, output-LUT codes, trim index, wear block, type, band, whether its code is
forced to 0 (R231 action 2), and whether a trim read of it is out, which holds a tag (R298, R299). -/
structure CodeRec where
  frame : Word
  ring : Nat
  m : Nat
  l : Nat
  phase : Nat
  y : List Nat
  trim : Nat
  block : Nat
  ty : Nat
  band : Nat
  zero : Bool
  last : Bool
  reading : Bool
deriving DecidableEq, Repr

/-- A chunk of drive codes of one ring: the frame, the phase, and (module, lamp, code) in order (R192). -/
structure Chunk where
  frame : Word
  phase : Nat
  ring : Nat
  codes : List (Nat × Nat × Nat)
deriving DecidableEq, Repr

/-- A ray engine. Reset: idle, both LUT copies filled, every coefficient set Catmull-Rom, therm 32. -/
structure Engine where
  cur : Option EngFrame
  /-- Frames whose rays have all passed to the trim unit while codes of them wait there, oldest first (R241). -/
  tails : List EngFrame
  /-- The waiting frame-start command (R135). -/
  waiting : Option EngFrame
  phase : Nat
  /-- Next position of each ring in the phase: module * 65536 + lamp. -/
  at_ : AMap Nat
  nextRing : Nat
  /-- Rings passed over for the rest of the frame (R227). -/
  passed : List Nat
  /-- Loaded modules by ring * 192 + module. -/
  loads : AMap (Option ModLoad)
  /-- The texel cache: decoded tiles, and the fetches that failed, by buffer * 2^26 + row * 2^13 + column of the tile (R214, R219). -/
  cache : AMap Tile
  rays : List RayRec
  codes : List CodeRec
  /-- The drive codes of the chunk being filled, newest first. -/
  chunk : List (Nat × Nat × Nat)
  /-- Chunks in the stream Weir toward PGRP g, oldest first. -/
  stream : List Chunk
  /-- Events of single lamps already raised, by frame and phase * 16 + event (R329). -/
  seen : List (Word × Nat)
  /-- Running CRCs by region, and regions of the frame that are taken or can no longer complete (R230 to R232). -/
  sig : AMap Nat
  sigDone : List Nat
  trips : AMap (Option SigTrip)
  /-- Tap copies not yet written, with their frame, oldest first; the frame drops further copies; tapped frames whose WB_DONE is to
  come, oldest first (R234). -/
  wbq : List (Word × Nat × List Byte)
  wbDrop : Bool
  wbDue : List Word
  /-- Fault bits of the frame in progress, by phase (R219). -/
  faults : AMap Word
  /-- STAT.abandoned; DONE_FRAME; DCAP_NOW.cap of the frame; DCAP_NOW.therm. -/
  abandoned : Bool
  doneFrame : Word
  dcap : Nat
  therm : Nat
  /-- Output LUT curves by copy * 3 + curve, and the fill in progress (copy, curve code). -/
  olut : AMap (AMap Nat)
  ofill : Option (Nat × Nat)
  /-- Coefficients by set * 256 + 4 * phase + tap, raw s1.14. -/
  kern : AMap Nat
  /-- Wear sums of the frame in progress by block (R307). -/
  wear : AMap WearSum
deriving DecidableEq, Repr

def Engine.initial : Engine :=
  { cur := none, tails := [], waiting := none, phase := 0, at_ := [], nextRing := 0, passed := [], loads := [], cache := [], rays := []
    codes := [], chunk := [], stream := [], seen := [], sig := [], sigDone := [], trips := [], wbq := [], wbDrop := false
    wbDue := [], faults := [], abandoned := false, doneFrame := 0, dcap := 4, therm := 32, olut := [], ofill := none
    kern := [], wear := [] }


/-! ## Bamler codec (spec/10_bamler_codec.md) -/

/-- A stream's state, as a state slot holds it (R278, R280). Reset: empty. -/
structure StreamSt where
  fmt : Nat
  inFrame : Bool
  w : Nat
  h : Nat
  seq : Word
  next : Nat
  partial_ : List Byte
  consumed : Nat
  /-- The history, slot 0 first. -/
  hist : List (List (List Nat))
deriving DecidableEq, Repr

def StreamSt.empty : StreamSt := ⟨0, false, 0, 0, 0, 0, [], 0, []⟩

/-- A state slot (R289): its owner, 0 free, 1 host, 2 scene store, 3 network, and what it holds. -/
structure StSlot where
  owner : Nat
  st : StreamSt
deriving DecidableEq, Repr

def StSlot.initial : StSlot := ⟨0, StreamSt.empty⟩

/-- What a job comes to: status, bytes in, blocks done counted from block 0, the writes before its first block, the writes of each block
done, and the state it leaves. -/
structure CodecOut where
  status : Nat
  bytesIn : Nat
  blocks : Nat
  pre : List (Nat × List Byte)
  outs : List (List (Nat × List Byte))
  st : StreamSt
deriving DecidableEq, Repr

/-- A running codec job: its descriptor's words, its queue index, and the surface after a claim (R282, R285). -/
structure CodecJob where
  desc : List Word
  index : Nat
  /-- Size, storage of the linear or destination side, destination base and pitch as resolved. -/
  w : Nat
  h : Nat
  fmt : Nat
  dstForm : Nat
  dst : Nat
  dstPitch : Nat
  /-- The claimed buffer and its summary address, where its entry has one. -/
  buf : Option Nat
  summary : Option Nat
  /-- The status of a job that ends without work (2, 8, 11). -/
  dead : Option Nat
  /-- An internal DECODE job: who asked for it, a stream (0 to 31), a flow (32 + f) or the trim updater (40), plus 64 times its
  run (R319, R468, R494), and the state of its stream as it starts. -/
  intern : Option (Nat × StreamSt)
  /-- Index of the free value that numbers an encoded frame. -/
  key : Nat
  /-- What the job had come to when CUR_BLOCKS showed its progress last (R292). -/
  seen : Option CodecOut
deriving DecidableEq, Repr

/-- The codec. -/
structure CodecUnit where
  /-- Running job by channel. Reset: none. -/
  run : AMap (Option CodecJob)
  /-- What waits for a state slot, by channel: 0 nothing, 1 the host's job, 2 an internal one (R289). Reset: 0. -/
  wait : AMap Nat
  /-- Internal jobs that wait, by channel, oldest first: who asks, the descriptor's words and the destination buffer, none
  for an address (R319, R468, R494). Reset: none. -/
  queued : AMap (List (Nat × List Word × Option Nat))
  /-- The 64 state slots. Reset: free, empty. -/
  slots : AMap StSlot
deriving DecidableEq, Repr

def CodecUnit.initial : CodecUnit := ⟨[], [], [], []⟩


/-! ## Bunting rings (spec/12_bunting_physical.md, spec/13_bunting_protocol.md) -/

/-- What a ring port knows of an enumerated module (R344, R346, R354). -/
structure ModEnt where
  ident : Nat
  version : Nat
  maxStep : Nat
  idleCap : Bool
  deepCap : Bool
  /-- Forward delay, raw u8.8 ns. -/
  f : Nat
  /-- Hop delay d[m], raw u16.8 ns. -/
  hop : Nat
deriving DecidableEq, Repr

def ModEnt.initial : ModEnt := ⟨0, 0, 0, false, false, 0, 0⟩

/-- The last report of a position (R369, R392). Reset: 0. -/
structure Rpt where
  gen : Nat
  flagOk : Bool
  checkErr : Bool
  deltaMiss : Bool
  dark : Bool
  fwState : Nat
  fwProg : Nat
  penMissed : Bool
  frame : Word
  reported : Bool
deriving DecidableEq, Repr

def Rpt.initial : Rpt := ⟨0, false, false, false, false, 0, 0, false, 0, false⟩

/-- A block of a lane before line coding: control or data, and its 128-bit payload (R332). -/
structure Block where
  ctrl : Bool
  payload : Nat
deriving DecidableEq, Repr

/-- How a position of a ring is served in a frame (R380): 0 with drive codes, 1 BLANK, 2 KEEP; its lamps, and its rows'
length. -/
structure PosPlan where
  kind : Nat
  lamps : Nat
  lw : Nat
deriving DecidableEq, Repr

/-- What a ring serves in a frame, fixed as its streaming starts: its phases, whether delta flags may be used, its
positions, and the probe entries (position, entry) (R379, R380, R403). -/
structure ServePlan where
  frame : Word
  phases : Nat
  delta : Bool
  pos : List PosPlan
  probes : List (Nat × Nat)
deriving DecidableEq, Repr

/-- A ring port. Reset: DOWN, nothing enumerated. -/
structure Ring where
  /-- LINK_STAT.state (R343). -/
  st : Nat
  step : Nat
  rxLock : Bool
  /-- Modules enumerated, and whether an enumeration has returned. -/
  n : Nat
  enumd : Bool
  mods : AMap ModEnt
  /-- LOOP_DLY, raw u16.8 ns. -/
  rl : Nat
  cblUsed : Bool
  /-- K_tab, raw u16.8 ns. -/
  cbl : AMap Nat
  /-- The highest step that R350 still attempts. -/
  limit : Nat
  /-- The target of a step in progress; TRAIN follows a step; WAKE follows DEEP. -/
  target : Nat
  afterStep : Bool
  fromDeep : Bool
  /-- Trains of the measurement in progress, newest first: r and the modules' f (R346); a measurement runs in UP (R347). -/
  meas : List (Nat × List Nat)
  remeas : Bool
  /-- TX_CFG in force, and whether a write is pending (R341). -/
  tx : Word
  txPending : Bool
  /-- D_p, ns (R373). -/
  dp : Nat
  /-- ASSIGN and DIAG_CFG blocks are due after the next gap (R373, R404). -/
  assignDue : Bool
  diagDue : Bool
  /-- MFW_ACTIVATE blocks due: destination and frame (R387). -/
  actDue : List (Nat × Word)
  /-- The last Pennant: frame, vt, repeats, kind, gen; it has not returned (R392, R393). -/
  penFrame : Option Word
  vt : Nat
  rep : Nat
  penKind : Nat
  penGen : Nat
  penOut : Bool
  /-- Positions whose part 0 left in full before that Pennant; reports that have returned since the one before (R371). -/
  sent0 : List Nat
  got : List Nat
  /-- FRAME_BLOCKS of the last frame, and blocks of parts and pads of the present one. -/
  frameBlocks : Nat
  blocks : Nat
  /-- Frames whose streaming has started and whose Pennant has not left, oldest first. -/
  serve : List ServePlan
  /-- The frame whose parts go out; parts that left in full, as module * 4 + phase; modules whose parts have started. -/
  pf : Option Word
  sent : List Nat
  started : List Nat
  /-- Codes of the part being gathered, newest first: (module, lamp, code), and its phase. -/
  asm : List (Nat × Nat × Nat)
  asmPhase : Nat
  /-- The frame of the content a module holds, as far as the device knows (R360 base). -/
  content : AMap Word
  rpt : AMap Rpt
  /-- Modules marked need_full, and modules whose present flag is FULL for it (R365). -/
  needFull : List Nat
  forced : List Nat
  idMis : List Nat
  modMissing : Bool
  /-- Bytes of the module image relayed on this ring (R386). -/
  relayed : Nat
  /-- Blocks sent since the last Pennant began, newest first, and the 130 line bits of each (R332, R333); FILL and TRAIN
  that only wait are not listed. Runs of blocks sent, which draw the scrambler's state they start from. -/
  out : List Block
  line : List Nat
  runs : Nat
  /-- The receive slicer's offset in force, and the loss-of-signal threshold (R593). Reset: none measured, none trimmed. -/
  slicer : Option Byte
  los : Option Byte
deriving DecidableEq, Repr

def Ring.initial : Ring :=
  { st := 0, step := 0, rxLock := false, n := 0, enumd := false, mods := [], rl := 0, cblUsed := false, cbl := [], limit := 4, target := 0
    afterStep := false, fromDeep := false, meas := [], remeas := false, tx := 0x26A, txPending := false, dp := 0
    assignDue := false, diagDue := false, actDue := [], penFrame := none, vt := 0, rep := 0, penKind := 0, penGen := 0
    penOut := false, sent0 := [], got := [], frameBlocks := 0, blocks := 0, serve := [], pf := none, sent := [], started := [], asm := []
    asmPhase := 0, content := [], rpt := [], needFull := [], forced := [], idMis := [], modMissing := false, relayed := 0, out := []
    line := [], runs := 0, slicer := none, los := none }

/-- A module image relay (R386). -/
structure Relay where
  src : Nat
  len : Nat
  mask : Nat
  dest : Nat
deriving DecidableEq, Repr

/-- A group of rings. Reset: PLL not locked, nothing withdrawn. -/
structure Bgrp where
  /-- REF_STAT.pll_locked. -/
  pll : Bool
  /-- Withdrawals of frame `wdFrame` (R382), and its next attempt waits for its start. -/
  wdCount : Nat
  wdFrame : Word
  wdWait : Bool
  relay : Option Relay
  /-- MFW_STAT's units of the last relay. -/
  relayUnits : Nat
  /-- DGST_INVALID was raised for this frame (R366). -/
  dgstFrame : Option Word
  /-- The probes picked for a frame, as (context, entry), and the frame (R403): a further attempt keeps them. -/
  probes : List (Nat × Nat)
  probesFor : Option Word
  /-- Drive codes that the Ensign renderer has sent and the packer has not taken (R237). -/
  ens : List Chunk
deriving DecidableEq, Repr

def Bgrp.initial : Bgrp := ⟨false, 0, 0, false, none, 0, none, [], none, []⟩

/-! ## Lamp diagnostics (spec/14_lamp_diagnostics.md) -/

/-- The diagnostics unit. -/
structure DiagUnit where
  /-- A fault-map command in progress: op, first index, bytes (R400). Reset: none. -/
  cmd : Option (Nat × Nat × Nat)
  /-- Scan cursors by context (R403). Reset: 0. -/
  cursor : AMap Nat
  /-- Consecutive served RUN frames without a temperature, by context (R406). Reset: 0. -/
  stale : AMap Nat
  /-- Contexts that sent a temperature since their group's last stream start. Reset: none. -/
  fresh : List Nat
  /-- Contexts served in the last RUN frame of each group. Reset: none. -/
  served : AMap (List Nat)
  /-- PRB_STAT, TEMP_MAX, HOT_RINGS, STALE_RINGS by group. Reset: 0, 0x8000, 0, 0. -/
  prbStat : AMap Word
  tempMax : AMap Word
  hot : AMap Word
  staleRings : AMap Word
deriving DecidableEq, Repr

def DiagUnit.initial : DiagUnit := ⟨none, [], [], [], [], [], [], [], []⟩

/-! ## Modules on a ring: what a compatible module holds (R357, R391, R410) -/

/-- A part of a flag as a module holds it (R359 to R364). -/
structure FlagPart where
  kind : Nat
  phase : Nat
  gen : Nat
  frame : Word
  base : Nat
  ok : Bool
  /-- (lamp, drive code): every lamp in a FULL part, the changed rows in a DELTA part. -/
  codes : List (Nat × Nat)
deriving DecidableEq, Repr

/-- A module's content: drive codes by phase * 65536 + lamp, its phases, its frame, gen, dark (R376). -/
structure Content where
  codes : AMap Nat
  phases : Nat
  frame : Word
  gen : Nat
  dark : Bool
deriving DecidableEq, Repr

/-- A probe entry a module holds: frame, lamp, colour, slot (R404, R405). -/
structure Probe where
  frame : Word
  lamp : Nat
  colour : Nat
  slot : Nat
deriving DecidableEq, Repr

/-- A module on a ring. Reset: not enumerated, training, dark, running firmware, every condition ok. -/
structure Modu where
  desc : ModDesc
  /-- Link: 0 training after a link reset, 1 forwarding, 2 asleep in Idle, 3 asleep in Deep. -/
  link : Nat
  step : Nat
  pos : Option Nat
  /-- The hold value h in use, and the one that the next Pennant takes up (R373). -/
  hold : Option Nat
  holdNext : Option Nat
  /-- What is displayed, and what the pending latch will display (R376). -/
  shown : Content
  chosen : Option Content
  /-- Latches since the module started. -/
  latches : Nat
  flagOk : Bool
  checkErr : Bool
  deltaMiss : Bool
  penMissed : Bool
  /-- The parts of the flag being received, newest first. -/
  parts : List FlagPart
  /-- The last valid Pennant: frame, kind. -/
  pen : Option (Word × Nat)
  /-- Firmware: fw_state; chunks held (first 16 B unit, units); units of the image once its last chunk is known; X. -/
  fw : Nat
  chunks : List (Nat × Nat)
  fwEnd : Option Nat
  actFrame : Option Word
  /-- Diagnostics: the window, and the one that the next frame takes up (R410); conditions by lamp * 3 + colour: 0 ok, 1
  open, 2 short, 3 unmeasured; the latch count of each colour's last measurement; queued entries, probe results first
  (R396, R397). -/
  window : Nat
  windowNext : Option Nat
  cond : AMap Nat
  measured : AMap Nat
  probeQ : List Nat
  queue : List Nat
  probes : List Probe
  pulsed : List Probe
  /-- The payloads the module last inserted into the stream, a control block and its data blocks: a slot, or its report with
  its diagnostic blocks; the 130 line bits of each (R332, R333); and how often it has inserted. -/
  out : List Nat
  line : List Nat
  runs : Nat
deriving DecidableEq, Repr

def Content.dark0 : Content := ⟨[], 1, 0, 0, true⟩

def Modu.initial : Modu :=
  { desc := ⟨0, 0, 0, false, false, 0, 0, 0⟩, link := 0, step := 0, pos := none, hold := none, holdNext := none
    shown := .dark0, chosen := none, latches := 0, flagOk := false, checkErr := false, deltaMiss := false, penMissed := false
    parts := [], pen := none, fw := 0, chunks := [], fwEnd := none, actFrame := none, window := 4096, windowNext := none
    cond := [], measured := [], probeQ := [], queue := [], probes := [], pulsed := [], out := [], line := []
    runs := 0 }


/-! ## Ensign (spec/08_ray_compositing.md R235 to R237) -/

/-- What an ENSIGN command changes when it completes (R237). -/
inductive EnsUpd where
  /-- The region: its group, and the first and last module of its rings. -/
  | region (g : Nat) (rings : AMap (Option (Nat × Nat)))
  | palette (m : AMap Nat)
  | store (m : AMap Byte)
deriving DecidableEq, Repr

/-- The Ensign region, palette and bitmap store, held by CTL. Reset: no region; palette and store 0 (DESIGN CHOICE, log 22). -/
structure Ensign where
  group : Option Nat
  /-- Enabled rings: first and last module. -/
  rings : AMap (Option (Nat × Nat))
  palette : AMap Nat
  /-- The store's bytes. -/
  store : AMap Byte
  /-- The bitmap, palette or region has changed since the last close of the Ensign group. -/
  changed : Bool
  /-- An ENSIGN command that is carried out and has not completed. -/
  next : Option EnsUpd
deriving DecidableEq, Repr

def Ensign.initial : Ensign := ⟨none, [], [], [], false, none⟩


/-! ## HBM controller (spec/15_hbm_controller.md) -/

/-- A memory request (R414, R415): its source Weir, or 200 for BAR2; its tag there; its class; a read of `len` bytes or a
write. -/
structure HbmReq where
  src : Nat
  tag : Nat
  cls : Nat
  addr : Nat
  len : Nat
  write : Option (List Byte)
deriving DecidableEq, Repr

/-- An entry of a pseudo-channel queue: the request, the status and data that a read will reply, the bytes that a
write replaced, and the words of a read's span that held errors as it entered: word and kind, 1 correctable, 2 not (R417, R425, R436). -/
structure PcEntry where
  req : HbmReq
  status : ReplyStatus
  data : List Byte
  old : List Byte
  errs : List (Nat × Nat)
deriving DecidableEq, Repr

/-- A pseudo-channel (R416 to R423). Reset: empty, owed 0, every row closed, prediction counters 2. -/
structure PcUnit where
  queue : List PcEntry
  owed : Int
  /-- Entries of class 0 served in the present real-time burst. -/
  burst : Nat
  /-- The open row of a bank, and its prediction counter. -/
  rows : AMap (Option Nat)
  pred : AMap Nat
deriving DecidableEq, Repr

def PcUnit.initial : PcUnit := ⟨[], 0, 0, [], []⟩

/-- A command of a channel as its Eddy keeps it: pseudo-channel, address, write data; a REF has no address (R429). -/
structure EddyCmd where
  pc : Nat
  addr : Option Nat
  write : Option (List Byte)
deriving DecidableEq, Repr

/-- A channel (R429, R430). Reset: no recovery, empty Eddy, no lane remapped. -/
structure HbmChan where
  replay : Bool
  /-- Consecutive replays in which the same command signalled an error. -/
  repeats : Nat
  retrain : Bool
  /-- The last 64 commands, newest first. -/
  eddy : List EddyCmd
  lanes : Nat
deriving DecidableEq, Repr

def HbmChan.initial : HbmChan := ⟨false, 0, false, [], 0⟩

/-- The controller. -/
structure HbmUnit where
  /-- Requests that wait at the arbiter, in the order in which they came (R416); the source of each class taken last. -/
  waiting : List HbmReq
  lastSrc : AMap Nat
  pcs : AMap PcUnit
  chans : AMap HbmChan
  /-- STAT.sr, STAT.doubled, STAT.chan_failed (R440, R441). Reset: 0. -/
  sr : Bool
  doubled : Bool
  chanFailed : Nat
  /-- TEMP: the last sample obtained, °C, and whether the last was (R424). Reset: 0, 0. -/
  temp : Int
  tempValid : Bool
  /-- TRAIN_STAT: code, channel, repaired (R433). Reset: 0. -/
  train : Nat
  trainChan : Nat
  repaired : Bool
  /-- SCRUB_POS (R431). Reset: 0. -/
  scrub : Nat
  /-- An armed injection: kind and address (R432). Reset: none. -/
  inj : Option (Nat × Nat)
deriving DecidableEq, Repr

def HbmUnit.initial : HbmUnit :=
  { waiting := [], lastSrc := [], pcs := [], chans := [], sr := false, doubled := false, chanFailed := 0, temp := 0
    tempValid := false, train := 0, trainChan := 0, repaired := false, scrub := 0, inj := none }

/-- What BAR2 and GLB.FLUSH have in flight (R66, R67). -/
structure Bar2 where
  /-- The data of the host's last BAR2 read, and whether its completion carried the poisoned attribute. Reset: none, 0. -/
  data : List Byte
  poisoned : Bool
  /-- A FLUSH read waits. -/
  flush : Bool
deriving DecidableEq, Repr


/-! ## Host interface and scene store (spec/16_host_and_scene_store.md) -/

/-- A running DMA job: its descriptor's words and queue index, bytes completed, the bytes received of a FILL_BUF's image,
newest first, its buffer once claimed, the status of a job that ends without more work, the bytes it has asked for, and its read
requests on the bus, oldest first: bus address and bytes still to come (R453 to R456). -/
structure DmaJob where
  desc : List Word
  index : Nat
  got : Nat
  image : List Byte
  buf : Option Nat
  dead : Option Nat
  asked : Nat
  reads : List (Nat × Nat)
deriving DecidableEq, Repr

/-- The host port (R446 to R456). Reset: no job, no doorbell waiting. -/
structure HostUnit where
  /-- Running job by DMA channel. -/
  dma : AMap (Option DmaJob)
  /-- Doorbell writes that wait for earlier posted writes, oldest first: doorbell and seq (R451). -/
  bells : List (Nat × Word)
  /-- Posted writes on the link, newest first: bus address and bytes (R456). -/
  posted : List (Nat × List Byte)
  /-- The function is in D3hot (R446). Reset: no (PRESUMED, PCI Express: D0, log 23). -/
  d3 : Bool
  /-- What the last configuration request was answered: completion status (0 successful, 2 retry) and data (R602). -/
  cfgAns : Nat × Word
  /-- The host port is x8 (R447). Reset: no. -/
  x8 : Bool
  /-- The address bits that the host has written into the base address registers, by header double word (R34). Reset: 0 (PRESUMED,
  PCI Express). -/
  bars : AMap Word
deriving DecidableEq, Repr

def HostUnit.initial : HostUnit := ⟨[], [], [], false, (0, 0), false, []⟩

/-- A command in flight on a drive: who it serves (0 to 31 a stream, 32 the host request, 33 the wear checkpoint), its stream's run and
staging slot, its HBM address (a checkpoint's offset in the image) and bytes, whether it writes, and its first block and blocks (R459,
R462). -/
structure NvmeCmd where
  who : Nat
  run : Nat
  slot : Nat
  addr : Nat
  bytes : Nat
  write : Bool
  flush : Bool
  lba : Nat
  blocks : Nat
deriving DecidableEq, Repr

/-- A drive (R460). Reset: ABSENT. -/
structure Drive where
  /-- DRV_STAT.state: 0 ABSENT, 1 INIT, 2 READY, 3 FAILED. -/
  st : Nat
  speed : Nat
  width : Nat
  lbaLog2 : Nat
  /-- Capacity used, LBAs. -/
  cap : Nat
  /-- The most bytes one command may move: min(MDTS, 512 KiB). -/
  most : Nat
  /-- The instant of the last controller reset, 2^-32 ns. -/
  lastReset : Option Nat
deriving DecidableEq, Repr

def Drive.initial : Drive := ⟨0, 0, 0, 0, 0, 0, none⟩

/-- A chunk of a run that has been issued (R466): its first clip byte, its length, its slot, its commands not yet sent
(drive, drive byte, bytes, HBM address), how many are out, and whether it has been promoted. -/
structure StrChunk where
  pos : Nat
  len : Nat
  slot : Nat
  todo : List (Nat × Nat × Nat × Nat)
  out : Nat
  prom : Bool
deriving DecidableEq, Repr

/-- A scene-store stream (R466 to R469). Reset: STOPPED. -/
structure Stream where
  /-- STR_STAT.state: 0 STOPPED, 1 RUNNING, 2 ENDED, 3 ERROR. -/
  st : Nat
  err : Nat
  owed : Bool
  /-- The codec state slot held. -/
  slot : Option Nat
  /-- The clip as checked at the start or seek: drive mask, stripe, start, length. -/
  mask : Nat
  stripe : Nat
  start : Nat
  len : Nat
  /-- STR_CFG, the staging address and STR_DEC as the run started. -/
  cfg : Word
  stage : Nat
  dec : Word
  /-- Runs started. -/
  run : Nat
  /-- The next chunk's first clip byte, none after the clip's end; chunks issued in this run. -/
  next : Option Nat
  issued : Nat
  /-- STR_PROM, STR_POS. -/
  proms : Nat
  pos : Nat
  /-- Chunks issued and not yet consumed, oldest first. -/
  chunks : List StrChunk
  /-- STR_END has been raised for this run. -/
  ended : Bool
  /-- Decoding: bytes of the oldest chunk that are used up; the buffer of the frame in progress; a job is queued or runs. -/
  used : Nat
  buf : Option Nat
  busy : Bool
  /-- STR_FRAME. -/
  frame : Word
deriving DecidableEq, Repr

def Stream.initial : Stream :=
  { st := 0, err := 0, owed := false, slot := none, mask := 0, stripe := 0, start := 0, len := 0, cfg := 0, stage := 0
    dec := 0, run := 0, next := none
    issued := 0, proms := 0, pos := 0, chunks := [], ended := false, used := 0, buf := none, busy := false, frame := 0 }

/-- A host request in progress (R471): its commands not yet sent, those out, and the first failure. -/
structure NvmeReq where
  op : Nat
  drive : Nat
  todo : List (Nat × Nat × Nat × Nat)
  out : Nat
  status : Nat
  field : Nat
deriving DecidableEq, Repr

/-- The scene store. Reset: every drive ABSENT, every stream STOPPED. -/
structure StoreUnit where
  drives : AMap Drive
  /-- Commands in flight by drive * 256 + tag. -/
  cmds : AMap (Option NvmeCmd)
  streams : AMap Stream
  req : Option NvmeReq
  /-- REQ_STAT: status and NVMe status field of the last request. -/
  reqStatus : Nat
  reqField : Nat
  /-- Data the engine wrote to drives, newest first: drive, first block, bytes. -/
  written : List (Nat × Nat × List Byte)
  /-- Drives whose RPERSTd_N is asserted (R449, R458, R611). Reset: every one. -/
  rperst : List Nat
deriving DecidableEq, Repr

def StoreUnit.initial : StoreUnit := ⟨[], [], [], none, 0, 0, [], [0, 1, 2, 3]⟩

/-- ROM recovery (R472, R473). Reset: NONE. -/
structure Recovery where
  /-- REC_STAT.state: 0 NONE, 1 WAIT, 2 CHECK, 3 FAILED, 4 RUN. -/
  st : Nat
  /-- The image bytes written through REC_DATA. -/
  image : AMap Byte
  /-- REC_CTRL.src of the last go. -/
  src : Bool
deriving DecidableEq, Repr

def Recovery.initial : Recovery := ⟨0, [], false⟩


/-! ## Control processor, images and settings (spec/21_firmware_and_update.md) -/

/-- A helper (R551, R552). Reset: RESET, no microcode. -/
structure Helper where
  /-- HLP_STAT.state: 1 RESET, 3 RUN, 4 UPDATE, 5 DEAD. -/
  st : Nat
  /-- HLP_VER. -/
  ver : Word
  /-- It has been in RUN since PORST_N (R603). -/
  ran : Bool
deriving DecidableEq, Repr

def Helper.initial : Helper := ⟨1, 0, false⟩

/-- A record of the NVM: type, version, sequence and payload (R566). One whose CRCs fail is no record. -/
structure NvRec where
  type : Nat
  version : Nat
  seq : Word
  payload : List Byte
deriving DecidableEq, Repr

/-- The record of a blank place. -/
def NvRec.blank : NvRec := ⟨0, 0, 0, []⟩

/-- A staged image: address, bytes of its header and payload, the payload's digest, and its version (R556). -/
structure Staged where
  addr : Nat
  len : Nat
  digest : List Byte
  version : Word
deriving DecidableEq, Repr

/-- The privileged settings in force (R569, R586). Reset: the defaults. -/
structure Policy where
  /-- The key mask of classes 1 to 4. -/
  masks : List Nat
  debug : Bool
  trip : Nat
  hbmTrip : Nat
  govMax : Nat
  hbmGovMax : Nat
deriving DecidableEq, Repr

def Policy.default : Policy := ⟨[15, 15, 15, 15], false, 115, 100, 105, 95⟩

/-- An entry of a campaign: its four words, and its state: 0 pending, 1 done, 2 failed, and its code (R573, R574). -/
structure CampEntry where
  words : List Word
  st : Nat
  code : Nat
  /-- X_g of the groups of a module entry. -/
  frames : List (Nat × Word)
  /-- A helper or island entry has been started. -/
  going : Bool
deriving DecidableEq, Repr

/-- The control processor's world. -/
structure Cpm where
  helpers : AMap Helper
  /-- The firmware runs; its settings are migrated (R568, R570, R602). Reset: no. -/
  up : Bool
  migrated : Bool
  /-- Version and security version of the running image. Reset: 0. -/
  ver : Word
  svn : Nat
  /-- CP_STAT: handover state, running half, source of the load; HO_INFO (R571). Reset: 0. -/
  ho : Nat
  half : Bool
  /-- A handover has passed SWITCH: the running image is under its watchdog (R572). -/
  switched : Bool
  /-- Source of the load: 0 and 1 an NVM slot, 2 the staged image. -/
  hoSrc : Nat
  hoVer : Word
  hoSvn : Nat
  hoInfo : Nat
  /-- MB_STAT; the request taken and not yet carried out; the response made and not yet shown (R565). Reset: idle. -/
  busy : Bool
  timedOut : Bool
  req : Option (List Word × Bool)
  /-- A request that timed out before the firmware took it: it may still be carried out. -/
  late : Option (List Word × Bool)
  tag : Nat
  rsp : Option (List Word)
  /-- A HELPER_UPDATE of the mailbox waits for this helper. -/
  rspHelper : Option Nat
  staged : AMap (Option Staged)
  /-- The campaign: CAMP_STAT.state, T as (seconds, ns), its entries (R573 to R575). Reset: none. -/
  camp : Nat
  campSec : Nat
  campNs : Nat
  entries : List CampEntry
  /-- Settings payload in force, eight words; its record is newer than the firmware (R569, R570). Reset: defaults. -/
  settings : List Word
  newer : Bool
  /-- The policy in force, its sequence, and debug_en as fixed at PORST_N (R562, R563). Reset: defaults, 0, 0. -/
  policy : Policy
  policySeq : BitVec 16
  debug : Bool
  /-- The start's load sequence: the place in R554's order it has reached, and whether that island's UPDATE has been requested.
  Reset: not running. -/
  auto : Option Nat
  autoTried : Bool
  /-- The index of the first of the four free words that SEC.NONCE shows (R561). Reset: 0 (DESIGN CHOICE, log 2). -/
  nonce : Nat
deriving DecidableEq, Repr

/-- The defaults of R569. -/
def defaultSettings : List Word := [0, 0, 0, 0, 0, 0, 1, 0]

def Cpm.initial : Cpm :=
  { helpers := [], up := false, migrated := false, ver := 0, svn := 0, ho := 0, half := false, switched := false, hoSrc := 0, hoVer := 0
    hoSvn := 0, hoInfo := 0, busy := false, timedOut := false, req := none, late := none, tag := 0, rsp := none, rspHelper := none, staged := []
    camp := 0, campSec := 0, campNs := 0, entries := [], settings := defaultSettings, newer := false, policy := .default
    policySeq := 0, debug := false, auto := none, autoTried := false, nonce := 0 }

/-- What outlives every reset: the flash, the fuses and the lifetime counts (R559, R560, R566, R576). -/
structure Lasting where
  /-- The NVM's records by offset. Reset: blank (DESIGN CHOICE, log 25). -/
  nvm : AMap NvRec
  /-- Programmed root-key slots and their digests; slot 0's is set at manufacture (R559). Reset: slot 0 alone. -/
  keys : AMap (Option (List Byte))
  revoked : List Nat
  /-- Blown fuses of classes 1 to 4 (R560). Reset: 0 (DESIGN CHOICE, log 25). -/
  svn : AMap Nat
  /-- Power-on time in AON edges, hot milliseconds, thermal cycles, PORST_N assertions. Reset: 0 (DESIGN CHOICE, log 25). -/
  onEdges : Nat
  hotMs : Nat
  cycles : Nat
  porsts : Nat
deriving DecidableEq, Repr

def Lasting.initial : Lasting := ⟨[], [], [], [], 0, 0, 0, 0⟩


/-! ## Network ingest (spec/17_network_ingest.md) -/

/-- A network port (R499). Reset: link down. -/
structure NetPort where
  link : Bool
  align : Bool
  anDone : Bool
  /-- PORT_STAT.fec. -/
  fec : Nat
deriving DecidableEq, Repr

def NetPort.initial : NetPort := ⟨false, false, false, 0⟩

/-- A frame of an ST 2110-20 flow in progress (R490 to R492). -/
structure FlowFrame where
  /-- Its RTP timestamp. -/
  ts : Word
  /-- The buffer claimed, and its entry's words. -/
  buf : Option Nat
  entry : List Word
  /-- drop_cause 2 or 3 already due; 0 none. -/
  cause : Nat
  /-- Extended sequence numbers accepted, newest first; the first; the marker's. -/
  seqs : List Nat
  first : Nat
  marker : Option Nat
  /-- The lower held block row w. -/
  w : Nat
  /-- Samples held: code + 1 by (y * 8192 + x) * 4 + component. -/
  samples : AMap Nat
  damaged : Bool
deriving DecidableEq, Repr

/-- A closed frame whose writes are on their way (R491, R492). -/
structure FlowDone where
  buf : Nat
  ts : Word
  /-- drop_cause of a frame that is dropped; 0 where it becomes READY. -/
  cause : Nat
  damaged : Bool
deriving DecidableEq, Repr

/-- A half of a Bamler flow's staging area (R494, R495): 0 empty, 1 a frame is assembled, 2 complete and not yet decoded. -/
structure FlowHalf where
  st : Nat
  ts : Word
  /-- Ranges received: offset and length. -/
  got : List (Nat × Nat)
  /-- The frame's length, once its fe packet has arrived. -/
  len : Option Nat
deriving DecidableEq, Repr

def FlowHalf.initial : FlowHalf := ⟨0, 0, [], none⟩

/-- A flow (R485). Reset: STOPPED. -/
structure Flow where
  /-- FL_STAT.state: 0 STOPPED, 1 RUNNING, 2 RESYNC. -/
  st : Nat
  signal : Bool
  legA : Bool
  legB : Bool
  /-- The codec state slot held. -/
  slot : Option Nat
  startErr : Nat
  dropCause : Nat
  /-- Line buffer bytes allocated. -/
  lbuf : Nat
  /-- The settings that a flow which is not STOPPED runs on, FL_CFG to FL_STAGE_HI (R485, R486). -/
  cfg : List Word
  /-- FL_SEQ and FL_RTP: the last READY's. -/
  seq : Word
  rtp : Word
  /-- Frames made READY since the start (R492). -/
  sent : Word
  /-- Starts so far. -/
  run : Nat
  frame : Option FlowFrame
  /-- The last closed frame's timestamp, and the sequence numbers accepted in it; for a Bamler flow those of the frame before the one
  that `began`. -/
  lastTs : Option Word
  lastSeqs : List Nat
  /-- The sequence numbers accepted since the Bamler frame in progress or last begun. -/
  seqs : List Nat
  closing : List FlowDone
  half0 : FlowHalf
  half1 : FlowHalf
  /-- Timestamps of the Bamler frame in progress or last begun. -/
  began : Option Word
  /-- The half whose decode is queued or runs. -/
  dec : Option Nat
deriving DecidableEq, Repr

def Flow.initial : Flow :=
  { st := 0, signal := false, legA := false, legB := false, slot := none, startErr := 0, dropCause := 0, lbuf := 0, cfg := []
    seq := 0, rtp := 0, sent := 0, run := 0, frame := none, lastTs := none, lastSeqs := [], seqs := [], closing := []
    half0 := .initial, half1 := .initial, began := none, dec := none }

/-- An IGMPv3 message that the control processor has sent (R482): a membership report, or a leave. -/
structure Igmp where
  port : Nat
  group : Nat
  /-- The source of a source-specific report; 0 any. -/
  source : Nat
  join : Bool
deriving DecidableEq, Repr

/-- The network island. Reset: links down, flows STOPPED, nothing passed to CTL, nothing sent. -/
structure NetUnit where
  ports : AMap NetPort
  flows : AMap Flow
  /-- Frames passed to CTL, newest first: port, receive stamp in 2^-16 ns for a PTP message, bytes (R482, R483). -/
  toCtl : List (Nat × Option Int × List Byte)
  /-- IGMPv3 messages sent, newest first (R482). -/
  igmp : List Igmp
  /-- By lane 0 to 15: the receive slicer's offset in force, and the loss-of-signal threshold (R593). Reset: none. -/
  slicer : AMap (Option Byte)
  los : AMap (Option Byte)
deriving DecidableEq, Repr

def NetUnit.initial : NetUnit := ⟨[], [], [], [], [], []⟩


/-! ## Cameras (spec/18_camera_pipelines.md) -/

/-- A settings set armed or being written: target, its place in HBM, its ID, the entries not yet written (8 bytes each), when
its writing started, and whether it can be written at all (0, or a fail code) (R512, R513). -/
structure CamSet where
  target : Word
  addr : Nat
  id : Nat
  todo : List (List Byte)
  started : Nat
  bad : Nat
deriving DecidableEq, Repr

/-- A set whose writing has ended: target, ID, start and end (2^-32 ns), and whether it completed (R514). -/
structure CamSetEnd where
  target : Word
  id : Nat
  started : Nat
  ended : Nat
  ok : Bool
deriving DecidableEq, Repr

/-- A camera frame from its Frame Start on (R504 to R509). -/
structure CamFrame where
  /-- It took no trigger, and is discarded whole (R511). -/
  discard : Bool
  seq : Word
  /-- The Frame Start's stamp, 2^-16 ns. -/
  stamp : Nat
  /-- The CAM page's registers in force at the Frame Start. -/
  regs : AMap Word
  /-- Lines received, and the unpacked samples of those processed, newest first. -/
  lines : Nat
  rows : List (List Nat)
  /-- Flags of stats word 2 that hold so far. -/
  flags : Nat
  setId : Nat
  /-- The tap's buffer and its entry. -/
  tap : Option (Nat × List Word)
deriving DecidableEq, Repr

/-- A camera pipeline. Reset: no signal, no trigger, no set. -/
structure Cam where
  signal : Bool
  ulps : Bool
  /-- TRIG_SEQ. -/
  trigSeq : Word
  /-- Emitted triggers not yet taken, oldest first: sequence number and time (2^-32 ns). -/
  queue : List (Word × Nat)
  /-- A sequence run: when its start was seen, and the pulses left (R510). -/
  seqRun : Option (Nat × Nat)
  frame : Option CamFrame
  /-- Closed frames whose statistics, and whose spot lists, are on their way. -/
  statsQ : List CamFrame
  spotQ : List CamFrame
  writing : Option CamSet
  queued : Option CamSet
  /-- Sets that have ended, newest first. -/
  ended : List CamSetEnd
  /-- SET_STAT.id and fail_code. -/
  setId : Nat
  failCode : Nat
  /-- I2C writes made, newest first: address, register address width in bytes, register address, data. -/
  i2c : List (Nat × Nat × Nat × List Byte)
deriving DecidableEq, Repr

def Cam.initial : Cam :=
  { signal := false, ulps := false, trigSeq := 0, queue := [], seqRun := none, frame := none, statsQ := [], spotQ := []
    writing := none, queued := none, ended := [], setId := 0, failCode := 0, i2c := [] }


/-! ## Audio ports (spec/19_audio_ports.md) -/

/-- A position's stamp (R534): position, 2^-16 ns, and whether it is predicted. -/
structure AudStamp where
  pos : Word
  t : Nat
  predicted : Bool
deriving DecidableEq, Repr

/-- An audio port. Reset: STOPPED, positions 0, gains 0. -/
structure Aud where
  /-- STAT.state: 0 STOPPED, 1 ARMED, 2 RUNNING, 3 HOLDOVER. -/
  st : Nat
  pos : Word
  rxHw : Word
  txHw : Word
  /-- The next receive frame to be written and the next transmit frame to be fetched. -/
  rxNext : Word
  txNext : Word
  gRx : Nat
  gTx : Nat
  /-- room was above 0 at the last frame of the direction (R528). -/
  rxRoom : Bool
  txRoom : Bool
  /-- The position of the first frame, and the port whose start armed this one (R529, R530). -/
  startPos : Word
  lead : Nat
  /-- The time of the lead's first edge; of this port's last edge (2^-16 ns). -/
  leadT : Option Nat
  edge : Option Nat
  /-- PERIOD, u16.16 ns; frames and start of the measurement in progress (R532). -/
  period : Nat
  frames : Nat
  mark : Nat
  /-- Consecutive edges in HOLDOVER at the nominal period; a virtual frame ends at the next edge (R531). -/
  good : Nat
  back : Bool
  /-- Frames whose receive data is discarded (R532). -/
  cut : List Word
  /-- Frames fetched and not yet played. -/
  fetched : List (Word × List Int)
  /-- The slots of the frame at ASDOa, each of slot_w bits (R525); none: ASDOa is driven 0. -/
  playing : List Nat
  stamp : Option AudStamp
deriving DecidableEq, Repr

def Aud.initial : Aud :=
  { st := 0, pos := 0, rxHw := 0, txHw := 0, rxNext := 0, txNext := 0, gRx := 0, gTx := 0, rxRoom := false, txRoom := false
    startPos := 0, lead := 0, leadT := none, edge := none, period := 0, frames := 0, mark := 0, good := 0, back := false, cut := []
    fetched := [], playing := [], stamp := none }



/-! ## The blitter (spec/20_blitter.md) -/

/-- A running operation: the snapshot of its registers, the entry of a destination buffer, a refusal's result (R545), and the rows completed
(R549). -/
structure BlitJob where
  words : List Word
  entry : Option (List Word)
  res : Nat
  rows : Nat
deriving DecidableEq, Repr

/-- The blitter. Reset: idle, result 0, 0 rows. -/
structure BlitUnit where
  run : Option BlitJob
  /-- STAT.result and ROWS of the last operation. -/
  result : Nat
  rows : Nat
deriving DecidableEq, Repr



/-! ## Temperature and self-calibration (spec/22_thermal_and_selfcal.md) -/

/-- A temperature sensor: its last good reading in 1/256 °C. -/
structure Sensor where
  temp : Int
  valid : Bool
  fault : Bool
deriving DecidableEq, Repr

def Sensor.initial : Sensor := ⟨0, false, false⟩

/-- The sensors, the trip comparator and the thermal governor, in AON. Reset: no reading, every step 0. -/
structure Therm where
  sens : AMap Sensor
  /-- A die sensor's readings of the last 250 ms, newest first (R585). -/
  hist : AMap (List Int)
  /-- Consecutive samples at or above trip_c (R588). -/
  overs : AMap Nat
  /-- s[g] (R583). -/
  steps : AMap Nat
  /-- The condition of R585 holds; rf = 2. -/
  rising : Bool
  hold : Bool
  /-- ALERT_N is driven low. -/
  alert : Bool
  /-- The sensor trim record is missing or invalid (R581). -/
  untrimmed : Bool
  /-- The hottest die sensor has been below 40 °C since the last thermal cycle counted (R576). -/
  cold : Bool
deriving DecidableEq, Repr

def Therm.initial : Therm := ⟨[], [], [], [], false, false, false, false, false⟩

/-- A delay line: its scale p in force, u9.7, and the reading of its nearest sensor at its last calibration (R590, R591). -/
structure CalLine where
  p : Nat
  valid : Bool
  temp : Int
deriving DecidableEq, Repr

def CalLine.initial : CalLine := ⟨0, false, 0⟩

/-- The calibration sequencer. Reset: idle, no line calibrated. -/
structure CalUnit where
  busy : Bool
  /-- A further pass waits; a save waits for the pass; a save runs. -/
  again : Bool
  saveWait : Bool
  saveBusy : Bool
  /-- Lines with a new scale still to come into force. -/
  due : List Nat
  /-- Lines stepped in the present or last pass. -/
  stepped : Nat
  lines : AMap CalLine
  /-- Lines whose step has found no quiet moment in time (R592). -/
  deferred : List Nat
  /-- TEMP_MAX as the last pass ended (R594). -/
  tmax : Int
  /-- Slicer offsets measured and not yet in force, by lane: rings 0 to 255, network lanes 256 to 271 (R593). -/
  slicer : AMap (Option Byte)
deriving DecidableEq, Repr

def CalUnit.initial : CalUnit := ⟨false, false, false, false, [], 0, [], [], 0, []⟩

/-- Pins and straps that no island's reset changes. -/
structure Pins where
  /-- PORST_N is high. Reset: high. -/
  porst : Bool
  /-- PERST_N is high. Reset: low, DESIGN CHOICE (log 27). -/
  perst : Bool
  /-- The ROM has read its records since PORST_N rose (R601). Reset: no. -/
  strapped : Bool
  /-- THERMTRIP_N is low: the device has tripped, and stays so until VDD_CORE is removed (R589, R615). Reset: no. -/
  tripped : Bool
deriving DecidableEq, Repr




/-! ## The whole state -/

/-- The Afnil. -/
@[ext]
structure State where
  /-- The commands that wait, first in, first out. The model's own field. Reset: empty. -/
  pending : List Instr
  /-- How many free values the run has drawn: the model's own field (no statement rests on it). Reset: 4, DESIGN CHOICE (log 2): the
  first four are SEC.NONCE's. -/
  free : Nat
  /-- The part (R1). Reset: AF256-24, DESIGN CHOICE (log 3). -/
  part : Part
  /-- The -X screen (R2). Reset: false, DESIGN CHOICE (log 3). -/
  extTemp : Bool
  /-- Every RW and W1C field, every RWS shadow, and the RO registers with no typed home, by key: the BAR0 byte address,
  plus bank * 2^26 for the shadows of a banked page (R14, R37). Reset: the table's Reset values (nothing listed). -/
  regs : AMap Word
  /-- The values in force of the RWS fields, by the same keys (R14, R60). Reset: the table's Reset values. -/
  inForce : AMap Word
  /-- EV_PEND by page base (R47). Reset: 0. -/
  evPend : AMap Word
  /-- EV_RAW by page base: the live level conditions (R47). Reset: 0 but for conditions true in reset (QUEUE_IDLE, IDLE). -/
  evRaw : AMap Word
  /-- Captured words of register pairs and read captures, by the BAR0 address that will return them (R65, R94, R122). Reset: none. -/
  captures : AMap (Option Word)
  /-- The value the host's last register read returned. Reset: 0 (the model's own observation field). -/
  lastRead : Word
  /-- The high word that the host's last 64-bit register read returned (R62, R65). Reset: 0 (the model's own observation field). -/
  lastReadHi : Word
  /-- The islands, by number (R68). -/
  isl : AMap Island
  /-- Islands waiting for the power sequencer, oldest first; the head is the one closing (R70, R88). Reset: none. -/
  pwrQueue : List Nat
  /-- The Weirs by number (R75). Reset: nothing held. -/
  weirs : AMap Weir
  /-- The commit state by page slot * 16 + bank (R53). Reset: nothing pending. -/
  commits : AMap CommitSlot
  /-- Closes of group g whose notice has not reached island k, by k*16+g (R58). Reset: 0. -/
  unnoticed : AMap Nat
  msix : Msix
  /-- NET ports are in the 4 x 100GbE mode: the presence of NET4 to NET15, changed only through RESET (R38, R480). Reset: true, DESIGN
  CHOICE (log 3). -/
  netMode4 : Bool
  /-- HBM's bytes (R412, R433): 32 GiB of addresses, of which the part's capacity exists. Reset: nothing listed; an
  unlisted byte reads 0, as the clear of R433 leaves it. -/
  mem : List Host.Cell
  /-- Stored ECC faults by 64-bit word number: 1 one bit wrong, 2 uncorrectable (R425, R426, R432). Reset: none. -/
  ecc : AMap Nat
  time : TimeUnit
  /-- The trackers: 0 FSYNC_IN, 1 PPS_IN, 2 REF_IN (R110). -/
  trackers : AMap Tracker
  /-- The 64 schedule slots (R114). -/
  slots : AMap Slot
  /-- GPIO outputs as slots drove them (R116). -/
  gpio : AMap Gpio
  /-- The timing generators, by group (R125). -/
  tgen : AMap Tgen
  /-- Pulses scheduled on SHUT0 to SHUT3: pin, start and end in ns, active level (R133); newest first. Reset: none. -/
  shutPulses : List (Nat × Rat × Rat × Bool)
  layr : LayrUnit
  scal : ScalUnit
  geom : GeomUnit
  trim : TrimUnit
  fade : FadeUnit
  /-- The ray engines, by group. -/
  eng : AMap Engine
  codec : CodecUnit
  /-- Ring ports 0 to 255. -/
  ring : AMap Ring
  /-- Ring groups. -/
  bgrp : AMap Bgrp
  diag : DiagUnit
  /-- Modules cabled to the rings, by ring * 256 + place along the ring. Reset: none attached (log 21). -/
  modu : AMap Modu
  ens : Ensign
  hbm : HbmUnit
  bar2 : Bar2
  host : HostUnit
  store : StoreUnit
  /-- ROM recovery. -/
  recov : Recovery
  cpm : Cpm
  last : Lasting
  net : NetUnit
  /-- The camera pipelines. -/
  cam : AMap Cam
  /-- Pulses on CTRIG0 to CTRIG3: pin, start and end in ns, active level (R510); newest first. Reset: none. -/
  camPulses : List (Nat × Rat × Rat × Bool)
  /-- The audio ports. -/
  aud : AMap Aud
  /-- The blitter. -/
  blit : BlitUnit
  therm : Therm
  cal : CalUnit
  pins : Pins
  /-- CAL.STAT.first_done: the first calibration pass since PORST_N has completed, so the delay taps are calibrated (R96, R591). Reset:
  0. -/
  calDone : Bool
deriving DecidableEq, Repr

/-- The machine right after reset: PORST_N has risen, AON is in RUN and every other island in RESET (R43). -/
def State.reset : State :=
  {
    pending := []
    free := 4
    part := .af256x24
    extTemp := false
    regs := []
    inForce := []
    evPend := []
    evRaw := []
    captures := []
    lastRead := 0
    lastReadHi := 0
    isl := []
    pwrQueue := []
    weirs := []
    commits := []
    unnoticed := []
    msix := .initial
    netMode4 := true
    mem := []
    ecc := []
    time := .initial
    trackers := []
    slots := []
    gpio := []
    tgen := []
    shutPulses := []
    layr := .initial
    scal := .initial
    geom := .initial
    trim := .initial
    fade := .initial
    eng := []
    codec := .initial
    ring := []
    bgrp := []
    diag := .initial
    modu := []
    ens := .initial
    hbm := .initial
    bar2 := ⟨[], false, false⟩
    host := .initial
    store := .initial
    recov := .initial
    cpm := .initial
    last := .initial
    net := .initial
    cam := []
    camPulses := []
    aud := []
    blit := ⟨none, 0, 0⟩
    therm := .initial
    cal := .initial
    pins := ⟨true, false, false, false⟩
    calDone := false
  }

end Sys2Proof.Machine
end

