-- ==== Sys2Proof/Machine/RegTable.lean ====
section
/-!
DEFINITION. The register table: for every page kind, each register's offset, its repeats, which of its bits
each access code of R14 covers, and its Reset value (R15), as the register and field tables of spec/ give them.
Registers the spec computes from other state (read-only status words) stand here with their Reset value and are
read through Machine/HostRead.lean.
-/
namespace Sys2Proof.Machine

/-- One row of a register list: `off + i*s1 + j*s2` for `i < c1`, `j < c2`; the masks of the RW, RWS and W1C bits
(every other bit is RO, WO or reserved); the Reset value. -/
structure RegRow where
  off : Nat
  c1 : Nat
  s1 : Nat
  c2 : Nat
  s2 : Nat
  rw : Nat
  rws : Nat
  w1c : Nat
  reset : Nat
deriving DecidableEq, Repr

/-- The page header (R39). -/
def rowsHdr : List RegRow :=
  [ ⟨0x0, 1, 0, 1, 0, 0x0, 0x0, 0x0, 0x0⟩, -- PID
    ⟨0x4, 1, 0, 1, 0, 0x0, 0x0, 0x0, 0x0⟩, -- PCAP
    ⟨0x8, 1, 0, 1, 0, 0x0, 0x0, 0x0, 0x0⟩, -- PISL
    ⟨0xc, 1, 0, 1, 0, 0x0, 0x0, 0x0, 0x0⟩, -- PSTATE
    ⟨0x10, 1, 0, 1, 0, 0x100, 0x0, 0x0, 0x0⟩, -- PCTRL
    ⟨0x20, 1, 0, 1, 0, 0x0, 0x0, 0x0, 0x0⟩, -- EV_RAW
    ⟨0x24, 1, 0, 1, 0, 0xffffffff, 0x0, 0x0, 0x0⟩, -- EV_EN
    ⟨0x28, 1, 0, 1, 0, 0x0, 0x0, 0xffffffff, 0x0⟩, -- EV_PEND
    ⟨0x30, 1, 0, 1, 0, 0x0, 0x0, 0x0, 0x0⟩, -- EV_SET
    ⟨0x40, 1, 0, 1, 0, 0xffff0f0c, 0x0, 0x0, 0x0⟩, -- CMT_CTRL
    ⟨0x44, 1, 0, 1, 0, 0x0, 0x0, 0x0, 0x0⟩, -- CMT_STAT
    ⟨0x48, 1, 0, 1, 0, 0x3fffffff, 0x0, 0x0, 0x0⟩, -- CMT_TIME_LO
    ⟨0x4c, 1, 0, 1, 0, 0xffffffff, 0x0, 0x0, 0x0⟩, -- CMT_TIME_HI
    ⟨0x50, 1, 0, 1, 0, 0x0, 0x0, 0x0, 0x0⟩, -- CMT_SEQ
    ⟨0x54, 1, 0, 1, 0, 0x0, 0x0, 0x0, 0x0⟩, -- CMT_FRAME
    ⟨0x60, 1, 0, 1, 0, 0x0, 0x0, 0x0, 0x0⟩ ] -- IMG_VER

/-- GLB (R51). -/
def rowsGlb : List RegRow :=
  [ ⟨0x100, 1, 0, 1, 0, 0x0, 0x0, 0x0, 0x0⟩, -- SUM_LO
    ⟨0x104, 1, 0, 1, 0, 0x0, 0x0, 0x0, 0x0⟩, -- SUM_HI
    ⟨0x108, 1, 0, 1, 0, 0x0, 0x0, 0x0, 0x0⟩, -- VEC_IN_LO
    ⟨0x10c, 1, 0, 1, 0, 0x0, 0x0, 0x0, 0x0⟩, -- VEC_IN_HI
    ⟨0x110, 1, 0, 1, 0, 0x0, 0x0, 0x0, 0x0⟩, -- EOI
    ⟨0x114, 1, 0, 1, 0, 0xffff, 0x0, 0x0, 0x0⟩, -- CMT_HOLD
    ⟨0x118, 1, 0, 1, 0, 0x0, 0x0, 0x0, 0x0⟩, -- FLUSH
    ⟨0x140, 16, 4, 1, 0, 0x0, 0x0, 0x0, 0x0⟩, -- GSUM
    ⟨0x200, 64, 4, 1, 0, 0x13f, 0x0, 0x0, 0x0⟩ ] -- VEC_MAP

/-- ISL (R88). -/
def rowsIsl : List RegRow :=
  [ ⟨0x100, 44, 4, 1, 0, 0x0, 0x0, 0x0, 0x0⟩, -- ISTAT
    ⟨0x200, 1, 0, 1, 0, 0x0, 0x0, 0xffffffff, 0x0⟩, -- DOWN_LO
    ⟨0x204, 1, 0, 1, 0, 0x0, 0x0, 0xffffffff, 0x0⟩, -- DOWN_HI
    ⟨0x208, 1, 0, 1, 0, 0x0, 0x0, 0x0, 0x0⟩, -- DEAD_LO
    ⟨0x20c, 1, 0, 1, 0, 0x0, 0x0, 0x0, 0x0⟩, -- DEAD_HI
    ⟨0x210, 1, 0, 1, 0, 0x0, 0x0, 0x0, 0x0⟩, -- PWR_SEQ
    ⟨0x214, 1, 0, 1, 0, 0x0, 0x0, 0xffffffff, 0x0⟩, -- REFUSED_LO
    ⟨0x218, 1, 0, 1, 0, 0x0, 0x0, 0xffffffff, 0x0⟩ ] -- REFUSED_HI

/-- CPM (R577). -/
def rowsCpm : List RegRow :=
  [ ⟨0x100, 1, 0, 1, 0, 0x0, 0x0, 0x0, 0x0⟩, -- MB_CTRL
    ⟨0x104, 1, 0, 1, 0, 0x0, 0x0, 0x0, 0x0⟩, -- MB_STAT
    ⟨0x108, 1, 0, 1, 0, 0xffff, 0x0, 0x0, 0x2710⟩, -- MB_TMO
    ⟨0x10c, 1, 0, 1, 0, 0x0, 0x0, 0x0, 0x0⟩, -- CP_STAT
    ⟨0x110, 1, 0, 1, 0, 0x0, 0x0, 0x0, 0x0⟩, -- HO_INFO
    ⟨0x114, 1, 0, 1, 0, 0x0, 0x0, 0x0, 0x0⟩, -- CAMP_STAT
    ⟨0x140, 23, 4, 1, 0, 0x0, 0x0, 0x0, 0x1⟩, -- HLP_STAT
    ⟨0x1c0, 23, 4, 1, 0, 0x0, 0x0, 0x0, 0x0⟩, -- HLP_VER
    ⟨0x400, 64, 4, 1, 0, 0xffffffff, 0x0, 0x0, 0x0⟩, -- MB_REQ
    ⟨0x500, 64, 4, 1, 0, 0x0, 0x0, 0x0, 0x0⟩ ] -- MB_RSP

/-- SEC (R578). -/
def rowsSec : List RegRow :=
  [ ⟨0x100, 1, 0, 1, 0, 0x0, 0x0, 0x0, 0x0⟩, -- KEY_STAT
    ⟨0x104, 1, 0, 1, 0, 0x0, 0x0, 0x0, 0x0⟩, -- MIN_SVN
    ⟨0x108, 1, 0, 1, 0, 0x0, 0x0, 0x0, 0x0⟩, -- DEBUG
    ⟨0x10c, 1, 0, 1, 0, 0x0, 0x0, 0x0, 0x0⟩, -- POLICY_SEQ
    ⟨0x110, 4, 4, 1, 0, 0x0, 0x0, 0x0, 0x0⟩, -- NONCE
    ⟨0x120, 1, 0, 1, 0, 0x0, 0x0, 0x0, 0x0⟩, -- DEV_ID_LO
    ⟨0x124, 1, 0, 1, 0, 0x0, 0x0, 0x0, 0x0⟩ ] -- DEV_ID_HI

/-- TIME (R119). -/
def rowsTime1 : List RegRow :=
  [ ⟨0x100, 1, 0, 1, 0, 0x0, 0x0, 0x0, 0x0⟩, -- NOW_NS
    ⟨0x104, 1, 0, 1, 0, 0x0, 0x0, 0x0, 0x0⟩, -- NOW_SEC_LO
    ⟨0x108, 1, 0, 1, 0, 0x0, 0x0, 0x0, 0x0⟩, -- NOW_SEC_HI
    ⟨0x10c, 1, 0, 1, 0, 0x0, 0x0, 0x0, 0x0⟩, -- NOW_FRAC
    ⟨0x110, 1, 0, 1, 0, 0x3fffffff, 0x0, 0x0, 0x0⟩, -- SET_NS
    ⟨0x114, 1, 0, 1, 0, 0xffffffff, 0x0, 0x0, 0x0⟩, -- SET_SEC_LO
    ⟨0x118, 1, 0, 1, 0, 0xffff, 0x0, 0x0, 0x0⟩, -- SET_SEC_HI
    ⟨0x11c, 1, 0, 1, 0, 0x0, 0x0, 0x0, 0x0⟩, -- TCTRL
    ⟨0x120, 1, 0, 1, 0, 0xffffffff, 0x0, 0x0, 0x0⟩, -- ADJ_OFFSET
    ⟨0x124, 1, 0, 1, 0, 0x0, 0x0, 0x0, 0x0⟩, -- UTC_OFF
    ⟨0x130, 1, 0, 1, 0, 0x0, 0x37, 0x0, 0x10⟩, -- SRV_CTRL
    ⟨0x134, 1, 0, 1, 0, 0x0, 0xffff, 0x0, 0x8000⟩, -- SRV_KP
    ⟨0x138, 1, 0, 1, 0, 0x0, 0xffff, 0x0, 0x1000⟩, -- SRV_KI
    ⟨0x13c, 1, 0, 1, 0, 0x0, 0xffffffff, 0x0, 0x2710⟩, -- SRV_STEP_THR
    ⟨0x140, 1, 0, 1, 0, 0x0, 0xfffff, 0x0, 0x64⟩, -- SRV_LOCK_THR
    ⟨0x144, 1, 0, 1, 0, 0x0, 0xfffff, 0x0, 0x3e8⟩, -- SRV_UNLOCK_THR
    ⟨0x148, 1, 0, 1, 0, 0x0, 0xfffff, 0x0, 0x1f4⟩, -- SRV_SLEW
    ⟨0x14c, 1, 0, 1, 0, 0x0, 0xfffff, 0x0, 0x186a0⟩, -- SRV_FMAX
    ⟨0x150, 1, 0, 1, 0, 0x0, 0xffff, 0x0, 0x7d0⟩, -- SRV_HOLD
    ⟨0x160, 1, 0, 1, 0, 0x0, 0x0, 0x0, 0x0⟩, -- SRV_STAT
    ⟨0x164, 1, 0, 1, 0, 0x0, 0x0, 0x0, 0x0⟩, -- SRV_OFFSET
    ⟨0x168, 1, 0, 1, 0, 0x0, 0x0, 0x0, 0x0⟩, -- SRV_FREQ
    ⟨0x170, 1, 0, 1, 0, 0x0, 0x7fffff, 0x0, 0x0⟩, -- PTP_CTRL
    ⟨0x174, 1, 0, 1, 0, 0x0, 0xffffffff, 0x0, 0x0⟩, -- PTP_ASYM
    ⟨0x178, 1, 0, 1, 0, 0x0, 0xffff, 0x0, 0x3000⟩, -- PTP_RATES
    ⟨0x180, 1, 0, 1, 0, 0x0, 0x0, 0x0, 0x0⟩, -- PTP_STAT
    ⟨0x184, 1, 0, 1, 0, 0x0, 0x0, 0x0, 0x0⟩, -- PTP_MPD
    ⟨0x188, 1, 0, 1, 0, 0x0, 0x0, 0x0, 0x0⟩, -- GM_ID_LO
    ⟨0x18c, 1, 0, 1, 0, 0x0, 0x0, 0x0, 0x0⟩, -- GM_ID_HI
    ⟨0x1a0, 1, 0, 1, 0, 0x0, 0x0, 0xffffffff, 0x0⟩ ] -- SLOT_PEND_LO

/-- TIME (R119). -/
def rowsTime2 : List RegRow :=
  [ ⟨0x1a4, 1, 0, 1, 0, 0x0, 0x0, 0xffffffff, 0x0⟩, -- SLOT_PEND_HI
    ⟨0x1a8, 1, 0, 1, 0, 0xffffffff, 0x0, 0x0, 0x0⟩, -- SLOT_IE_LO
    ⟨0x1ac, 1, 0, 1, 0, 0xffffffff, 0x0, 0x0, 0x0⟩, -- SLOT_IE_HI
    ⟨0x400, 64, 16, 1, 0, 0x3fffffff, 0x0, 0x0, 0x0⟩, -- SLOT_NS
    ⟨0x404, 64, 16, 1, 0, 0xffffffff, 0x0, 0x0, 0x0⟩, -- SLOT_SEC
    ⟨0x408, 64, 16, 1, 0, 0xffffffff, 0x0, 0x0, 0x0⟩, -- SLOT_PERIOD
    ⟨0x40c, 64, 16, 1, 0, 0xff0f1c, 0x0, 0x0, 0x0⟩ ] -- SLOT_CTRL

/-- TIME, the whole list. -/
def rowsTime : List RegRow :=
  rowsTime1 ++ rowsTime2

/-- SYNC (R122). -/
def rowsSync : List RegRow :=
  [ ⟨0x100, 3, 64, 1, 0, 0x0, 0x1ffff03, 0x0, 0x240200⟩, -- CFG
    ⟨0x104, 3, 64, 1, 0, 0x0, 0xffffffff, 0x0, 0x0⟩, -- NOMINAL
    ⟨0x108, 3, 64, 1, 0, 0x0, 0xfffff, 0x0, 0x7d0⟩, -- WINDOW
    ⟨0x10c, 3, 64, 1, 0, 0x0, 0xffff, 0x0, 0x32⟩, -- TOL
    ⟨0x110, 3, 64, 1, 0, 0x0, 0xffff, 0x0, 0x64⟩, -- SLEW
    ⟨0x114, 3, 64, 1, 0, 0x0, 0x0, 0x0, 0x0⟩, -- STAT
    ⟨0x118, 3, 64, 1, 0, 0x0, 0x0, 0x0, 0x0⟩, -- PERIOD_NS
    ⟨0x11c, 3, 64, 1, 0, 0x0, 0x0, 0x0, 0x0⟩, -- PERIOD_FRAC
    ⟨0x120, 3, 64, 1, 0, 0x0, 0x0, 0x0, 0x0⟩, -- EDGE_NS
    ⟨0x124, 3, 64, 1, 0, 0x0, 0x0, 0x0, 0x0⟩, -- EDGE_SEC
    ⟨0x128, 3, 64, 1, 0, 0x0, 0x0, 0x0, 0x0⟩, -- EDGE_FRAC
    ⟨0x12c, 3, 64, 1, 0, 0x0, 0x0, 0x0, 0x0⟩, -- PHASE_ERR
    ⟨0x1c0, 1, 0, 1, 0, 0x8003ffff, 0x0, 0x0, 0x0⟩ ] -- SDN

/-- TGEN (R147). -/
def rowsTgen : List RegRow :=
  [ ⟨0x100, 1, 0, 1, 0, 0x0, 0x337f, 0x0, 0xa⟩, -- MODE
    ⟨0x104, 1, 0, 1, 0, 0x0, 0x3ffffff, 0x0, 0xfe502a⟩, -- PERIOD_NS
    ⟨0x108, 1, 0, 1, 0, 0x0, 0xffff, 0x0, 0xaaab⟩, -- PERIOD_FRAC
    ⟨0x10c, 1, 0, 1, 0, 0x0, 0x3ffffff, 0x0, 0x0⟩, -- LATCH_OFS
    ⟨0x110, 1, 0, 1, 0, 0x0, 0x7ff, 0x0, 0xc8⟩, -- STILL
    ⟨0x114, 1, 0, 1, 0, 0x0, 0x3ff, 0x0, 0x32⟩, -- CLOSE_LEAD
    ⟨0x118, 1, 0, 1, 0, 0x0, 0x1ffff, 0x0, 0x3e8⟩, -- GEN_SLEW
    ⟨0x124, 3, 4, 1, 0, 0x0, 0x3ffffff, 0x0, 0x0⟩, -- PHASE_OFS
    ⟨0x130, 1, 0, 1, 0, 0x0, 0xf, 0x0, 0x0⟩, -- SHUT_CLAIM
    ⟨0x140, 4, 16, 1, 0, 0x0, 0x10f, 0x0, 0x0⟩, -- SHUT_CFG
    ⟨0x144, 4, 16, 1, 0, 0x0, 0xffffffff, 0x0, 0x0⟩, -- SHUT_DLY
    ⟨0x148, 4, 16, 1, 0, 0x0, 0xffffff, 0x0, 0xf4240⟩, -- SHUT_WID
    ⟨0x180, 1, 0, 1, 0, 0x13, 0x0, 0x0, 0x0⟩, -- GEN_CTRL
    ⟨0x184, 1, 0, 1, 0, 0x3fffffff, 0x0, 0x0, 0x0⟩, -- GEN_TIME_LO
    ⟨0x188, 1, 0, 1, 0, 0xffffffff, 0x0, 0x0, 0x0⟩, -- GEN_TIME_HI
    ⟨0x190, 1, 0, 1, 0, 0x0, 0x0, 0x0, 0x0⟩, -- STAT
    ⟨0x194, 1, 0, 1, 0, 0x0, 0x0, 0x0, 0x0⟩, -- LATCH_FRAME
    ⟨0x198, 1, 0, 1, 0, 0x0, 0x0, 0x0, 0x0⟩, -- LATCH_NS
    ⟨0x19c, 1, 0, 1, 0, 0x0, 0x0, 0x0, 0x0⟩, -- LATCH_SEC
    ⟨0x1a0, 1, 0, 1, 0, 0x0, 0x0, 0x0, 0x0⟩, -- LATCH_FRAC
    ⟨0x1a4, 1, 0, 1, 0, 0x0, 0x0, 0x0, 0x0⟩, -- NEXT_NS
    ⟨0x1a8, 1, 0, 1, 0, 0x0, 0x0, 0x0, 0x0⟩, -- NEXT_SEC
    ⟨0x1ac, 1, 0, 1, 0, 0x0, 0x0, 0x0, 0x0⟩, -- PERIOD_NOW_NS
    ⟨0x1b0, 1, 0, 1, 0, 0x0, 0x0, 0x0, 0x0⟩, -- PERIOD_NOW_FRAC
    ⟨0x1b4, 1, 0, 1, 0, 0x0, 0x0, 0x0, 0x0⟩ ] -- PHASE_ERR

/-- LAYR (R178). -/
def rowsLayr : List RegRow :=
  [ ⟨0x100, 1, 0, 1, 0, 0xf, 0x0, 0x0, 0x0⟩, -- BANK_SEL
    ⟨0x104, 1, 0, 1, 0, 0xffffffff, 0x0, 0x0, 0x0⟩, -- BUF_TBL_BASE_LO
    ⟨0x108, 1, 0, 1, 0, 0x80000007, 0x0, 0x0, 0x0⟩, -- BUF_TBL_BASE_HI
    ⟨0x10c, 1, 0, 1, 0, 0xffffffff, 0x0, 0x0, 0x0⟩, -- LAYER_TBL_BASE_LO
    ⟨0x110, 1, 0, 1, 0, 0x80000007, 0x0, 0x0, 0x0⟩, -- LAYER_TBL_BASE_HI
    ⟨0x120, 1, 0, 1, 0, 0x0, 0x0, 0x0, 0x0⟩, -- BUF_CMD
    ⟨0x124, 1, 0, 1, 0, 0xffffffff, 0x0, 0x0, 0x0⟩, -- BUF_ARG
    ⟨0x128, 1, 0, 1, 0, 0x0, 0x0, 0x0, 0x0⟩, -- BUF_CMD_STAT
    ⟨0x130, 1, 0, 1, 0, 0x3fff, 0x0, 0x0, 0x0⟩, -- BUF_QUERY
    ⟨0x134, 1, 0, 1, 0, 0x0, 0x0, 0x0, 0x0⟩, -- BUF_STATE
    ⟨0x138, 1, 0, 1, 0, 0x0, 0x0, 0x0, 0x0⟩, -- BUF_HOLD
    ⟨0x13c, 1, 0, 1, 0, 0x0, 0x0, 0x0, 0x0⟩, -- BUF_SEQ
    ⟨0x140, 1, 0, 1, 0, 0x733f, 0x0, 0x0, 0x0⟩, -- LUT_CTRL
    ⟨0x144, 1, 0, 1, 0, 0x7ff, 0x0, 0x0, 0x0⟩, -- LUT_ADDR
    ⟨0x148, 1, 0, 1, 0, 0xfffff, 0x0, 0x0, 0x0⟩, -- LUT_DATA
    ⟨0x14c, 1, 0, 1, 0, 0x0, 0x0, 0x0, 0x0⟩, -- LUT_STAT
    ⟨0x160, 1, 0, 1, 0, 0x0, 0x0, 0x0, 0x0⟩, -- REJ_REASON
    ⟨0x164, 1, 0, 1, 0, 0x0, 0x0, 0x0, 0x0⟩, -- ACTIVE_CNT
    ⟨0x400, 4, 64, 16, 4, 0x0, 0xfff0fff, 0x0, 0x0⟩, -- STACK
    ⟨0x500, 1, 0, 1, 0, 0x0, 0x3f3f3f3f, 0x0, 0x0⟩, -- STACK_CNT
    ⟨0x800, 16, 16, 4, 4, 0x0, 0x0, 0x0, 0x0⟩ ] -- NR

/-- GEOM (R205). -/
def rowsGeom : List RegRow :=
  [ ⟨0x100, 1, 0, 1, 0, 0xf, 0x0, 0x0, 0x0⟩, -- BANK_SEL
    ⟨0x104, 1, 0, 1, 0, 0x0, 0xffffffff, 0x0, 0x0⟩, -- CTX_LIST_LO
    ⟨0x108, 1, 0, 1, 0, 0x0, 0x80000007, 0x0, 0x0⟩, -- CTX_LIST_HI
    ⟨0x10c, 1, 0, 1, 0, 0x0, 0xff, 0x0, 0x0⟩, -- CTX_LIST_CNT
    ⟨0x110, 1, 0, 1, 0, 0x0, 0x0, 0x0, 0x0⟩, -- REJ_REASON
    ⟨0x120, 1, 0, 1, 0, 0xffff, 0x0, 0x0, 0x0⟩, -- CTX_SEL
    ⟨0x140, 16, 4, 1, 0, 0xffffffff, 0x0, 0x0, 0x0⟩, -- CTX_DATA
    ⟨0x180, 1, 0, 1, 0, 0x3f, 0x0, 0x0, 0x0⟩, -- TYPE_SEL
    ⟨0x184, 1, 0, 1, 0, 0x80ffffff, 0x0, 0x0, 0x0⟩, -- TYPE_CFG
    ⟨0x188, 1, 0, 1, 0, 0x0, 0x0, 0x0, 0x0⟩, -- TYPE_REFS
    ⟨0x18c, 1, 0, 1, 0, 0xff, 0x0, 0x0, 0x0⟩, -- VIEW_ADDR
    ⟨0x190, 1, 0, 1, 0, 0xffffffff, 0x0, 0x0, 0x0⟩, -- VIEW_XY
    ⟨0x194, 1, 0, 1, 0, 0xffff, 0x0, 0x0, 0x0⟩ ] -- VIEW_Z

/-- RENG (R238). -/
def rowsReng1 : List RegRow :=
  [ ⟨0x100, 1, 0, 1, 0, 0x0, 0x3f, 0x0, 0x4⟩, -- DEPTH
    ⟨0x104, 1, 0, 1, 0, 0x0, 0xffff, 0x0, 0x100⟩, -- T_STOP
    ⟨0x108, 1, 0, 1, 0, 0x0, 0x3, 0x0, 0x3⟩, -- CTRL
    ⟨0x10c, 1, 0, 1, 0, 0x0, 0x1, 0x0, 0x0⟩, -- OLUT_SEL
    ⟨0x110, 4, 16, 1, 0, 0x0, 0xfffff, 0x0, 0x0⟩, -- BG_R
    ⟨0x114, 4, 16, 1, 0, 0x0, 0xfffff, 0x0, 0x0⟩, -- BG_G
    ⟨0x118, 4, 16, 1, 0, 0x0, 0xfffff, 0x0, 0x0⟩, -- BG_B
    ⟨0x150, 1, 0, 1, 0, 0x0, 0x0, 0x0, 0x2004⟩, -- DCAP_NOW
    ⟨0x154, 1, 0, 1, 0, 0x0, 0x0, 0x0, 0x0⟩, -- STAT
    ⟨0x158, 1, 0, 1, 0, 0x0, 0x0, 0x0, 0x0⟩, -- DONE_FRAME
    ⟨0x15c, 1, 0, 1, 0, 0x0, 0x0, 0x0, 0x0⟩, -- REJ_REASON
    ⟨0x160, 1, 0, 1, 0, 0x7, 0x0, 0x0, 0x0⟩, -- OLUT_CTRL
    ⟨0x164, 1, 0, 1, 0, 0x1fff, 0x0, 0x0, 0x0⟩, -- OLUT_ADDR
    ⟨0x168, 1, 0, 1, 0, 0xfffff, 0x0, 0x0, 0x0⟩, -- OLUT_DATA
    ⟨0x16c, 1, 0, 1, 0, 0x0, 0x0, 0x0, 0x0⟩, -- OLUT_STAT
    ⟨0x170, 1, 0, 1, 0, 0x3, 0x0, 0x0, 0x0⟩, -- KERN_SEL
    ⟨0x174, 1, 0, 1, 0, 0xff, 0x0, 0x0, 0x0⟩, -- KERN_ADDR
    ⟨0x178, 1, 0, 1, 0, 0xffff, 0x0, 0x0, 0x0⟩, -- KERN_DATA
    ⟨0x180, 1, 0, 1, 0, 0x0, 0xffff0007, 0x0, 0x0⟩, -- WB_CTRL
    ⟨0x184, 1, 0, 1, 0, 0x0, 0xffffffff, 0x0, 0x0⟩, -- WB_BASE_LO
    ⟨0x188, 1, 0, 1, 0, 0x0, 0x7, 0x0, 0x0⟩, -- WB_BASE_HI
    ⟨0x18c, 1, 0, 1, 0, 0x0, 0x3fffffff, 0x0, 0x0⟩, -- WB_TRIM_LO
    ⟨0x190, 1, 0, 1, 0, 0x0, 0x7fffffff, 0x0, 0x0⟩, -- WB_COUNT
    ⟨0x1a0, 4, 4, 1, 0, 0x0, 0x0, 0x0, 0x0⟩, -- FAULT_MAP
    ⟨0x200, 64, 16, 1, 0, 0x0, 0xffff0f3f, 0x0, 0x0⟩, -- SIG_CFG
    ⟨0x204, 64, 16, 1, 0, 0x0, 0xffffffff, 0x0, 0x0⟩, -- SIG_EXP
    ⟨0x208, 64, 16, 1, 0, 0x0, 0x0, 0x0, 0x0⟩, -- SIG_CRC
    ⟨0x600, 1, 0, 1, 0, 0x0, 0x0, 0xffffffff, 0x0⟩, -- SIG_TRIP_LO
    ⟨0x604, 1, 0, 1, 0, 0x0, 0x0, 0xffffffff, 0x0⟩, -- SIG_TRIP_HI
    ⟨0x608, 1, 0, 1, 0, 0x0, 0x0, 0x0, 0x0⟩ ] -- SIG_MIS_LO

/-- RENG (R238). -/
def rowsReng2 : List RegRow :=
  [ ⟨0x60c, 1, 0, 1, 0, 0x0, 0x0, 0x0, 0x0⟩ ] -- SIG_MIS_HI

/-- RENG, the whole list. -/
def rowsReng : List RegRow :=
  rowsReng1 ++ rowsReng2

/-- SCAL (R262). -/
def rowsScal : List RegRow :=
  [ ⟨0x100, 1, 0, 1, 0, 0x1, 0x0, 0x0, 0x1⟩, -- CTRL
    ⟨0x104, 1, 0, 1, 0, 0x0, 0x0, 0x0, 0x0⟩, -- STAT
    ⟨0x108, 1, 0, 1, 0, 0x0, 0x0, 0x0, 0x0⟩, -- JOB_CMD
    ⟨0x10c, 1, 0, 1, 0, 0x0, 0x0, 0x0, 0x0⟩, -- JOB_CUR
    ⟨0x110, 1, 0, 1, 0, 0x0, 0x0, 0x0, 0x0⟩, -- JOB_PROG
    ⟨0x114, 1, 0, 1, 0, 0x0, 0x0, 0x0, 0x0⟩, -- JOB_TAPS
    ⟨0x118, 1, 0, 1, 0, 0x0, 0x0, 0x0, 0x0⟩, -- FAIL_INFO
    ⟨0x120, 1, 0, 1, 0, 0xfff, 0x0, 0x0, 0x0⟩, -- PMAP_ADDR
    ⟨0x124, 1, 0, 1, 0, 0x3f, 0x0, 0x0, 0x0⟩, -- PMAP_DATA
    ⟨0x130, 1, 0, 1, 0, 0x7, 0x0, 0x0, 0x0⟩, -- COEF_SEL
    ⟨0x134, 1, 0, 1, 0, 0x1ff, 0x0, 0x0, 0x0⟩, -- COEF_ADDR
    ⟨0x138, 1, 0, 1, 0, 0xffff, 0x0, 0x0, 0x0⟩, -- COEF_DATA
    ⟨0x13c, 1, 0, 1, 0, 0x0, 0x0, 0x0, 0x1⟩, -- COEF_BUSY
    ⟨0x140, 1, 0, 1, 0, 0x0, 0x0, 0x0, 0x0⟩, -- REJ_REASON
    ⟨0x200, 64, 4, 1, 0, 0x0, 0x77ff7, 0x0, 0x880⟩ ] -- PROF

/-- CODEC (R292). -/
def rowsCodec : List RegRow :=
  [ ⟨0x100, 1, 0, 1, 0, 0x1, 0x0, 0x0, 0x1⟩, -- CTRL
    ⟨0x104, 1, 0, 1, 0, 0x0, 0x0, 0x0, 0x0⟩, -- STAT
    ⟨0x108, 1, 0, 1, 0, 0xffffffff, 0x0, 0x0, 0x0⟩, -- Q_BASE_LO
    ⟨0x10c, 1, 0, 1, 0, 0x80000007, 0x0, 0x0, 0x0⟩, -- Q_BASE_HI
    ⟨0x110, 1, 0, 1, 0, 0x1ff, 0x0, 0x0, 0x0⟩, -- Q_SIZE
    ⟨0x114, 1, 0, 1, 0, 0xff, 0x0, 0x0, 0x0⟩, -- Q_TAIL
    ⟨0x118, 1, 0, 1, 0, 0x0, 0x0, 0x0, 0x0⟩, -- Q_HEAD
    ⟨0x11c, 1, 0, 1, 0, 0x0, 0x0, 0x0, 0x0⟩, -- CUR_BLOCKS
    ⟨0x120, 1, 0, 1, 0, 0x0, 0x0, 0x0, 0x0⟩, -- LAST
    ⟨0x140, 1, 0, 1, 0, 0x0, 0x0, 0x0, 0x0⟩, -- STATE_CMD
    ⟨0x144, 1, 0, 1, 0, 0x0, 0x0, 0x0, 0x0⟩, -- STATE_RESULT
    ⟨0x148, 1, 0, 1, 0, 0x0, 0x0, 0x0, 0x0⟩, -- STATE_HOST_LO
    ⟨0x14c, 1, 0, 1, 0, 0x0, 0x0, 0x0, 0x0⟩, -- STATE_HOST_HI
    ⟨0x150, 1, 0, 1, 0, 0x0, 0x0, 0x0, 0x0⟩, -- STATE_USED_LO
    ⟨0x154, 1, 0, 1, 0, 0x0, 0x0, 0x0, 0x0⟩ ] -- STATE_USED_HI

/-- TRIM (R327). -/
def rowsTrim1 : List RegRow :=
  [ ⟨0x100, 1, 0, 1, 0, 0xf, 0x0, 0x0, 0x0⟩, -- BANK_SEL
    ⟨0x104, 1, 0, 1, 0, 0x0, 0x3, 0x0, 0x3⟩, -- CTRL
    ⟨0x108, 1, 0, 1, 0, 0x0, 0xffffffff, 0x0, 0x0⟩, -- TSET_LO
    ⟨0x10c, 1, 0, 1, 0, 0x0, 0xffffffff, 0x0, 0x0⟩, -- TSET_HI
    ⟨0x110, 1, 0, 1, 0, 0x0, 0x0, 0x0, 0x0⟩, -- REJ_REASON
    ⟨0x120, 1, 0, 1, 0, 0xffffffff, 0x0, 0x0, 0x0⟩, -- TBL_BASE_LO
    ⟨0x124, 1, 0, 1, 0, 0x80000007, 0x0, 0x0, 0x0⟩, -- TBL_BASE_HI
    ⟨0x128, 1, 0, 1, 0, 0x7fffffff, 0x0, 0x0, 0x0⟩, -- TBL_WORDS
    ⟨0x130, 1, 0, 1, 0, 0xffffffff, 0x0, 0x0, 0x0⟩, -- WACC_BASE_LO
    ⟨0x134, 1, 0, 1, 0, 0x7, 0x0, 0x0, 0x0⟩, -- WACC_BASE_HI
    ⟨0x138, 1, 0, 1, 0, 0xffffffff, 0x0, 0x0, 0x0⟩, -- WGAIN_BASE_LO
    ⟨0x13c, 1, 0, 1, 0, 0x7, 0x0, 0x0, 0x0⟩, -- WGAIN_BASE_HI
    ⟨0x140, 1, 0, 1, 0, 0xffffffff, 0x0, 0x0, 0x0⟩, -- WRATE_BASE_LO
    ⟨0x144, 1, 0, 1, 0, 0x7, 0x0, 0x0, 0x0⟩, -- WRATE_BASE_HI
    ⟨0x148, 1, 0, 1, 0, 0x1ffffff, 0x0, 0x0, 0x0⟩, -- WEAR_BLOCKS
    ⟨0x14c, 1, 0, 1, 0, 0xffff3ff3, 0x0, 0x0, 0x0⟩, -- WEAR_CTRL
    ⟨0x150, 1, 0, 1, 0, 0x0, 0x0, 0x0, 0x0⟩, -- WEAR_STAT
    ⟨0x154, 1, 0, 1, 0, 0x0, 0x0, 0x0, 0x0⟩, -- WEAR_HALF
    ⟨0x158, 1, 0, 1, 0, 0x0, 0x0, 0x0, 0x0⟩, -- WEAR_SEC
    ⟨0x15c, 1, 0, 1, 0, 0xffffffff, 0x0, 0x0, 0x0⟩, -- CKPT_LBA_LO
    ⟨0x160, 1, 0, 1, 0, 0x300ffff, 0x0, 0x0, 0x0⟩, -- CKPT_LBA_HI
    ⟨0x170, 1, 0, 1, 0, 0x13f, 0x0, 0x0, 0x0⟩, -- TP_SEL
    ⟨0x174, 1, 0, 1, 0, 0x7f, 0x0, 0x0, 0x0⟩, -- TP_ADDR
    ⟨0x178, 1, 0, 1, 0, 0xffffffff, 0x0, 0x0, 0x0⟩, -- TP_DATA
    ⟨0x17c, 1, 0, 1, 0, 0x0, 0x0, 0x0, 0x1⟩, -- TP_STAT
    ⟨0x180, 1, 0, 1, 0, 0x7, 0x0, 0x0, 0x1⟩, -- UPD_CTRL
    ⟨0x184, 1, 0, 1, 0, 0xffffffff, 0x0, 0x0, 0x0⟩, -- STAGE_BASE_LO
    ⟨0x188, 1, 0, 1, 0, 0x80000007, 0x0, 0x0, 0x0⟩, -- STAGE_BASE_HI
    ⟨0x190, 1, 0, 1, 0, 0xffffffff, 0x0, 0x0, 0x0⟩, -- UPD_SRC_LO
    ⟨0x194, 1, 0, 1, 0, 0x7, 0x0, 0x0, 0x0⟩ ] -- UPD_SRC_HI

/-- TRIM (R327). -/
def rowsTrim2 : List RegRow :=
  [ ⟨0x198, 1, 0, 1, 0, 0xffffffff, 0x0, 0x0, 0x0⟩, -- UPD_SRC_LEN
    ⟨0x19c, 1, 0, 1, 0, 0xffffffff, 0x0, 0x0, 0x0⟩, -- UPD_TARGET_RG
    ⟨0x1a0, 1, 0, 1, 0, 0x1ffffff, 0x0, 0x0, 0x0⟩, -- UPD_TARGET_B
    ⟨0x1a4, 1, 0, 1, 0, 0x3fffffff, 0x0, 0x0, 0x0⟩, -- UPD_TIME_LO
    ⟨0x1a8, 1, 0, 1, 0, 0xffffffff, 0x0, 0x0, 0x0⟩, -- UPD_TIME_HI
    ⟨0x1ac, 1, 0, 1, 0, 0x0, 0x0, 0x0, 0x0⟩, -- UPD_CMD
    ⟨0x1b0, 1, 0, 1, 0, 0x0, 0x0, 0x0, 0x0⟩, -- UPD_INFO
    ⟨0x400, 64, 16, 1, 0, 0x3fffffff, 0x0, 0x0, 0x0⟩, -- RGN_LO
    ⟨0x404, 64, 16, 1, 0, 0x1fffff, 0x0, 0x0, 0x0⟩, -- RGN_CNT
    ⟨0x408, 64, 16, 1, 0, 0xf, 0x0, 0x0, 0x0⟩, -- RGN_CFG
    ⟨0x40c, 64, 16, 1, 0, 0x0, 0x0, 0x0, 0x0⟩, -- RGN_STAT
    ⟨0x800, 64, 4, 1, 0, 0x0, 0x0, 0x0, 0x0⟩ ] -- RGN_FRAME

/-- TRIM, the whole list. -/
def rowsTrim : List RegRow :=
  rowsTrim1 ++ rowsTrim2

/-- FADE (R330). -/
def rowsFade : List RegRow :=
  [ ⟨0x100, 1, 0, 1, 0, 0xf, 0x0, 0x0, 0x0⟩, -- BANK_SEL
    ⟨0x104, 1, 0, 1, 0, 0x0, 0x3fff, 0x0, 0x0⟩, -- GF_TARGET
    ⟨0x108, 1, 0, 1, 0, 0x0, 0xffffffff, 0x0, 0x0⟩, -- GF_DUR
    ⟨0x110, 1, 0, 1, 0, 0x3fff, 0x0, 0x0, 0x0⟩, -- MF_TARGET
    ⟨0x114, 1, 0, 1, 0, 0xffffffff, 0x0, 0x0, 0x0⟩, -- MF_DUR
    ⟨0x118, 1, 0, 1, 0, 0x3fffffff, 0x0, 0x0, 0x0⟩, -- MF_T0_NS
    ⟨0x11c, 1, 0, 1, 0, 0xffffffff, 0x0, 0x0, 0x0⟩, -- MF_T0_SEC
    ⟨0x120, 1, 0, 1, 0, 0x0, 0x0, 0x0, 0x0⟩, -- MF_CMD
    ⟨0x124, 1, 0, 1, 0, 0x0, 0x0, 0x0, 0x0⟩, -- MF_STAT
    ⟨0x200, 16, 4, 1, 0, 0x0, 0x0, 0x0, 0x0⟩ ] -- ATT

/-- BPORT (R354, R392). -/
def rowsBport : List RegRow :=
  [ ⟨0x100, 1, 0, 1, 0, 0x0, 0x0, 0x0, 0x0⟩, -- LINK_CMD
    ⟨0x104, 1, 0, 1, 0, 0xff00ff, 0x0, 0x0, 0x20000c⟩, -- LINK_CFG
    ⟨0x108, 1, 0, 1, 0, 0x0, 0x0, 0x0, 0x0⟩, -- LINK_STAT
    ⟨0x10c, 1, 0, 1, 0, 0x0, 0x0, 0x0, 0x0⟩, -- LOOP_DLY
    ⟨0x110, 1, 0, 1, 0, 0xff, 0x0, 0x0, 0x0⟩, -- CBL_ADDR
    ⟨0x114, 1, 0, 1, 0, 0xffffff, 0x0, 0x0, 0x0⟩, -- CBL_DATA
    ⟨0x118, 1, 0, 1, 0, 0x37ff, 0x0, 0x0, 0x26a⟩, -- TX_CFG
    ⟨0x11c, 1, 0, 1, 0, 0x0, 0x0, 0x0, 0x0⟩, -- TX_STAT
    ⟨0x120, 1, 0, 1, 0, 0xf1, 0x0, 0x0, 0x1⟩, -- RX_CFG
    ⟨0x124, 1, 0, 1, 0, 0x0, 0x0, 0x0, 0x0⟩, -- RX_STAT
    ⟨0x400, 192, 16, 1, 0, 0x0, 0x0, 0x0, 0x0⟩, -- MOD_ID_LO
    ⟨0x404, 192, 16, 1, 0, 0x0, 0x0, 0x0, 0x0⟩, -- MOD_ID_HI
    ⟨0x408, 192, 16, 1, 0, 0x0, 0x0, 0x0, 0x0⟩, -- MOD_INFO
    ⟨0x40c, 192, 16, 1, 0, 0x0, 0x0, 0x0, 0x0⟩, -- MOD_HOP
    ⟨0x200, 1, 0, 1, 0, 0x0, 0xff01, 0x0, 0x0⟩, -- STREAM_CFG
    ⟨0x204, 1, 0, 1, 0, 0x0, 0x0, 0x0, 0x0⟩, -- PEN_LEAD
    ⟨0x208, 1, 0, 1, 0, 0x0, 0x0, 0x0, 0x0⟩, -- LAST_PEN
    ⟨0x20c, 1, 0, 1, 0, 0x0, 0x0, 0x0, 0x0⟩, -- LAST_FRAME
    ⟨0x210, 1, 0, 1, 0, 0x0, 0x0, 0x0, 0x0⟩, -- FRAME_BLOCKS
    ⟨0x214, 1, 0, 1, 0, 0xff, 0x0, 0x0, 0x0⟩, -- RPT_SEL
    ⟨0x218, 1, 0, 1, 0, 0x0, 0x0, 0x0, 0x0⟩, -- RPT_FRAME
    ⟨0x21c, 1, 0, 1, 0, 0x0, 0x0, 0x0, 0x0⟩, -- RPT_FW
    ⟨0x280, 96, 4, 1, 0, 0x0, 0x0, 0x0, 0x0⟩ ] -- MOD_RPT

/-- BGRP (R356, R394). -/
def rowsBgrp : List RegRow :=
  [ ⟨0x100, 1, 0, 1, 0, 0x0, 0x7, 0x0, 0x1⟩, -- REF_CFG
    ⟨0x104, 1, 0, 1, 0, 0x0, 0x0, 0x0, 0x0⟩, -- REF_STAT
    ⟨0x108, 1, 0, 1, 0, 0x3f, 0x0, 0x0, 0x10⟩, -- GAP_CFG
    ⟨0x10c, 1, 0, 1, 0, 0x0, 0x0, 0x0, 0x0⟩, -- RINGS_UP
    ⟨0x110, 1, 0, 1, 0, 0x0, 0x0, 0x0, 0x0⟩, -- GRP_CMD
    ⟨0x114, 1, 0, 1, 0, 0x0, 0x0, 0x0, 0x0⟩, -- REJ_REASON
    ⟨0x200, 1, 0, 1, 0, 0x0, 0x0, 0x0, 0x0⟩, -- WD_CMD
    ⟨0x204, 1, 0, 1, 0, 0x0, 0x0, 0x0, 0x0⟩, -- WD_STAT
    ⟨0x208, 1, 0, 1, 0, 0xffffffff, 0x0, 0x0, 0x0⟩, -- DGST_BASE_LO
    ⟨0x20c, 1, 0, 1, 0, 0x80000007, 0x0, 0x0, 0x0⟩, -- DGST_BASE_HI
    ⟨0x210, 1, 0, 1, 0, 0xffffffff, 0x0, 0x0, 0x0⟩, -- MFW_SRC_LO
    ⟨0x214, 1, 0, 1, 0, 0x7, 0x0, 0x0, 0x0⟩, -- MFW_SRC_HI
    ⟨0x218, 1, 0, 1, 0, 0xfffffff, 0x0, 0x0, 0x0⟩, -- MFW_LEN
    ⟨0x21c, 1, 0, 1, 0, 0xffffff, 0x0, 0x0, 0x0⟩, -- MFW_DEST
    ⟨0x220, 1, 0, 1, 0, 0xffff, 0x0, 0x0, 0x200⟩, -- MFW_CFG
    ⟨0x224, 1, 0, 1, 0, 0x0, 0x0, 0x0, 0x0⟩, -- MFW_CMD
    ⟨0x228, 1, 0, 1, 0, 0xffffffff, 0x0, 0x0, 0x0⟩, -- MFW_ACT_FRAME
    ⟨0x22c, 1, 0, 1, 0, 0x0, 0x0, 0x0, 0x0⟩ ] -- MFW_STAT

/-- DIAG (R407). -/
def rowsDiag : List RegRow :=
  [ ⟨0x100, 1, 0, 1, 0, 0xf, 0x0, 0x0, 0x0⟩, -- BANK_SEL
    ⟨0x104, 1, 0, 1, 0, 0x0, 0x3fffff1, 0x0, 0x141410⟩, -- PRB_CFG
    ⟨0x108, 1, 0, 1, 0, 0x0, 0xffff, 0x0, 0x1000⟩, -- PRB_WINDOW
    ⟨0x10c, 1, 0, 1, 0, 0x0, 0xffffffff, 0x0, 0x4600⟩, -- TEMP_CFG
    ⟨0x110, 1, 0, 1, 0, 0x0, 0x0, 0x0, 0x0⟩, -- REJ_REASON
    ⟨0x120, 1, 0, 1, 0, 0x1, 0x0, 0x0, 0x0⟩, -- CTRL
    ⟨0x124, 1, 0, 1, 0, 0xffffffff, 0x0, 0x0, 0x0⟩, -- FMAP_BASE_LO
    ⟨0x128, 1, 0, 1, 0, 0x80000007, 0x0, 0x0, 0x0⟩, -- FMAP_BASE_HI
    ⟨0x12c, 1, 0, 1, 0, 0x7fffffff, 0x0, 0x0, 0x0⟩, -- FMAP_LEN
    ⟨0x130, 1, 0, 1, 0, 0x0, 0x0, 0x0, 0x0⟩, -- FMAP_CMD
    ⟨0x134, 1, 0, 1, 0, 0x3fffffff, 0x0, 0x0, 0x0⟩, -- FMAP_IDX
    ⟨0x138, 1, 0, 1, 0, 0x1ffff, 0x0, 0x0, 0x1⟩, -- FMAP_CNT
    ⟨0x13c, 1, 0, 1, 0, 0x0, 0x0, 0x0, 0x0⟩, -- FMAP_STAT
    ⟨0x200, 16, 4, 1, 0, 0x0, 0x0, 0x0, 0x0⟩, -- PRB_STAT
    ⟨0x240, 16, 4, 1, 0, 0x0, 0x0, 0x0, 0x8000⟩, -- TEMP_MAX
    ⟨0x280, 16, 4, 1, 0, 0x0, 0x0, 0x0, 0x0⟩, -- HOT_RINGS
    ⟨0x2c0, 16, 4, 1, 0, 0x0, 0x0, 0x0, 0x0⟩, -- STALE_RINGS
    ⟨0x400, 64, 4, 1, 0, 0xffff, 0x0, 0x0, 0x0⟩ ] -- TYPE_MINPW

/-- HBM (R440). -/
def rowsHbm : List RegRow :=
  [ ⟨0x100, 1, 0, 1, 0, 0x0, 0xffff1fff, 0x0, 0x53551868⟩, -- CFG
    ⟨0x104, 1, 0, 1, 0, 0x1, 0x0, 0x0, 0x1⟩, -- PWR_CFG
    ⟨0x108, 1, 0, 1, 0, 0x0, 0x0, 0x0, 0x0⟩, -- STAT
    ⟨0x10c, 1, 0, 1, 0, 0x0, 0x0, 0x0, 0x0⟩, -- TEMP
    ⟨0x110, 1, 0, 1, 0, 0x0, 0x0, 0x0, 0x0⟩, -- TRAIN_STAT
    ⟨0x114, 1, 0, 1, 0, 0x0, 0xffff, 0x0, 0x400⟩, -- SCRUB_CFG
    ⟨0x118, 1, 0, 1, 0, 0x0, 0x0, 0x0, 0x0⟩, -- SCRUB_POS
    ⟨0x11c, 1, 0, 1, 0, 0x0, 0x0, 0x0, 0x0⟩, -- REJ_REASON
    ⟨0x120, 1, 0, 1, 0, 0xffffffff, 0x0, 0x0, 0x0⟩, -- INJ_ADDR_LO
    ⟨0x124, 1, 0, 1, 0, 0x7, 0x0, 0x0, 0x0⟩, -- INJ_ADDR_HI
    ⟨0x128, 1, 0, 1, 0, 0x3, 0x0, 0x0, 0x0⟩ ] -- INJ_CTRL

/-- HBMPC (R444). -/
def rowsHbmpc : List RegRow :=
  [ ⟨0x100, 1, 0, 1, 0, 0x0, 0xff03, 0x0, 0x800⟩, -- PAGE_CFG
    ⟨0x104, 1, 0, 1, 0, 0x0, 0x0, 0x0, 0x0⟩, -- QSTAT
    ⟨0x108, 1, 0, 1, 0, 0x0, 0x0, 0x0, 0x0⟩, -- REF_STAT
    ⟨0x10c, 1, 0, 1, 0, 0x0, 0x0, 0x0, 0x0⟩ ] -- LANE_STAT

/-- FAB (R437). -/
def rowsFab : List RegRow :=
  [ ⟨0x100, 1, 0, 1, 0, 0x0, 0x3fffff, 0x0, 0x202020⟩, -- ARB_CFG
    ⟨0x104, 1, 0, 1, 0, 0x0, 0xffff, 0x0, 0x3e8⟩, -- ARB_STARVE
    ⟨0x108, 1, 0, 1, 0, 0x0, 0x0, 0x0, 0x0⟩, -- TAG_RAY
    ⟨0x10c, 1, 0, 1, 0, 0x0, 0x0, 0x0, 0x0⟩, -- TAG_GEN
    ⟨0x110, 1, 0, 1, 0, 0x0, 0x0, 0x0, 0x0⟩, -- PCQ_FULL
    ⟨0x114, 1, 0, 1, 0, 0x0, 0x0, 0x0, 0x0⟩ ] -- REJ_REASON

/-- PCIE (R474). -/
def rowsPcie : List RegRow :=
  [ ⟨0x100, 1, 0, 1, 0, 0x0, 0x0, 0x0, 0x0⟩, -- LINK_STAT
    ⟨0x104, 1, 0, 1, 0, 0x3ff, 0x0, 0x0, 0x32⟩, -- CPL_TMO
    ⟨0x110, 8, 8, 1, 0, 0x3fff, 0x0, 0x0, 0x0⟩, -- DB_BUF
    ⟨0x114, 8, 8, 1, 0, 0x0, 0x0, 0x0, 0x0⟩, -- DB_SEQ
    ⟨0x150, 1, 0, 1, 0, 0x0, 0x0, 0x0, 0x0⟩, -- DB_STAT
    ⟨0x180, 4, 32, 1, 0, 0x1, 0x0, 0x0, 0x1⟩, -- DMA_CTRL
    ⟨0x184, 4, 32, 1, 0, 0x0, 0x0, 0x0, 0x0⟩, -- DMA_STAT
    ⟨0x188, 4, 32, 1, 0, 0xffffffff, 0x0, 0x0, 0x0⟩, -- DMA_QB_LO
    ⟨0x18c, 4, 32, 1, 0, 0x80000007, 0x0, 0x0, 0x0⟩, -- DMA_QB_HI
    ⟨0x190, 4, 32, 1, 0, 0x1ff, 0x0, 0x0, 0x0⟩, -- DMA_QSIZE
    ⟨0x194, 4, 32, 1, 0, 0xff, 0x0, 0x0, 0x0⟩, -- DMA_QTAIL
    ⟨0x198, 4, 32, 1, 0, 0x0, 0x0, 0x0, 0x0⟩, -- DMA_QHEAD
    ⟨0x19c, 4, 32, 1, 0, 0x0, 0x0, 0x0, 0x0⟩, -- DMA_LAST
    ⟨0x200, 1, 0, 1, 0, 0x0, 0x0, 0x0, 0x0⟩, -- REC_CTRL
    ⟨0x204, 1, 0, 1, 0, 0x0, 0x0, 0x0, 0x0⟩, -- REC_STAT
    ⟨0x208, 1, 0, 1, 0, 0xffffffff, 0x0, 0x0, 0x0⟩, -- REC_SRC_LO
    ⟨0x20c, 1, 0, 1, 0, 0x7, 0x0, 0x0, 0x0⟩, -- REC_SRC_HI
    ⟨0x210, 1, 0, 1, 0, 0x7fffff, 0x0, 0x0, 0x0⟩, -- REC_LEN
    ⟨0x214, 1, 0, 1, 0, 0x0, 0x0, 0x0, 0x0⟩ ] -- REC_DATA

/-- NVME (R476). -/
def rowsNvme : List RegRow :=
  [ ⟨0x100, 1, 0, 1, 0, 0xf, 0x0, 0x0, 0x0⟩, -- CTRL
    ⟨0x104, 1, 0, 1, 0, 0x0, 0x1, 0x0, 0x0⟩, -- RP_CFG
    ⟨0x108, 1, 0, 1, 0, 0x0, 0xffff, 0x0, 0x7d0⟩, -- CMD_TMO
    ⟨0x10c, 1, 0, 1, 0, 0xffffffff, 0x0, 0x0, 0x0⟩, -- CLIP_BASE_LO
    ⟨0x110, 1, 0, 1, 0, 0x80000007, 0x0, 0x0, 0x0⟩, -- CLIP_BASE_HI
    ⟨0x114, 1, 0, 1, 0, 0x1fff, 0x0, 0x0, 0x0⟩, -- CLIP_CNT
    ⟨0x120, 4, 16, 1, 0, 0x0, 0x0, 0x0, 0x0⟩, -- DRV_STAT
    ⟨0x124, 4, 16, 1, 0, 0x0, 0x0, 0x0, 0x0⟩, -- DRV_CAP_LO
    ⟨0x128, 4, 16, 1, 0, 0x0, 0x0, 0x0, 0x0⟩, -- DRV_CAP_HI
    ⟨0x180, 1, 0, 1, 0, 0xffffffff, 0x0, 0x0, 0x0⟩, -- REQ_LBA_LO
    ⟨0x184, 1, 0, 1, 0, 0xffff, 0x0, 0x0, 0x0⟩, -- REQ_LBA_HI
    ⟨0x188, 1, 0, 1, 0, 0xffff, 0x0, 0x0, 0x0⟩, -- REQ_CNT
    ⟨0x18c, 1, 0, 1, 0, 0xffffffff, 0x0, 0x0, 0x0⟩, -- REQ_HBM_LO
    ⟨0x190, 1, 0, 1, 0, 0x7, 0x0, 0x0, 0x0⟩, -- REQ_HBM_HI
    ⟨0x194, 1, 0, 1, 0, 0x0, 0x0, 0x0, 0x0⟩, -- REQ_CMD
    ⟨0x198, 1, 0, 1, 0, 0x0, 0x0, 0x0, 0x0⟩, -- REQ_STAT
    ⟨0x800, 32, 64, 1, 0, 0x71f3fff, 0x0, 0x0, 0x0⟩, -- STR_CFG
    ⟨0x804, 32, 64, 1, 0, 0xffffffff, 0x0, 0x0, 0x0⟩, -- STR_STAGE_LO
    ⟨0x808, 32, 64, 1, 0, 0x7, 0x0, 0x0, 0x0⟩, -- STR_STAGE_HI
    ⟨0x80c, 32, 64, 1, 0, 0x0, 0x0, 0x0, 0x0⟩, -- STR_CMD
    ⟨0x810, 32, 64, 1, 0, 0xffffffff, 0x0, 0x0, 0x0⟩, -- STR_SEEK_LO
    ⟨0x814, 32, 64, 1, 0, 0x3fff, 0x0, 0x0, 0x0⟩, -- STR_SEEK_HI
    ⟨0x818, 32, 64, 1, 0, 0xffffff, 0x0, 0x0, 0x0⟩, -- STR_DEC
    ⟨0x81c, 32, 64, 1, 0, 0x0, 0x0, 0x0, 0x0⟩, -- STR_STAT
    ⟨0x820, 32, 64, 1, 0, 0x0, 0x0, 0x0, 0x0⟩, -- STR_PROM
    ⟨0x824, 32, 64, 1, 0, 0x0, 0x0, 0x0, 0x0⟩, -- STR_POS_LO
    ⟨0x828, 32, 64, 1, 0, 0x0, 0x0, 0x0, 0x0⟩, -- STR_POS_HI
    ⟨0x82c, 32, 64, 1, 0, 0x0, 0x0, 0x0, 0x0⟩, -- STR_HEAD
    ⟨0x830, 32, 64, 1, 0, 0x0, 0x0, 0x0, 0x0⟩ ] -- STR_FRAME

/-- NET (R499). -/
def rowsNet : List RegRow :=
  [ ⟨0x100, 1, 0, 1, 0, 0x0, 0xf, 0x0, 0xd⟩, -- PORT_CFG
    ⟨0x104, 1, 0, 1, 0, 0x0, 0x0, 0x0, 0x0⟩, -- PORT_STAT
    ⟨0x108, 1, 0, 1, 0, 0x0, 0x0, 0x0, 0x0⟩, -- MAC_LO
    ⟨0x10c, 1, 0, 1, 0, 0x0, 0x0, 0x0, 0x0⟩, -- MAC_HI
    ⟨0x110, 1, 0, 1, 0, 0x0, 0xffffff, 0x0, 0x0⟩, -- PTP_LAT_TX
    ⟨0x114, 1, 0, 1, 0, 0x0, 0xffffff, 0x0, 0x0⟩, -- PTP_LAT_RX
    ⟨0x118, 1, 0, 1, 0, 0x0, 0x3fff, 0x0, 0x5ee⟩, -- MTU
    ⟨0x11c, 1, 0, 1, 0, 0x0, 0x0, 0x0, 0x0⟩ ] -- REJ_REASON

/-- FLOW (R501). -/
def rowsFlow : List RegRow :=
  [ ⟨0x100, 1, 0, 1, 0, 0x0, 0x0, 0x0, 0x0⟩, -- PORT_MODE
    ⟨0x104, 1, 0, 1, 0, 0x0, 0x0, 0x0, 0x0⟩, -- LBUF_USED
    ⟨0x108, 1, 0, 1, 0, 0x0, 0x0, 0x0, 0x0⟩, -- REJ_REASON
    ⟨0x400, 8, 64, 1, 0, 0x0, 0xffff3fff, 0x0, 0x0⟩, -- FL_CFG
    ⟨0x404, 8, 64, 1, 0, 0x0, 0x1fff1fff, 0x0, 0x0⟩, -- FL_SIZE
    ⟨0x408, 8, 64, 1, 0, 0x0, 0xffff, 0x0, 0x0⟩, -- FL_FMT
    ⟨0x40c, 8, 64, 1, 0, 0x0, 0x73fff, 0x0, 0x0⟩, -- FL_BUF
    ⟨0x410, 8, 64, 1, 0, 0x0, 0xffffffff, 0x0, 0x0⟩, -- FL_A_IP
    ⟨0x414, 8, 64, 1, 0, 0x0, 0xffffffff, 0x0, 0x0⟩, -- FL_A_SRC
    ⟨0x418, 8, 64, 1, 0, 0x0, 0x1fffffff, 0x0, 0x0⟩, -- FL_A_UDP
    ⟨0x41c, 8, 64, 1, 0, 0x0, 0xffffffff, 0x0, 0x0⟩, -- FL_B_IP
    ⟨0x420, 8, 64, 1, 0, 0x0, 0xffffffff, 0x0, 0x0⟩, -- FL_B_SRC
    ⟨0x424, 8, 64, 1, 0, 0x0, 0x1fffffff, 0x0, 0x0⟩, -- FL_B_UDP
    ⟨0x428, 8, 64, 1, 0, 0x0, 0xffffffff, 0x0, 0x0⟩, -- FL_STAGE_LO
    ⟨0x42c, 8, 64, 1, 0, 0x0, 0xffff0007, 0x0, 0x0⟩, -- FL_STAGE_HI
    ⟨0x430, 8, 64, 1, 0, 0x0, 0x0, 0x0, 0x0⟩, -- FL_CMD
    ⟨0x434, 8, 64, 1, 0, 0x0, 0x0, 0x0, 0x0⟩, -- FL_STAT
    ⟨0x438, 8, 64, 1, 0, 0x0, 0x0, 0x0, 0x0⟩, -- FL_SEQ
    ⟨0x43c, 8, 64, 1, 0, 0x0, 0x0, 0x0, 0x0⟩ ] -- FL_RTP

/-- CAM (R521). -/
def rowsCam1 : List RegRow :=
  [ ⟨0x100, 1, 0, 1, 0, 0x0, 0x13ff, 0x0, 0x2a2⟩, -- CSI_CFG
    ⟨0x104, 1, 0, 1, 0, 0x0, 0x3fff3fff, 0x0, 0x0⟩, -- FR_SIZE
    ⟨0x108, 1, 0, 1, 0, 0x0, 0xffff, 0x0, 0x64⟩, -- FR_TMO
    ⟨0x10c, 1, 0, 1, 0, 0x0, 0xffff, 0x0, 0xffc0⟩, -- CLIP
    ⟨0x110, 4, 4, 1, 0, 0x0, 0xffffffff, 0x0, 0x10000000⟩, -- BLACK_GAIN
    ⟨0x120, 1, 0, 1, 0, 0x0, 0x3fff3fff, 0x0, 0x0⟩, -- CROP_XY
    ⟨0x124, 1, 0, 1, 0, 0x0, 0x3fff3fff, 0x0, 0x0⟩, -- CROP_WH
    ⟨0x128, 1, 0, 1, 0, 0x0, 0x3, 0x0, 0x0⟩, -- BIN
    ⟨0x130, 1, 0, 1, 0, 0x0, 0xff07ff, 0x0, 0x0⟩, -- TRIG_CFG
    ⟨0x134, 1, 0, 1, 0, 0x0, 0xffffffff, 0x0, 0x0⟩, -- TRIG_DLY
    ⟨0x138, 1, 0, 1, 0, 0x0, 0xffffff, 0x0, 0x2710⟩, -- TRIG_WID
    ⟨0x13c, 1, 0, 1, 0, 0x0, 0xffff, 0x0, 0x1⟩, -- TRIG_COUNT
    ⟨0x140, 1, 0, 1, 0, 0x0, 0x0, 0x0, 0x0⟩, -- TRIG_CMD
    ⟨0x144, 1, 0, 1, 0, 0x0, 0x0, 0x0, 0x0⟩, -- TRIG_SEQ
    ⟨0x148, 1, 0, 1, 0, 0x0, 0xfffff, 0x0, 0x186a0⟩, -- MATCH_MAX
    ⟨0x150, 1, 0, 1, 0, 0xffffffff, 0x0, 0x0, 0x0⟩, -- SET_ADDR_LO
    ⟨0x154, 1, 0, 1, 0, 0x7, 0x0, 0x0, 0x0⟩, -- SET_ADDR_HI
    ⟨0x158, 1, 0, 1, 0, 0xffffffff, 0x0, 0x0, 0x0⟩, -- SET_TRIG
    ⟨0x15c, 1, 0, 1, 0, 0x0, 0x0, 0x0, 0x0⟩, -- SET_CMD
    ⟨0x160, 1, 0, 1, 0, 0x0, 0x0, 0x0, 0x0⟩, -- SET_STAT
    ⟨0x164, 1, 0, 1, 0, 0x0, 0xffff0003, 0x0, 0x1f40001⟩, -- I2C_CFG
    ⟨0x170, 1, 0, 1, 0, 0x0, 0x1fffff7, 0x0, 0x0⟩, -- TAP_CFG
    ⟨0x180, 1, 0, 1, 0, 0x0, 0xffffffff, 0x0, 0x0⟩, -- STATS_LO
    ⟨0x184, 1, 0, 1, 0, 0x0, 0x7, 0x0, 0x0⟩, -- STATS_HI
    ⟨0x188, 1, 0, 1, 0, 0x0, 0x71f1f01, 0x0, 0x0⟩, -- STATS_CFG
    ⟨0x190, 1, 0, 1, 0, 0x0, 0xffffffff, 0x0, 0x0⟩, -- SPOT_IN_LO
    ⟨0x194, 1, 0, 1, 0, 0x0, 0x7, 0x0, 0x0⟩, -- SPOT_IN_HI
    ⟨0x198, 1, 0, 1, 0, 0x0, 0x1ffff, 0x0, 0x0⟩, -- SPOT_CNT
    ⟨0x19c, 1, 0, 1, 0, 0x0, 0xffffffff, 0x0, 0x0⟩, -- SPOT_OUT_LO
    ⟨0x1a0, 1, 0, 1, 0, 0x0, 0x7, 0x0, 0x0⟩ ] -- SPOT_OUT_HI

/-- CAM (R521). -/
def rowsCam2 : List RegRow :=
  [ ⟨0x1a4, 1, 0, 1, 0, 0x0, 0xffff0031, 0x0, 0x1000000⟩, -- SPOT_CFG
    ⟨0x1b0, 1, 0, 1, 0, 0x0, 0x0, 0x0, 0x0⟩, -- FR_SEQ
    ⟨0x1b4, 1, 0, 1, 0, 0x0, 0x0, 0x0, 0x0⟩, -- FR_FLAGS
    ⟨0x1b8, 1, 0, 1, 0, 0x0, 0x0, 0x0, 0x0⟩, -- FR_SET
    ⟨0x1bc, 1, 0, 1, 0, 0x0, 0x0, 0x0, 0x0⟩, -- RX_STAT
    ⟨0x1c0, 1, 0, 1, 0, 0x0, 0x0, 0x0, 0x0⟩ ] -- REJ_REASON

/-- CAM, the whole list. -/
def rowsCam : List RegRow :=
  rowsCam1 ++ rowsCam2

/-- AUD (R535). -/
def rowsAud : List RegRow :=
  [ ⟨0x100, 1, 0, 1, 0, 0x0, 0xffff, 0x0, 0x44⟩, -- CFG
    ⟨0x104, 1, 0, 1, 0, 0x0, 0x3ffff, 0x0, 0xbb80⟩, -- NOM_RATE
    ⟨0x108, 1, 0, 1, 0, 0x0, 0xffff, 0x0, 0x3e8⟩, -- TOL
    ⟨0x10c, 1, 0, 1, 0, 0x0, 0x1fff, 0x0, 0x100⟩, -- FADE
    ⟨0x110, 1, 0, 1, 0, 0x0, 0xffff, 0x0, 0x3e8⟩, -- ALIGN_TOL
    ⟨0x114, 1, 0, 1, 0, 0xffffffff, 0x0, 0x0, 0x0⟩, -- START_POS
    ⟨0x118, 1, 0, 1, 0, 0x0, 0x0, 0x0, 0x0⟩, -- CMD
    ⟨0x11c, 1, 0, 1, 0, 0x0, 0x0, 0x0, 0x0⟩, -- STAT
    ⟨0x120, 1, 0, 1, 0, 0x0, 0x0, 0x0, 0x0⟩, -- POS
    ⟨0x124, 1, 0, 1, 0, 0x0, 0x0, 0x0, 0x0⟩, -- PERIOD
    ⟨0x128, 1, 0, 1, 0, 0x0, 0x10f, 0x0, 0xa⟩, -- STAMP_CFG
    ⟨0x12c, 1, 0, 1, 0, 0x0, 0xffffffff, 0x0, 0x0⟩, -- STAMP_BASE_LO
    ⟨0x130, 1, 0, 1, 0, 0x0, 0x7, 0x0, 0x0⟩, -- STAMP_BASE_HI
    ⟨0x134, 1, 0, 1, 0, 0x0, 0x0, 0x0, 0x0⟩, -- LAST_STAMP_POS
    ⟨0x138, 1, 0, 1, 0, 0x0, 0x0, 0x0, 0x0⟩, -- LAST_STAMP_NS
    ⟨0x13c, 1, 0, 1, 0, 0x0, 0x0, 0x0, 0x0⟩, -- LAST_STAMP_SEC
    ⟨0x140, 1, 0, 1, 0, 0x0, 0x0, 0x0, 0x0⟩, -- LAST_STAMP_FRAC
    ⟨0x180, 1, 0, 1, 0, 0x0, 0xffff, 0x0, 0x0⟩, -- RX_MASK
    ⟨0x1a0, 1, 0, 1, 0, 0x0, 0xffff, 0x0, 0x0⟩, -- TX_MASK
    ⟨0x184, 1, 0, 1, 0, 0x0, 0xffffffff, 0x0, 0x0⟩, -- RX_BASE_LO
    ⟨0x1a4, 1, 0, 1, 0, 0x0, 0xffffffff, 0x0, 0x0⟩, -- TX_BASE_LO
    ⟨0x188, 1, 0, 1, 0, 0x0, 0x7, 0x0, 0x0⟩, -- RX_BASE_HI
    ⟨0x1a8, 1, 0, 1, 0, 0x0, 0x7, 0x0, 0x0⟩, -- TX_BASE_HI
    ⟨0x18c, 1, 0, 1, 0, 0x0, 0x1ffff, 0x0, 0x40⟩, -- RX_SIZE
    ⟨0x1ac, 1, 0, 1, 0, 0x0, 0x1ffff, 0x0, 0x40⟩, -- TX_SIZE
    ⟨0x190, 1, 0, 1, 0, 0xffffffff, 0x0, 0x0, 0x0⟩, -- RX_SW
    ⟨0x1b0, 1, 0, 1, 0, 0xffffffff, 0x0, 0x0, 0x0⟩, -- TX_SW
    ⟨0x194, 1, 0, 1, 0, 0x0, 0x0, 0x0, 0x0⟩, -- RX_HW
    ⟨0x1b4, 1, 0, 1, 0, 0x0, 0x0, 0x0, 0x0⟩, -- TX_HW
    ⟨0x1c0, 1, 0, 1, 0, 0x0, 0x0, 0x0, 0x0⟩ ] -- REJ_REASON

/-- BLIT (R549). -/
def rowsBlit : List RegRow :=
  [ ⟨0x100, 1, 0, 1, 0, 0x0, 0x0, 0x0, 0x0⟩, -- CTRL
    ⟨0x104, 1, 0, 1, 0, 0x3ff, 0x0, 0x0, 0x0⟩, -- OP
    ⟨0x108, 1, 0, 1, 0, 0xffffffff, 0x0, 0x0, 0x0⟩, -- DST_LO
    ⟨0x10c, 1, 0, 1, 0, 0x7, 0x0, 0x0, 0x0⟩, -- DST_HI
    ⟨0x110, 1, 0, 1, 0, 0xffffff, 0x0, 0x0, 0x0⟩, -- DST_PITCH
    ⟨0x114, 1, 0, 1, 0, 0xffffffff, 0x0, 0x0, 0x0⟩, -- DST_XY
    ⟨0x118, 1, 0, 1, 0, 0xffffffff, 0x0, 0x0, 0x0⟩, -- SIZE
    ⟨0x11c, 1, 0, 1, 0, 0xffffffff, 0x0, 0x0, 0x0⟩, -- SRC_LO
    ⟨0x120, 1, 0, 1, 0, 0x7, 0x0, 0x0, 0x0⟩, -- SRC_HI
    ⟨0x124, 1, 0, 1, 0, 0xffffff, 0x0, 0x0, 0x0⟩, -- SRC_PITCH
    ⟨0x128, 1, 0, 1, 0, 0xffffffff, 0x0, 0x0, 0x0⟩, -- SRC_XY
    ⟨0x12c, 1, 0, 1, 0, 0xffffffff, 0x0, 0x0, 0x0⟩, -- FG_LO
    ⟨0x130, 1, 0, 1, 0, 0xffffffff, 0x0, 0x0, 0x0⟩, -- FG_HI
    ⟨0x134, 1, 0, 1, 0, 0xffffffff, 0x0, 0x0, 0x0⟩, -- BG_LO
    ⟨0x138, 1, 0, 1, 0, 0xffffffff, 0x0, 0x0, 0x0⟩, -- BG_HI
    ⟨0x13c, 1, 0, 1, 0, 0x3fff, 0x0, 0x0, 0x0⟩, -- DST_BUF
    ⟨0x140, 1, 0, 1, 0, 0xffffffff, 0x0, 0x0, 0x0⟩, -- SEQ
    ⟨0x144, 1, 0, 1, 0, 0x0, 0x0, 0x0, 0x0⟩, -- CMD
    ⟨0x148, 1, 0, 1, 0, 0x0, 0x0, 0x0, 0x0⟩, -- STAT
    ⟨0x14c, 1, 0, 1, 0, 0x0, 0x0, 0x0, 0x0⟩ ] -- ROWS

/-- THRM (R595). -/
def rowsThrm : List RegRow :=
  [ ⟨0x100, 25, 4, 1, 0, 0x0, 0x0, 0x0, 0x0⟩, -- TEMP
    ⟨0x180, 1, 0, 1, 0, 0x0, 0x0, 0x0, 0x0⟩, -- TEMP_MAX
    ⟨0x184, 1, 0, 1, 0, 0x0, 0x1ffffff, 0x0, 0x15a2264⟩, -- GOV_CFG
    ⟨0x188, 1, 0, 1, 0, 0x0, 0x1ff, 0x0, 0x105⟩, -- RISE_CFG
    ⟨0x18c, 1, 0, 1, 0, 0x0, 0xfff, 0x0, 0xd5f⟩, -- ALERT_CFG
    ⟨0x190, 1, 0, 1, 0, 0x0, 0x0, 0x0, 0x0⟩, -- LIMITS
    ⟨0x194, 1, 0, 1, 0, 0x0, 0x0, 0x0, 0x0⟩, -- STEP_LO
    ⟨0x198, 1, 0, 1, 0, 0x0, 0x0, 0x0, 0x0⟩, -- STEP_HI
    ⟨0x19c, 1, 0, 1, 0, 0x0, 0x0, 0x0, 0x0⟩ ] -- REJ_REASON

/-- CAL (R599). -/
def rowsCal : List RegRow :=
  [ ⟨0x100, 1, 0, 1, 0, 0x0, 0x1ffffff, 0x0, 0x105000a⟩, -- CAL_CFG
    ⟨0x104, 1, 0, 1, 0, 0x0, 0x0, 0x0, 0x0⟩, -- CMD
    ⟨0x108, 1, 0, 1, 0, 0x0, 0x0, 0x0, 0x0⟩, -- STAT
    ⟨0x10c, 1, 0, 1, 0, 0x0, 0x0, 0x0, 0x0⟩, -- LAST_SEC
    ⟨0x110, 43, 4, 1, 0, 0x0, 0x0, 0x0, 0x0⟩ ] -- LINE

/-- The block registers of a page kind. -/
def kindRows : PageKind → List RegRow
  | .glb => rowsGlb
  | .isl => rowsIsl
  | .cpm => rowsCpm
  | .sec => rowsSec
  | .time => rowsTime
  | .sync => rowsSync
  | .tgen => rowsTgen
  | .layr => rowsLayr
  | .geom => rowsGeom
  | .reng => rowsReng
  | .scal => rowsScal
  | .codec => rowsCodec
  | .trim => rowsTrim
  | .fade => rowsFade
  | .bport => rowsBport
  | .bgrp => rowsBgrp
  | .diag => rowsDiag
  | .hbm => rowsHbm
  | .hbmpc => rowsHbmpc
  | .fab => rowsFab
  | .pcie => rowsPcie
  | .nvme => rowsNvme
  | .net => rowsNet
  | .flow => rowsFlow
  | .cam => rowsCam
  | .aud => rowsAud
  | .blit => rowsBlit
  | .thrm => rowsThrm
  | .cal => rowsCal

end Sys2Proof.Machine
end

