-- ==== Sys2Proof/Machine/Ops.lean ====
section
/-!
DEFINITION. The named operations every family shares: sparse maps, the page map, islands, the register file, HBM as
plain bytes, and the draw of a free value.
-/
namespace Sys2Proof.Machine

/-- The outcome of a command. -/
abbrev Res := Host.Outcome State Fault Refusal

/-! ## Sparse maps -/

/-- What a map holds at a key: the listed value, or the default of an unlisted key. -/
def mapGet {α : Type} (d : Nat → α) : AMap α → Nat → α
  | [], k => d k
  | (k', v) :: m, k => if k' = k then v else mapGet d m k

/-- The map without a key. -/
def mapDrop {α : Type} (m : AMap α) (k : Nat) : AMap α := m.filter (fun e => decide (e.1 ≠ k))

/-- Lists a key ahead of the first larger one. -/
def mapIns {α : Type} : AMap α → Nat → α → AMap α
  | [], k, v => [(k, v)]
  | e :: m, k, v => if k < e.1 then (k, v) :: e :: m else e :: mapIns m k v

/-- Writes a key and keeps the canonical form: rising keys, and no entry equal to its key's default. -/
def mapSet {α : Type} [DecidableEq α] (d : Nat → α) (m : AMap α) (k : Nat) (v : α) : AMap α :=
  match m with
  | [] => if v = d k then [] else [(k, v)]
  | e :: r => if v = d k then mapDrop (e :: r) k else mapIns (mapDrop (e :: r) k) k v

/-- The entries whose key satisfies `p`. -/
def mapKeep {α : Type} (p : Nat → Bool) (m : AMap α) : AMap α := m.filter (fun e => p e.1)

/-- Writes every entry of `e` over `m`. -/
def mapOver {α : Type} [DecidableEq α] (d : Nat → α) (m e : AMap α) : AMap α :=
  e.foldl (fun acc x => mapSet d acc x.1 x.2) m

/-- The canonical form of a map, from `lo` up. -/
def mapWfFrom {α : Type} [DecidableEq α] (d : Nat → α) : Nat → AMap α → Bool
  | _, [] => true
  | lo, (k, v) :: m => decide (lo ≤ k) && decide (v ≠ d k) && mapWfFrom d (k + 1) m

/-- The canonical form of a map: keys strictly rising, no entry equal to its default. -/
def mapWf {α : Type} [DecidableEq α] (d : Nat → α) (m : AMap α) : Bool := mapWfFrom d 0 m

/-! ## Pages and islands (R37, R68, R21) -/

/-- The kind of a page. -/
def kindOf : Page → PageKind
  | .glb => .glb | .isl => .isl | .cpm => .cpm | .sec => .sec | .time => .time | .sync => .sync
  | .tgen _ => .tgen | .layr => .layr | .geom => .geom | .reng _ => .reng | .scal => .scal | .codec _ => .codec
  | .trim => .trim | .fade => .fade | .bport _ => .bport | .bgrp _ => .bgrp | .diag => .diag | .hbm => .hbm
  | .hbmpc _ => .hbmpc | .fab => .fab | .pcie => .pcie | .nvme => .nvme | .net _ => .net | .flow => .flow
  | .cam _ => .cam | .aud _ => .aud | .blit => .blit | .thrm => .thrm | .cal => .cal

/-- The instance number of a page. -/
def instOf : Page → Nat
  | .tgen g | .reng g | .bgrp g | .hbmpc g | .net g => g.val
  | .codec c | .cam c | .aud c => c.val
  | .bport p => p.val
  | _ => 0

/-- The 4 KiB slot of a page in BAR0 (R37). -/
def pageSlot : Page → Nat
  | .glb => 0x0 | .isl => 0x1 | .cpm => 0x10 | .sec => 0x11 | .time => 0x20 | .sync => 0x21
  | .tgen g => 0x30 + g.val | .layr => 0x40 | .geom => 0x41 | .reng e => 0x50 + e.val | .scal => 0x60
  | .codec c => 0x61 + c.val | .trim => 0x70 | .fade => 0x71 | .bport p => 0x100 + p.val | .bgrp g => 0x200 + g.val
  | .diag => 0x210 | .hbm => 0x300 | .hbmpc n => 0x301 + n.val | .fab => 0x311 | .pcie => 0x400 | .nvme => 0x410
  | .net n => 0x500 + n.val | .flow => 0x510 | .cam c => 0x600 + c.val | .aud a => 0x610 + a.val | .blit => 0x620
  | .thrm => 0x700 | .cal => 0x701

/-- The base of a page. -/
def pageBase (p : Page) : Nat := pageSlot p * 4096

/-- The page a slot of BAR0 is assigned to. -/
def pageOfSlot (n : Nat) : Option Page :=
  if n = 0 then some .glb else if n = 1 then some .isl else if n = 0x10 then some .cpm else if n = 0x11 then some .sec
  else if n = 0x20 then some .time else if n = 0x21 then some .sync
  else if h : 0x30 ≤ n ∧ n < 0x40 then some (.tgen ⟨n - 0x30, by omega⟩)
  else if n = 0x40 then some .layr else if n = 0x41 then some .geom
  else if h : 0x50 ≤ n ∧ n < 0x60 then some (.reng ⟨n - 0x50, by omega⟩)
  else if n = 0x60 then some .scal
  else if h : 0x61 ≤ n ∧ n < 0x65 then some (.codec ⟨n - 0x61, by omega⟩)
  else if n = 0x70 then some .trim else if n = 0x71 then some .fade
  else if h : 0x100 ≤ n ∧ n < 0x200 then some (.bport ⟨n - 0x100, by omega⟩)
  else if h : 0x200 ≤ n ∧ n < 0x210 then some (.bgrp ⟨n - 0x200, by omega⟩)
  else if n = 0x210 then some .diag else if n = 0x300 then some .hbm
  else if h : 0x301 ≤ n ∧ n < 0x311 then some (.hbmpc ⟨n - 0x301, by omega⟩)
  else if n = 0x311 then some .fab else if n = 0x400 then some .pcie else if n = 0x410 then some .nvme
  else if h : 0x500 ≤ n ∧ n < 0x510 then some (.net ⟨n - 0x500, by omega⟩)
  else if n = 0x510 then some .flow
  else if h : 0x600 ≤ n ∧ n < 0x604 then some (.cam ⟨n - 0x600, by omega⟩)
  else if h : 0x610 ≤ n ∧ n < 0x614 then some (.aud ⟨n - 0x610, by omega⟩)
  else if n = 0x620 then some .blit else if n = 0x700 then some .thrm else if n = 0x701 then some .cal
  else none

/-- The block type of a page (R37). -/
def blockType : PageKind → Nat
  | .glb => 0x1 | .isl => 0x2 | .cpm => 0x3 | .sec => 0x4 | .time => 0x5 | .sync => 0x6 | .tgen => 0x10 | .layr => 0x11
  | .geom => 0x12 | .reng => 0x13 | .scal => 0x14 | .codec => 0x15 | .trim => 0x16 | .fade => 0x17 | .bport => 0x20
  | .bgrp => 0x21 | .diag => 0x22 | .hbm => 0x30 | .hbmpc => 0x31 | .fab => 0x32 | .pcie => 0x40 | .nvme => 0x41
  | .net => 0x50 | .flow => 0x51 | .cam => 0x60 | .aud => 0x61 | .blit => 0x62 | .thrm => 0x70 | .cal => 0x71

/-- Island numbers (R68). -/
def islCtl : Nat := 1
def islFab : Nat := 2
def islHbm : Nat := 3
def islRay (g : Nat) : Nat := 4 + g
def islPgrp (g : Nat) : Nat := 20 + g
def islHost : Nat := 36
def islNet : Nat := 37
def islCam : Nat := 38
def islAud (a : Nat) : Nat := 39 + a
def islMedia : Nat := 43

/-- The island of a page (R37). -/
def islandOf : Page → Nat
  | .glb | .isl | .time | .sync | .thrm => 0
  | .cpm | .sec | .diag | .cal => islCtl
  | .layr | .geom | .trim | .fade | .fab => islFab
  | .hbm | .hbmpc _ => islHbm
  | .tgen g => islPgrp g.val
  | .reng e => islRay e.val
  | .bport p => islPgrp (p.val / 16)
  | .bgrp g => islPgrp g.val
  | .scal | .codec _ | .blit => islMedia
  | .pcie | .nvme => islHost
  | .net _ | .flow => islNet
  | .cam _ => islCam
  | .aud a => islAud a.val

/-- The commit domain of a page (R37, R52). -/
def domainOf : Page → Domain
  | .glb | .isl | .cpm | .sec | .pcie | .blit => .none
  | .tgen g | .bgrp g => .group g
  | .reng e => .group e
  | .bport p => .group ⟨p.val / 16, by omega⟩
  | .layr | .geom | .trim | .fade | .diag => .banked
  | _ => .loc

/-- The summary group of a page (R49). -/
def summaryGroup : Page → Nat
  | .tgen g | .bgrp g => g.val
  | .reng e => e.val
  | .bport p => p.val / 16
  | .glb | .isl => 16
  | .cpm => 17 | .sec => 18 | .time | .sync => 19 | .layr | .geom => 20 | .scal => 21
  | .codec c => 22 + c.val
  | .trim | .fade => 26
  | .diag => 27 | .hbm | .hbmpc _ | .fab => 28 | .pcie => 29 | .nvme => 30 | .net _ | .flow => 31
  | .cam c => 32 + c.val
  | .aud a => 36 + a.val
  | .blit => 40 | .thrm | .cal => 41

/-- The groups present on a part (R1). -/
def groupCount : Part → Nat
  | .af128x16 => 8
  | _ => 16

/-- Installed HBM in GiB (R1). -/
def hbmGib : Part → Nat
  | .af256x24 => 24
  | _ => 16

/-- Installed HBM in bytes. -/
def hbmBytes (s : State) : Nat := hbmGib s.part * 2 ^ 30

/-- The island exists on the part (R3, R89). -/
def islandPresent (pt : Part) (k : Nat) : Bool :=
  decide (k < 44) &&
  !(decide (pt = .af128x16) && ((decide (12 ≤ k) && decide (k < 20)) || (decide (28 ≤ k) && decide (k < 36))))

/-- Island `k`. -/
def island (s : State) (k : Nat) : Island := mapGet Island.initial s.isl k

/-- Writes island `k`. -/
def setIsland (s : State) (k : Nat) (v : Island) : State := { s with isl := mapSet Island.initial s.isl k v }

/-- The island's state as PSTATE shows it; an absent island is OFF (R88). -/
def islState (s : State) (k : Nat) : IslState := if islandPresent s.part k then (island s k).st else .off

/-- The island answers: it is IDLE or RUN (R40). -/
def islandUp (s : State) (k : Nat) : Bool :=
  match islState s k with
  | .idle | .run => true
  | _ => false

/-- The island is in RUN and no transition of it is in progress: it takes new work (R45, R85). -/
def islandRuns (s : State) (k : Nat) : Bool :=
  decide (islState s k = .run) && (island s k).target.isNone

/-- The part has the page (R3, R38). -/
def pagePresent (s : State) (p : Page) : Bool :=
  islandPresent s.part (islandOf p) &&
  (match p with
   | .net n => decide (n.val < 4) || !s.netMode4
   | _ => true)

/-- The page's own registers answer (R40). -/
def pageUp (s : State) (p : Page) : Bool := pagePresent s p && islandUp s (islandOf p)

/-! ## Helpers (R551, R552) -/

def hlpAt (s : State) (h : Nat) : Helper := mapGet (fun _ => Helper.initial) s.cpm.helpers h
def setHlp (s : State) (h : Nat) (v : Helper) : State :=
  { s with cpm := { s.cpm with helpers := mapSet (fun _ => Helper.initial) s.cpm.helpers h v } }

/-- Helper `h` is in RUN. -/
def hlpRun (s : State) (h : Nat) : Bool := decide ((hlpAt s h).st = 3)

/-! ## The register file (R14, R15) -/

/-- Whether a row of a register list covers an offset. -/
def rowHit (r : RegRow) (off : Nat) : Bool :=
  decide (r.off ≤ off) &&
  (let d := off - r.off
   let i := d / r.s1
   let rem := d % r.s1
   let j := rem / r.s2
   let rem2 := rem % r.s2
   decide (i < r.c1) && decide (j < r.c2) && decide (rem2 = 0))

/-- The row of a page kind that covers an offset: the page header's (R39), else the block's. NOMINAL is read-only and SLEW
reserved in the PPS_IN and REF_IN trackers (R122). -/
def regRow (k : PageKind) (off : Nat) : Option RegRow :=
  match rowsHdr.find? (fun r => rowHit r off) with
  | some r => some r
  | none =>
    if k = .sync ∧ (off = 0x150 ∨ off = 0x190) then none
    else ((kindRows k).find? (fun r => rowHit r off)).map (fun r =>
      if k = .sync ∧ (off = 0x144 ∨ off = 0x184) then { r with rws := 0 } else r)

/-- The Reset value of a register. Three registers of the SYNC trackers and VEC_MAP have a Reset value per copy
(R51, R122). -/
def regResetOf (k : PageKind) (off : Nat) : Word :=
  match k with
  | .glb => if 0x200 ≤ off ∧ off < 0x300 then BitVec.ofNat 32 ((off - 0x200) / 4)
            else match regRow k off with
              | some r => BitVec.ofNat 32 r.reset
              | none => 0
  | .sync =>
    if off = 0x104 then 16666667 else if off = 0x144 then 1000000000 else if off = 0x184 then 1000000
    else if off = 0x148 then 10000 else if off = 0x188 then 100
    else match regRow k off with
      | some r => BitVec.ofNat 32 r.reset
      | none => 0
  | _ => match regRow k off with
    | some r => BitVec.ofNat 32 r.reset
    | none => 0

/-- The key of a register: its BAR0 address, and its bank above bit 26. -/
def regKey (p : Page) (off bank : Nat) : Nat := pageBase p + off + bank * 2 ^ 26

/-- The page a key belongs to. -/
def keyPage (k : Nat) : Option Page := pageOfSlot (k % 2 ^ 26 / 4096)

/-- The value of an unlisted key: the register's Reset value. -/
def regDefault (k : Nat) : Word :=
  match keyPage k with
  | some p => regResetOf (kindOf p) (k % 4096)
  | none => 0

/-- A register's stored value: the last value written (RW), the shadow (RWS), or what the unit stored (RO). -/
def reg (s : State) (p : Page) (off : Nat) : Word := mapGet regDefault s.regs (regKey p off 0)

/-- A banked shadow. -/
def regBank (s : State) (p : Page) (b off : Nat) : Word := mapGet regDefault s.regs (regKey p off b)

/-- Stores a register. -/
def setReg (s : State) (p : Page) (off : Nat) (v : Word) : State :=
  { s with regs := mapSet regDefault s.regs (regKey p off 0) v }

/-- Stores a banked shadow. -/
def setRegBank (s : State) (p : Page) (b off : Nat) (v : Word) : State :=
  { s with regs := mapSet regDefault s.regs (regKey p off b) v }

/-- The value in force of an RWS register (R14). -/
def force (s : State) (p : Page) (off : Nat) : Word := mapGet regDefault s.inForce (regKey p off 0)

/-- The value in force of a banked RWS register. -/
def forceBank (s : State) (p : Page) (b off : Nat) : Word := mapGet regDefault s.inForce (regKey p off b)

/-- A field of a stored register. -/
def regF (s : State) (p : Page) (off lo len : Nat) : Nat := fld (reg s p off) lo len

/-- A field in force. -/
def forceF (s : State) (p : Page) (off lo len : Nat) : Nat := fld (force s p off) lo len

/-- Stores a field of a register, the other bits kept. -/
def setRegF (s : State) (p : Page) (off lo len v : Nat) : State :=
  let w := (reg s p off).toNat
  setReg s p off (BitVec.ofNat 32 (w - nfld w lo len * 2 ^ lo + v % 2 ^ len * 2 ^ lo))

/-- The bank a banked page's RWS accesses address: BANK_SEL, at 0x100 in every banked page. -/
def bankSel (s : State) (p : Page) : Nat :=
  match domainOf p with
  | .banked => regF s p 0x100 0 4
  | _ => 0

/-- What a plain write does to a register by its access codes (R14): RWS takes the word whole, reserved bits too, into
the shadow the bank selects; RW bits take it; a 1 clears a W1C bit; anything else is discarded. -/
def writePlain (s : State) (p : Page) (off : Nat) (v : Word) : State :=
  match regRow (kindOf p) off with
  | none => s
  | some r =>
    if r.rws ≠ 0 then setRegBank s p (bankSel s p) off v
    else
      let old := (reg s p off).toNat
      let kept := old &&& (0xFFFFFFFF ^^^ (r.rw ||| r.w1c))
      let w1c := old &&& r.w1c &&& (0xFFFFFFFF ^^^ v.toNat)
      if r.rw ||| r.w1c = 0 then s
      else setReg s p off (BitVec.ofNat 32 (kept ||| (v.toNat &&& r.rw) ||| w1c))

/-! ## HBM as bytes (R11, R36) -/

/-- What an unlisted byte of HBM reads as: 0, as the clear of R433 leaves it. -/
def memDefault (_ : Nat) : Byte := 0

/-- One byte of HBM. -/
def memByte (s : State) (a : Nat) : Byte := mapGet memDefault s.mem a

/-- `n` bytes of HBM from `a`. -/
def memBytes (s : State) (a : Nat) : Nat → List Byte
  | 0 => []
  | n + 1 => memByte s a :: memBytes s (a + 1) n

/-- A little-endian value of `n` bytes of HBM. -/
def memVal (s : State) (a n : Nat) : Nat := leVal (memBytes s a n)

/-- A 32-bit word of HBM. -/
def memWord (s : State) (a : Nat) : Word := BitVec.ofNat 32 (memVal s a 4)

/-- `n` 32-bit words of HBM. -/
def memWords (s : State) (a : Nat) : Nat → List Word
  | 0 => []
  | n + 1 => memWord s a :: memWords s (a + 4) n

/-- Writes bytes to a memory from `a` upward. -/
def cellsPut (m : List Host.Cell) (a : Nat) : List Byte → List Host.Cell
  | [] => m
  | b :: bs => cellsPut (mapSet memDefault m a b) (a + 1) bs

/-- A read of `n` bytes from `a` meets an uncorrectable word (R426). -/
def memPoison (s : State) (a n : Nat) : Bool :=
  s.ecc.any (fun e => decide (e.2 = 2) && decide (a < e.1 * 8 + 8) && decide (e.1 * 8 < a + n))

/-! ## Free values -/

/-- Takes the next free value's index, so that no two draws meet. -/
def draw (s : State) : Nat × State := (s.free, { s with free := s.free + 1 })

end Sys2Proof.Machine
end

