-- ==== Sys2Proof/Machine/Flags.lean ====
section
/-!
DEFINITION. The flags of the block: latched events, live conditions, the summary tree and the MSI-X messages they
drive (spec/02_register_pages.md R46 to R50).
-/
namespace Sys2Proof.Machine

/-! ## Event registers (R46, R47) -/

/-- The conditions that hold from the moment an island leaves RESET: CODEC QUEUE_IDLE (R295), BLIT IDLE (R550). -/
def rawDefault (k : Nat) : Word :=
  match keyPage k with
  | some (.codec _) => 8
  | some .blit => 8
  | _ => 0

/-- EV_PEND. -/
def evPend (s : State) (p : Page) : Word := mapGet (fun _ => 0) s.evPend (pageBase p)

/-- EV_RAW. -/
def evRaw (s : State) (p : Page) : Word := mapGet rawDefault s.evRaw (pageBase p)

/-- EV_EN. -/
def evEn (s : State) (p : Page) : Word := reg s p Off.HDR_EV_EN

def setPend (s : State) (p : Page) (w : Word) : State :=
  { s with evPend := mapSet (fun _ => 0) s.evPend (pageBase p) w }

def setRaw (s : State) (p : Page) (w : Word) : State :=
  { s with evRaw := mapSet rawDefault s.evRaw (pageBase p) w }

/-- A pulse event: its EV_PEND bit is set, whatever EV_EN holds (R47). A page whose island is not IDLE or RUN holds no
event. -/
def raise (s : State) (p : Page) (b : Nat) : State :=
  if pageUp s p then setPend s p (putBit (evPend s p) b true) else s

/-- A pulse raised on a condition. -/
def raiseIf (c : Bool) (p : Page) (b : Nat) (s : State) : State := if c then raise s p b else s

/-- A level event: EV_RAW shows the condition, and its rising edge sets EV_PEND (R47). -/
def setLevel (s : State) (p : Page) (b : Nat) (on : Bool) : State :=
  if pageUp s p then
    let old := evRaw s p
    let t := setRaw s p (putBit old b on)
    if on && !bitOf old b then raise t p b else t
  else s

/-- Bits of the page header's events (R46). -/
def evState : Nat := 31
def evCmtApplied : Nat := 30
def evCmtMissed : Nat := 29
def evCmtReject : Nat := 28
def evReqRefused : Nat := 27

/-- The events a page kind defines in bits [26:0]. -/
def blockEvents : PageKind → Word
  | .glb => 0x1 | .isl => 0xF | .cpm => 0x1FF | .sec => 0x3 | .time => 0x7F | .sync => 0x1F1F1F | .tgen => 0x3FF
  | .layr => 0xFF | .geom => 0x1F | .reng => 0x7FF | .scal => 0x3F | .codec => 0x1F | .trim => 0x7FFF | .fade => 0x7
  | .bport => 0x3FF1FFF | .bgrp => 0xF03 | .diag => 0x7F | .hbm => 0x3F | .hbmpc => 0xF | .fab => 0x1 | .pcie => 0x7F
  | .nvme => 0xFFF | .net => 0x7 | .flow => 0xFFFF | .cam => 0x3FFFF | .aud => 0x3FF | .blit => 0xF | .thrm => 0x3F
  | .cal => 0x1F

/-- Every defined event bit of a page (R46): the rest are reserved. -/
def pageEvents (p : Page) : Word :=
  (match p with
    | .codec c => if c.val = 0 then 0x1F else 0xF
    | _ => blockEvents (kindOf p)) ||| 0x88000000 ||| (match domainOf p with
    | .none => 0
    | _ => 0x70000000)

/-! ## Summaries and vectors (R49, R50) -/

/-- A page's summary: the OR of EV_PEND AND EV_EN; 0 while its island is not IDLE or RUN. -/
def summary (s : State) (p : Page) : Bool := pageUp s p && decide (evPend s p &&& evEn s p ≠ 0)

/-- The summary groups that are 1. Only pages with a pending bit can contribute. -/
def sumGroups (s : State) : List Nat :=
  s.evPend.filterMap (fun e => match keyPage e.1 with
    | some p => if summary s p then some (summaryGroup p) else none
    | none => none)

/-- The vectors that the enabled VEC_MAP entries drive from a list of groups. -/
def vectorsOf (s : State) (gs : List Nat) : List Nat :=
  gs.filterMap (fun k =>
    let m := reg s .glb (Off.GLB_VEC_MAP + 4 * k)
    if bitOf m 8 then some (fld m 0 6) else none)

/-- The inputs of the MSI-X vectors: the asserted vectors, in rising order. -/
def vecInputs (s : State) : List Nat :=
  let vs := vectorsOf s (sumGroups s)
  if vs.isEmpty then [] else (List.range 64).filter (fun v => vs.contains v)

/-- Sends vector `v`'s message, or sets its pending bit while it or the function is masked; nothing while MSI-X Enable
is 0 (R50). -/
def sendMsg (s : State) (v : Nat) : State :=
  if !s.msix.enable then s
  else if s.msix.funcMask || !s.msix.unmasked.contains v then
    { s with msix := { s.msix with pend := if s.msix.pend.contains v then s.msix.pend else v :: s.msix.pend } }
  else { s with msix := { s.msix with sent := v :: s.msix.sent } }

/-- Drives the vector inputs from the state: each input that rises sends its message (R50). -/
def settle (s : State) : State :=
  let now := vecInputs s
  let rises := now.filter (fun v => !s.msix.inputs.contains v)
  let t := rises.foldl sendMsg s
  { t with msix := { t.msix with inputs := now } }

/-- The end of every command: the vector inputs follow the events, and the machine goes on. -/
def done (s : State) : Res := .next (settle s)

end Sys2Proof.Machine
end

