-- ==== Sys2Proof/Machine/Mem.lean ====
section
/-!
DEFINITION. HBM as every unit of the device reaches it: the address mapping, availability, check bits, and writes
(spec/15_hbm_controller.md R412, R413, R425, R426, R430, R432).
-/
namespace Sys2Proof.Machine

/-! ## Address mapping (R412) -/

def hbmPc (a : Nat) : Nat := nfld a 8 4 ^^^ nfld a 18 4 ^^^ nfld a 26 4
def hbmBank (a : Nat) : Nat := nfld a 14 4 ^^^ nfld a 22 4
def hbmRow (a : Nat) : Nat := nfld a 18 17
def hbmCol (a : Nat) : Nat := nfld a 12 2 * 8 + nfld a 5 3
def hbmpcPage (n : Nat) : Page := .hbmpc (Fin.ofNat 16 n)

/-! ## Availability -/

/-- Memory units reach HBM: FAB and HBM are both in RUN (R66, R434). -/
def hbmLive (s : State) : Bool := decide (islState s islFab = .run) && decide (islState s islHbm = .run)

/-- Every granule of a span lies in a channel that works (R430). -/
def chanOk (s : State) (a n : Nat) : Bool :=
  decide (s.hbm.chanFailed = 0) || (List.range (min 4096 ((a + n + 255) / 256 - a / 256))).all (fun k =>
    !s.hbm.chanFailed.testBit (hbmPc ((a / 256 + k) * 256) / 2))

/-- An access of `n` bytes at `a` is answered: HBM lives and the bytes exist. -/
def hbmOk (s : State) (a n : Nat) : Bool := hbmLive s && decide (a + n ≤ hbmBytes s) && chanOk s a n

/-- A read of `n` bytes at `a` ends OK (R84, R426). -/
def hbmReadOk (s : State) (a n : Nat) : Bool := hbmOk s a n && !memPoison s a n

/-! ## Check bits (R425, R426) -/

/-- Whether word `w` meets a span. -/
def wordIn (a n w : Nat) : Bool := decide (a < w * 8 + 8) && decide (w * 8 < a + n)

/-- Whether a span covers word `w` whole. -/
def wordFull (a n w : Nat) : Bool := decide (a ≤ w * 8) && decide (w * 8 + 8 ≤ a + n)

/-- What a device read of a span does to the check bits: a single-bit error is corrected, written back with corr_wb, and
raises ECC_CORR; an uncorrectable word raises ECC_POISON. -/
def eccTouch (s : State) (a n : Nat) : State :=
  let wb := decide (forceF s .hbm Off.HBM_CFG 12 1 = 1)
  s.ecc.foldl (fun (t : State) (e : Nat × Nat) =>
    if wordIn a n e.1 = false then t
    else if e.2 = 2 then raise t (hbmpcPage (hbmPc (e.1 * 8))) 1
    else
      let t := raise t (hbmpcPage (hbmPc (e.1 * 8))) 0
      if wb then { t with ecc := mapSet (fun _ => 0) t.ecc e.1 0 } else t) s

/-- Reads of spans. -/
def eccTouchAll (s : State) (l : List (Nat × Nat)) : State := if s.ecc.isEmpty then s else l.foldl (fun t x => eccTouch t x.1 x.2) s

/-- A device reads `n` bytes: status, data (none unless OK), and the check bits' events. -/
def hbmRead (s : State) (a n : Nat) : ReplyStatus × List Byte × State :=
  if hbmOk s a n = false then (.absent, [], s)
  else
    let t := eccTouchAll s [(a, n)]
    if memPoison s a n then (.poison, [], t) else (.ok, memBytes s a n, t)

/-- The words that a write touches are stored with fresh check bits; the other bytes of a word it covers in part are kept,
or stored as 0 where they could not be read (R426). -/
def eccWrite (s : State) (a n : Nat) : State :=
  s.ecc.foldl (fun (t : State) (e : Nat × Nat) =>
    if wordIn a n e.1 = false then t
    else
      let t := { t with ecc := mapSet (fun _ => 0) t.ecc e.1 0 }
      if wordFull a n e.1 then t
      else if e.2 = 2 then
        raise { t with mem := cellsPut t.mem (e.1 * 8) (List.replicate 8 0) } (hbmpcPage (hbmPc (e.1 * 8))) 1
      else raise t (hbmpcPage (hbmPc (e.1 * 8))) 0) s

/-- An armed injection of kind 1 or 2 acts on a write of its word (R432). -/
def injWrite (s : State) (a n : Nat) : State :=
  match s.hbm.inj with
  | some (k, x) =>
    if (k = 1 ∨ k = 2) ∧ wordIn a n (x / 8) = true then
      { s with ecc := mapSet (fun _ => 0) s.ecc (x / 8) k, hbm := { s.hbm with inj := none } }
    else s
  | none => s

/-- Writes bytes to HBM from `a`. -/
def memPut (s : State) (a : Nat) (bs : List Byte) : State :=
  let s := if s.ecc.isEmpty then s else eccWrite s a bs.length
  injWrite { s with mem := cellsPut s.mem a bs } a bs.length

/-- Writes a 32-bit word to HBM. -/
def memPutWord (s : State) (a : Nat) (w : Word) : State := memPut s a (leBytes 4 w.toNat)

/-- Writes many byte lists, in order. -/
def memPutAll (s : State) (l : List (Nat × List Byte)) : State := l.foldl (fun t x => memPut t x.1 x.2) s

/-- Writes of a unit; one that cannot be made ends ABSENT and changes nothing (R84). -/
def hbmPut (s : State) (l : List (Nat × List Byte)) : State :=
  l.foldl (fun t x => if hbmOk t x.1 x.2.length then memPut t x.1 x.2 else t) s

end Sys2Proof.Machine
end

