-- ==== Sys2Proof/Machine/Grid.lean ====
section
/-!
DEFINITION. Units of time, comparisons of times, the latch grids of the timing generators and the levels that follow them
(spec/04_time_and_sync.md R91, R97, R98, spec/05_output_timing.md R126 to R132, R150).
-/
namespace Sys2Proof.Machine

/-! ## Units of time -/

/-- 2^-32 ns in one second, and the count at which the seconds field wraps (R91). -/
def nsPerSec : Nat := 1000000000
def baseSec : Nat := nsPerSec * 2 ^ 32
def baseWrap : Nat := 2 ^ 48 * baseSec

/-- The time base in 2^-16 ns, as a stamp carries it. -/
def now16 (s : State) : Nat := s.time.now / 2 ^ 16

/-- The time base in ns, exactly. -/
def nowNs (s : State) : Rat := mkRat s.time.now (2 ^ 32)

/-- Seconds, nanoseconds and fraction of a stamp in 2^-16 ns. -/
def stampSec (t : Nat) : Nat := t / (nsPerSec * 2 ^ 16)
def stampNs (t : Nat) : Nat := t / 2 ^ 16 % nsPerSec
def stampFrac (t : Nat) : Nat := t % 2 ^ 16

/-- d = a - b of R97 in 2^-16 ns; only seconds[31:0] take part. -/
def timeDiff (aSec aSub bSec bSub : Nat) : Int :=
  signed 32 (aSec % 2 ^ 32 + 2 ^ 32 - bSec % 2 ^ 32) * ((nsPerSec * 2 ^ 16 : Nat) : Int) + ((aSub : Int) - (bSub : Int))

/-- The time base minus a time named by seconds[31:0] and nanoseconds (R97), 2^-16 ns. -/
def sinceTime (s : State) (sec ns : Nat) : Int :=
  timeDiff (stampSec (now16 s)) (now16 s % (nsPerSec * 2 ^ 16)) sec (ns * 2 ^ 16)

/-- Frame `m` is at or after frame `n` (R98). -/
def frameGe (m n : Word) : Bool := decide (0 ≤ (m - n).toInt)

/-! ## Generators and trackers -/

/-- A generator's state. -/
def tgen (s : State) (g : Nat) : Tgen := mapGet (fun _ => Tgen.initial) s.tgen g
def setTgen (s : State) (g : Nat) (v : Tgen) : State := { s with tgen := mapSet (fun _ => Tgen.initial) s.tgen g v }

/-- A reference input tracker: 0 FSYNC_IN, 1 PPS_IN, 2 REF_IN. -/
def tracker (s : State) (k : Nat) : Tracker := mapGet (fun _ => Tracker.initial) s.trackers k
def setTracker (s : State) (k : Nat) (v : Tracker) : State :=
  { s with trackers := mapSet (fun _ => Tracker.initial) s.trackers k v }

/-- A tracker's register in force; its block lies at 0x100 + 0x40 k (R122). -/
def trk (s : State) (k off : Nat) : Word := force s .sync (off + 0x40 * k)

/-- The nominal period of a tracker's edges, 2^-16 ns (R113, R122). -/
def trkNominal (s : State) (k : Nat) : Nat :=
  (if k = 0 then (trk s 0 Off.SYNC_NOMINAL).toNat else if k = 1 then 1000000000 else 1000000) * 2 ^ 16

/-! ## Periods and grids (R126 to R129) -/

/-- TGEN g's page. -/
def tgenPage (g : Nat) : Page := .tgen (Fin.ofNat 16 g)

/-- A field of TGEN g in force. -/
def tgF (s : State) (g off lo len : Nat) : Nat := forceF s (tgenPage g) off lo len

/-- The group's TGEN is in RUN (R139). -/
def tgenRuns (s : State) (g : Nat) : Bool := decide ((tgen s g).gen = .run)

/-- The exact period of a rate code 1 to 22, ns (R126). -/
def ratePeriod : Nat → Rat
  | 1 => mkRat 1001000000000 24000
  | 2 => mkRat 1000000000 24
  | 3 => mkRat 1000000000 25
  | 4 => mkRat 1001000000000 30000
  | 5 => mkRat 1000000000 30
  | 6 => mkRat 1001000000000 48000
  | 7 => mkRat 1000000000 48
  | 8 => mkRat 1000000000 50
  | 9 => mkRat 1001000000000 60000
  | 10 => mkRat 1000000000 60
  | 11 => mkRat 1000000000 72
  | 12 => mkRat 1000000000 90
  | 13 => mkRat 1000000000 96
  | 14 => mkRat 1000000000 100
  | 15 => mkRat 1001000000000 120000
  | 16 => mkRat 1000000000 120
  | 17 => mkRat 1000000000 144
  | 18 => mkRat 1000000000 150
  | 19 => mkRat 1000000000 180
  | 20 => mkRat 1000000000 200
  | 21 => mkRat 1001000000000 240000
  | 22 => mkRat 1000000000 240
  | _ => 0

/-- The period that rate fields name (R126). -/
def periodOf (rate pns pfrac : Nat) : Rat :=
  if rate = 0 then (pns : Rat) + mkRat pfrac 65536 else ratePeriod rate

/-- P, where the latch at hand does (`on`) or does not lie on the tracker's edges: under FSYNC the tracker's locked period, or NOMINAL;
the last period where a rate change was refused (R126, R144). -/
def periodAt (s : State) (g : Nat) (on : Bool) : Rat :=
  if tgF s g Off.TGEN_MODE 5 2 = 2 then
    if (tgen s g).refused then (tgen s g).period
    else if on = true ∧ 2 ≤ (tracker s 0).st then mkRat (tracker s 0).period (2 ^ 16)
    else mkRat (trkNominal s 0) (2 ^ 16)
  else periodOf (tgF s g Off.TGEN_MODE 0 5) (tgF s g Off.TGEN_PERIOD_NS 0 26) (tgF s g Off.TGEN_PERIOD_FRAC 0 16)

/-- P in force for the latch scheduled last. -/
def periodNow (s : State) (g : Nat) : Rat := periodAt s g (tgen s g).schedOn

/-- The grid of the source in force: an instant of it and its spacing; none under FREE, and under FSYNC without a locked or predicted
tracker, or with a refused one (R128, R129). -/
def gridOf (s : State) (g : Nat) : Option (Rat × Rat) :=
  let ofs : Rat := (tgF s g Off.TGEN_LATCH_OFS 0 26 : Rat)
  match tgF s g Off.TGEN_MODE 5 2 with
  | 1 => some (ofs, periodNow s g)
  | 2 => if (tgen s g).refused then none
         else match (tracker s 0).out with
           | some o => if 2 ≤ (tracker s 0).st then some (mkRat o (2 ^ 16) + ofs, mkRat (tracker s 0).period (2 ^ 16)) else none
           | none => none
  | _ => none

/-- The first grid instant at or after `t`. -/
def gridFrom (gr : Rat × Rat) (t : Rat) : Rat := gr.1 + ((ratCeil ((t - gr.1) / gr.2) : Int) : Rat) * gr.2

/-- The nearest grid instant; midway, the later (R142). -/
def gridNear (gr : Rat × Rat) (t : Rat) : Rat :=
  let lo := gr.1 + ((ratFloor ((t - gr.1) / gr.2) : Int) : Rat) * gr.2
  if t - lo < lo + gr.2 - t then lo else lo + gr.2

/-- The frame whose close comes next (R134). -/
def nextClose (t : Tgen) : Word := t.closed + 1

/-- The plan of a frame. -/
def planOf (t : Tgen) (f : Word) : Option FramePlan := t.plans.find? (fun p => decide (p.frame = f))

/-- An instant lies on the EPOCH grid in force. -/
def onEpoch (s : State) (g : Nat) (l : Rat) : Bool :=
  decide (tgF s g Off.TGEN_MODE 5 2 = 1) && (match gridOf s g with
    | some gr => decide (gridNear gr l = l)
    | none => false)

/-- The instant of the last latch on the time base as it runs now (R143). -/
def lastLatch (t : Tgen) : Rat := ((planOf t t.cur).map (·.latch)).getD t.latch

/-- STAT.src_state (R129). The latch is off the EPOCH grid where the last latch of a running generator is, and while a realignment lasts;
that a generator without a latch of its own since its start reads LOCKED is DEDUCED, since no latch is off the grid. Where the servo is in
HOLDOVER and the latch is being realigned too, rows 1 and 3 of R129's table both fit, and 3 is shown (DESIGN CHOICE, log 62). -/
def srcState (s : State) (g : Nat) : Nat :=
  let t := tgen s g
  match tgF s g Off.TGEN_MODE 5 2 with
  | 1 => if s.time.srv = 0 then 0 else if s.time.srv = 3 then 3
         else if t.realigning then 1
         else match planOf t t.cur with
           | some p => if t.gen = .stopped ∨ onEpoch s g p.latch = true then 2 else 1
           | none => 2
  | 2 => if (tracker s 0).st < 2 then 0
         else if t.refused ∨ (tracker s 0).st = 3 then 3
         else if t.realigning = false ∧ (t.gen = .stopped ∨ t.onTrk = true) then 2 else 1
  | _ => 0

/-! ## Shutters (R132, R133) -/

/-- Bit n of SHUT_CLAIM in force in a group that exists. -/
def shutClaims (s : State) (n g : Nat) : Bool :=
  islandPresent s.part (islPgrp g) && bitOf (force s (tgenPage g) Off.TGEN_SHUT_CLAIM) n

/-- The group that drives SHUTn: the lowest-numbered that claims it. -/
def shutOwner (s : State) (n : Nat) : Option Nat := (List.range 16).find? (shutClaims s n)

/-- SHUT_CONFLICT of group g: it claims a pin that a lower group drives. -/
def shutConflict (s : State) (g : Nat) : Bool :=
  (List.range 4).any (fun n => shutClaims s n g && decide (shutOwner s n ≠ some g))

/-- The level events of TGEN g (R150), where its pages answer. -/
def tgenLevels (s : State) (g : Nat) : State :=
  let p := tgenPage g
  if islandUp s (islPgrp g) = false then s
  else
  let s := setLevel s p 2 (decide (srcState s g = 2))
  let s := setLevel s p 3 (decide (srcState s g = 3))
  let s := setLevel s p 6 (tgen s g).realigning
  setLevel s p 7 (shutConflict s g)

/-- The level events of every generator. -/
def allTgenLevels (s : State) : State := (List.range 16).foldl tgenLevels s

end Sys2Proof.Machine
end

