-- ==== Sys2Proof/Machine/TimeSync.lean ====
section
/-!
DEFINITION. The time base, its servo, the reference input trackers and the schedule slots' arming
(spec/04_time_and_sync.md R91 to R123).
-/
namespace Sys2Proof.Machine

/-! ## The time base (R92, R99, R100) -/

/-- INC for an adjustment f (raw s24.16 ppb), in 2^-32 ns (R92). -/
def incOf (f : Int) : Int := halfEven (40 * 2 ^ 32 * (1000000000 * 65536 + f)) (1000000000 * 65536)

/-- SRV_FMAX in force, raw s24.16 ppb. -/
def srvFmax (s : State) : Int := (forceF s .time Off.TIME_SRV_FMAX 0 20 : Int) * 65536

/-- A slew has something left to cover (R99). -/
def slewRuns (s : State) : Bool := s.time.slewing && decide (s.time.slewLeft ≠ 0)

/-- f in force: the servo's, or, until its offset is covered, the slew's (R99). -/
def fInForce (s : State) : Int :=
  if slewRuns s then (if s.time.slewLeft < 0 then - srvFmax s else srvFmax s) else s.time.f

/-- Moves the time base by a signed count of 2^-32 ns, with the carries and the wrap of R91. -/
def moveBase (s : State) (d : Int) : State :=
  { s with time := { s.time with now := (((s.time.now : Int) + d) % (baseWrap : Int)).toNat } }

/-- One AON edge. A slew's last edge is trimmed to cover ADJ_OFFSET exactly (R99). -/
def tickOnce (s : State) : State :=
  let inc := incOf (fInForce s)
  if slewRuns s then
    let gain := inc - incOf 0
    let cover := if gain.natAbs < s.time.slewLeft.natAbs then gain else s.time.slewLeft
    let t := moveBase s (incOf 0 + cover)
    { t with time := { t.time with slewLeft := s.time.slewLeft - cover } }
  else moveBase s inc

/-- AON edges. -/
def tickMany : Nat → State → State
  | 0, s => s
  | n + 1, s => tickMany n (tickOnce s)

/-- The level events of the servo (R121). -/
def srvLevels (s : State) : State :=
  setLevel (setLevel s .time 2 (decide (s.time.srv = 2))) .time 3 (decide (s.time.srv = 3))

/-- A step shifts every scheduled latch with the time base, so none moves in real time (R143); the stamp of the last latch
is not altered (R100). -/
def shiftTgen (d : Rat) (t : Tgen) : Tgen :=
  { t with stepped := true, sched := t.sched + d, plans := t.plans.map (fun p => { p with latch := p.latch + d }) }

/-- A pulse in progress keeps its width in real time. -/
def shiftPulse (d : Rat) (x : Nat × Rat × Rat × Bool) : Nat × Rat × Rat × Bool := (x.1, x.2.1 + d, x.2.2.1 + d, x.2.2.2)

/-- The end of a pulse on a GPIO likewise, `d` in 2^-32 ns. -/
def shiftGpio (d : Int) (v : Gpio) : Gpio := { v with pulseEnd := v.pulseEnd.map (fun (e : Nat) => ((e : Int) + d / 2 ^ 16).toNat) }

/-- What a tracker predicts and has put out likewise, `d` in 2^-16 ns, so that the next edge is judged as without the step; the stamp that
EDGE_NS shows is not altered (R100; DEDUCED from R143: under FSYNC nothing further happens, log 60). -/
def shiftTracker (d : Int) (t : Tracker) : Tracker :=
  let mv (x : Nat) : Nat := ((x : Int) + d).toNat
  { t with last := t.last.map mv, good := t.good.map mv, out := t.out.map mv, predicted := mv t.predicted }

/-- A step of the time base by `d` (2^-32 ns): TIME_STEP, the shift of scheduled latches, of pulses in progress and of the trackers'
edges, the servo's next sample taken as a first one, and, for a host's step under a source that is not free, ACQUIRE (R100, R106). -/
def stepBase (s : State) (d : Int) (host : Bool) : State :=
  let t := raise (moveBase s d) .time 1
  let t := { t with shutPulses := t.shutPulses.map (shiftPulse (mkRat d (2 ^ 32)))
                    camPulses := t.camPulses.map (shiftPulse (mkRat d (2 ^ 32)))
                    gpio := t.gpio.map (fun (e : Nat × Gpio) => (e.1, shiftGpio d e.2)) }
  let t := [0, 1, 2].foldl (fun (u : State) k => if (tracker u k).st = 0 then u else setTracker u k (shiftTracker (d / 2 ^ 16) (tracker u k))) t
  let t := t.tgen.foldl (fun (u : State) (e : Nat × Tgen) => setTgen u e.1 (shiftTgen (mkRat d (2 ^ 32)) e.2)) t
  let acq := host && decide (forceF s .time Off.TIME_SRV_CTRL 0 3 ≠ 0)
  allTgenLevels (srvLevels { t with time := { t.time with
    first := true
    srv := if acq then 1 else t.time.srv
    lowRun := if acq then 0 else t.time.lowRun
    highRun := if acq then 0 else t.time.highRun } })

/-- A TCTRL operation discards the servo sample that would act on its edge (R101). -/
def dropSample (s : State) : State := { s with time := { s.time with sample := none } }

/-- A second TCTRL write ends a slew (R101). -/
def endSlew (s : State) : State := { s with time := { s.time with slewing := false, slewLeft := 0 } }

/-- TCTRL.set (R99). -/
def timeSet (s : State) : State :=
  let sec := fld (reg s .time Off.TIME_SET_SEC_HI) 0 16 * 2 ^ 32 + (reg s .time Off.TIME_SET_SEC_LO).toNat
  let want : Nat := sec * baseSec + regF s .time Off.TIME_SET_NS 0 30 * 2 ^ 32
  stepBase (dropSample (endSlew s)) (Int.ofNat want - Int.ofNat s.time.now) true

/-- TCTRL.add (R99). -/
def timeAdd (s : State) : State :=
  stepBase (dropSample (endSlew s)) (signed 32 (reg s .time Off.TIME_ADJ_OFFSET).toNat * 2 ^ 32) true

/-- TCTRL.slew (R99): an offset of 0, or an SRV_FMAX in force of 0, ends at once. -/
def timeSlew (s : State) : State :=
  let o := signed 32 (reg s .time Off.TIME_ADJ_OFFSET).toNat
  let s := dropSample s
  if o = 0 ∨ srvFmax s = 0 then endSlew s
  else { s with time := { s.time with slewing := true, slewLeft := o * 2 ^ 32 } }

/-- A write of TCTRL: the lowest-numbered of its bits acts (R99). -/
def writeTctrl (s : State) (v : Word) : State :=
  if bitOf v 0 then timeSet s else if bitOf v 1 then timeAdd s else if bitOf v 2 then timeSlew s else s

/-- AON edges: the time base advances, and the power-on time with it (R92, R576). -/
def aonTick (s : State) (edges : Nat) : State :=
  let s := tickMany edges s
  { s with last := { s.last with onEdges := s.last.onEdges + edges } }

/-- R92. -/
def execTimeBaseTick (edges : Nat) (s : State) : Res := done (aonTick s edges)

/-- R99. -/
def execTimeSet (s : State) : Res := done (timeSet s)

/-- R99. -/
def execTimeAdd (s : State) : Res := done (timeAdd s)

/-- R99. -/
def execTimeSlew (s : State) : Res := done (timeSlew s)

/-- R99: the offset is covered; f has returned to the servo with its last edge (`fInForce`), and the slew is over. -/
def execTimeSlewEnd (s : State) : Res :=
  done (if s.time.slewing && decide (s.time.slewLeft = 0) then endSlew s else s)

/-- Captures a word for the next read of a register (R65, R94). -/
def capture (s : State) (p : Page) (off : Nat) (v : Nat) : State :=
  { s with captures := mapSet (fun _ => none) s.captures (regKey p off 0) (some (BitVec.ofNat 32 v)) }

/-- A read of NOW_NS: its value, and the captures of the seconds and the fraction from the same edge (R94). -/
def nowNsRead (s : State) : State :=
  let t := now16 s
  let s := capture s .time Off.TIME_NOW_SEC_LO (stampSec t)
  let s := capture s .time Off.TIME_NOW_SEC_HI (stampSec t / 2 ^ 32 % 2 ^ 16)
  let s := capture s .time Off.TIME_NOW_FRAC (stampFrac t)
  { s with lastRead := BitVec.ofNat 32 (stampNs t) }

/-- R94. -/
def execNowNsRead (s : State) : Res := done (nowNsRead s)

/-! ## The servo (R105 to R107) -/

/-- Enters a servo state, with its runs of samples counted anew. -/
def enterSrv (s : State) (st : Nat) : State :=
  let tm := s.time
  allTgenLevels (srvLevels { s with time := { tm with srv := st, lowRun := 0, highRun := 0, everLocked := tm.everLocked || decide (st = 2) } })

/-- The time since the previous sample used, raw u8.16 s; the source's nominal interval where there is none; never
below 2^-16 s (R106). `log` is the Sync's logMessageInterval. -/
def srvInterval (s : State) (log : Int) : Nat :=
  if s.time.first then
    if forceF s .time Off.TIME_SRV_CTRL 0 3 = 1 then
      (if log < 0 then 2 ^ 16 / 2 ^ (min 7 log.natAbs) else 2 ^ 16 * 2 ^ (min 1 log.natAbs))
    else 2 ^ 16
  else
    let d := (now16 s - s.time.lastUsed) / nsPerSec
    max 1 (d % 2 ^ 24)

/-- One value of f: it becomes f and f_prev and joins the history (R106, R107). -/
def setF (s : State) (f integ : Int) : State :=
  { s with time := { s.time with f := f, fPrev := f, integ := integ, fHist := (f :: s.time.fHist).take 64 } }

/-- Steps are allowed (R106). -/
def stepOk (s : State) : Bool :=
  bitOf (force s .time Off.TIME_SRV_CTRL) 4 && (!s.time.everLocked || bitOf (force s .time Off.TIME_SRV_CTRL) 5)

/-- The computation of R106 on offset `o` (raw s32.16) and interval `t` (raw u8.16), f and integ as they stand. With
source 3, REF_IN supplies the integral and the PPS samples supply p only. -/
def srvCompute (s : State) (o : Int) (t : Nat) : State :=
  let kp := (forceF s .time Off.TIME_SRV_KP 0 16 : Int)
  let ki := if forceF s .time Off.TIME_SRV_CTRL 0 3 = 3 then 0 else (forceF s .time Off.TIME_SRV_KI 0 16 : Int)
  let fmax := srvFmax s
  let oc := sat o (-1000000 * 65536) (1000000 * 65536)
  let p := halfEven (kp * oc) t
  let i := halfEven (ki * oc) t
  let integ := sat (s.time.integ - i) (-fmax) fmax
  let tgt := sat (integ - p) (-fmax) fmax
  let lim := halfEven ((forceF s .time Off.TIME_SRV_SLEW 0 20 : Int) * t) 1
  setF s (sat tgt (s.time.fPrev - lim) (s.time.fPrev + lim)) integ

/-- The runs of small and large samples, and the transitions they make (R107). -/
def srvRuns (s : State) (o : Int) : State :=
  let lock := (forceF s .time Off.TIME_SRV_LOCK_THR 0 20 : Int) * 65536
  let unlock := (forceF s .time Off.TIME_SRV_UNLOCK_THR 0 20 : Int) * 65536
  let low := if (o.natAbs : Int) ≤ lock then s.time.lowRun + 1 else 0
  let high := if unlock < (o.natAbs : Int) then s.time.highRun + 1 else 0
  let t := { s with time := { s.time with lowRun := low, highRun := high } }
  if t.time.srv = 1 ∧ 16 ≤ low then enterSrv t 2
  else if t.time.srv = 2 ∧ 4 ≤ high then enterSrv t 1
  else t

/-- A phase sample reaches the servo (R106, R107). In FREE, and during a slew (R99), no sample is applied. The runs of
samples count every sample, one that steps included. -/
def servoSample (s : State) (o log : Int) : State :=
  let s := { s with time := { s.time with sample := none } }
  if slewRuns s = true ∨ s.time.srv = 0 then s
  else
    let unlock := (forceF s .time Off.TIME_SRV_UNLOCK_THR 0 20 : Int) * 65536
    let thr := ((force s .time Off.TIME_SRV_STEP_THR).toNat : Int) * 65536
    let back := decide (s.time.srv = 3)
    let s := if back then enterSrv { s with time := { s.time with first := true } } (if unlock < (o.natAbs : Int) then 1 else 2)
             else s
    let s := { s with time := { s.time with offset := o } }
    if decide (s.time.srv = 1) && stepOk s && decide (thr < (o.natAbs : Int)) then
      srvRuns (stepBase s (-o * 2 ^ 16) false) o
    else
      let t := srvInterval s log
      let u := srvCompute s o t
      let u := { u with time := { u.time with first := false, lastUsed := now16 s } }
      srvRuns u o

/-- R106: the sample on its way reaches the servo. -/
def execServoSample (s : State) : Res :=
  done (match s.time.sample with
    | some (o, log) => servoSample s o log
    | none => s)

/-- HOLDOVER: f frozen at the mean of its last 64 values since the source commit, integ := f (R107). -/
def servoHold (s : State) : State :=
  if s.time.srv = 1 ∨ s.time.srv = 2 then
    let m := if s.time.fHist.isEmpty then s.time.f else halfEven (s.time.fHist.foldl (· + ·) 0) s.time.fHist.length
    enterSrv { s with time := { s.time with f := m, fPrev := m, integ := m } } 3
  else s

/-- R107: no sample for SRV_HOLD. A sample that arrives on the same edge wins (R87). -/
def execServoHoldTimeout (s : State) : Res := done (if s.time.sample.isSome then s else servoHold s)

/-- A change of source takes effect at its commit: FREE for source 0, ACQUIRE for any other (R105). -/
def servoSourceCommit (s : State) : State :=
  let src := forceF s .time Off.TIME_SRV_CTRL 0 3
  let t := { s with time := { s.time with first := true, fHist := [], everLocked := false, sample := none } }
  enterSrv t (if src = 0 then 0 else 1)

/-! ## Reference input trackers (R108 to R113) -/

/-- Two periods agree within `tol` ppm of the second. -/
def within (tol a b : Nat) : Bool := decide ((((a : Int) - (b : Int)).natAbs) * 1000000 ≤ tol * b)

/-- The level events of a tracker (R123). -/
def trkLevels (s : State) (k : Nat) : State :=
  let st := (tracker s k).st
  setLevel (setLevel s .sync (8 * k) (decide (st = 2))) .sync (8 * k + 1) (decide (st = 3))

/-- The frequency error e of the time base against REF_IN, raw s24.16 ppb, positive when the time base runs fast: the REF_IN tracker's
locked period, counted on the time base, against its NOMINAL; none while that tracker is not LOCKED (R106, R113). The spec does not say
over which interval e is measured: the mean of the last 8 tracker edges is the period the tracker hands to the servo (log 61). -/
def refError (s : State) : Option Int :=
  let t := tracker s 2
  if t.st = 2 then some (((t.period : Int) - (trkNominal s 2 : Int)) * 1000) else none

/-- The frequency error is applied to the integrator once per second (R106). With source 3 the PPS samples alone are the servo's samples:
nothing is applied in HOLDOVER, where f is frozen. With source 4 there is no proportional term, f follows the integrator, and the error
is the servo's sample, with an o of 0: it ends HOLDOVER and counts in the runs of R107 (DESIGN CHOICE, log 61). -/
def servoFreq (s : State) : State :=
  let src := forceF s .time Off.TIME_SRV_CTRL 0 3
  match refError s with
  | none => s
  | some e =>
    if slewRuns s = true ∨ (src ≠ 3 ∧ src ≠ 4) ∨ s.time.srv = 0 ∨ (src = 3 ∧ s.time.srv = 3) then s
    else
      let fmax := srvFmax s
      let integ := sat (s.time.integ - e) (-fmax) fmax
      if src = 4 then
        let s := if s.time.srv = 3 then enterSrv s 2 else s
        let lim := (forceF s .time Off.TIME_SRV_SLEW 0 20 : Int) * 65536
        srvRuns (setF s (sat integ (s.time.fPrev - lim) (s.time.fPrev + lim)) integ) 0
      else { s with time := { s.time with integ := integ } }

/-- R106. The row has no operand of its own: e comes from the REF_IN tracker. -/
def execServoFreqSample (_row : Unit) (s : State) : Res := done (servoFreq s)

/-- A new EN in force: OFF, or QUALIFY from OFF (R110). No latch lies on the edges of an FSYNC_IN tracker that is OFF (R129). -/
def trkCommit (s : State) (k : Nat) : State :=
  let en := bitOf (trk s k Off.SYNC_CFG) 0
  let t := tracker s k
  let t' := if !en then Tracker.initial else if t.st = 0 then { Tracker.initial with st := 1 } else t
  let s := if k = 0 ∧ en = false then
      s.tgen.foldl (fun (u : State) (e : Nat × Tgen) => setTgen u e.1 { e.2 with
        onTrk := false, schedOn := false, plans := e.2.plans.map (fun q => { q with grid := false }) }) s
    else s
  allTgenLevels (trkLevels (setTracker s k t') k)

/-- The delay taps have been calibrated (R96): the calibration's first pass has completed. -/
def tapsCalibrated (s : State) : Bool := s.calDone

/-- The stamp of an edge that reached the ball at `x`, 2^-16 ns (R96): truncated to an AON edge until the taps are calibrated, and to
1/256 of an AON period, 10,240 units, from then on. The grid is that of the present AON edge (DEDUCED: that the interpolator truncates
too, log 60). -/
def stampOf (s : State) (x : Nat) : Nat :=
  let unit : Int := if tapsCalibrated s then 10240 else 40 * 2 ^ 16
  ((now16 s : Int) + ((x : Int) - (now16 s : Int)) / unit * unit).toNat

/-- The mean of the last periods. -/
def meanPeriod (l : List Nat) : Nat := if l.isEmpty then 0 else (halfEven (l.foldl (· + ·) 0 : Nat) l.length).toNat

/-- A PPS edge's sample: its stamp modulo one second, wrapped to -0.5 to +0.5 s, raw s32.16 ns (R105). -/
def ppsOffset (t : Nat) : Int :=
  let m := t % (nsPerSec * 2 ^ 16)
  if m * 2 ≤ nsPerSec * 2 ^ 16 then (m : Int) else (m : Int) - ((nsPerSec * 2 ^ 16 : Nat) : Int)

/-- How many predicted edges have passed, their windows over, by the instant `x`. -/
def missedBy (t : Tracker) (win x : Nat) : Nat :=
  if t.period = 0 ∨ x ≤ t.predicted + win then 0 else (x - t.predicted - win + t.period - 1) / t.period

/-- The predictions that have passed by `x` are missed, and the next one stands (R110). -/
def trkMiss (t : Tracker) (win x : Nat) : Tracker :=
  let n := missedBy t win x
  { t with predicted := t.predicted + n * t.period, miss := t.miss + n }

/-- The half window of a tracker in force, 2^-16 ns (R109, R122). -/
def trkWin (s : State) (k : Nat) : Nat := fld (trk s k Off.SYNC_WINDOW) 0 20 * 2 ^ 16

/-- Into HOLDOVER at the instant `x`: the output edges go on at the last period in the phase they have (R110). -/
def trkHold (t : Tracker) (x : Nat) : Tracker :=
  { t with st := 3, stable := 0, change := 0, miss := 0, newRate := false
           out := t.out.map (fun o => if t.period = 0 ∨ x < o then o else o + (x - o) / t.period * t.period) }

/-- stop_n consecutive predicted edges have passed by `x` without an in-window edge: STOP, and HOLDOVER (R110). -/
def trkStopAt (s : State) (k x : Nat) : State :=
  let t := trkMiss (tracker s k) (trkWin s k) x
  if (tracker s k).st = 2 ∧ fld (trk s k Off.SYNC_CFG) 20 4 ≤ t.miss then
    allTgenLevels (trkLevels (raise (setTracker s k (trkHold t x)) .sync (8 * k + 3)) k)
  else s

/-- An edge is stable (R110): its period from the last passed edge lies within TOL of the period before it, within TOL of NOMINAL where
no rate change is followed, and in the range that R113 accepts: within TOL of NOMINAL in any case for PPS_IN and REF_IN. -/
def trkStable (s : State) (k : Nat) (p pp : Nat) : Bool :=
  let tol := fld (trk s k Off.SYNC_TOL) 0 16
  let follow := bitOf (trk s k Off.SYNC_CFG) 24
  within tol p pp && ((follow && decide (k = 0)) || within tol p (trkNominal s k))
    && (decide (k ≠ 0) || (decide (4000000 * 2 ^ 16 ≤ p) && decide (p ≤ 50000000 * 2 ^ 16)))

/-- The phase error of an entry to LOCKED, with locked period `p` and an output edge due one period `due` after the last: output edge
minus input edge, of the output edge nearest to the input edge `e` (R112; that it is the nearest is a DESIGN CHOICE, log 60). -/
def phaseErrOf (out : Option Nat) (due p e : Nat) : Int :=
  match out with
  | none => 0
  | some o =>
    let m := ((o : Int) + due - e) % (p : Int)
    if m * 2 ≤ (p : Int) then m else m - p

/-- A passed edge stamped `e` at a tracker that is not OFF: its judgement (R109 to R111). An out-of-window edge is a glitch: it enters
neither the output, nor the locked period, nor the prediction, and counts as a passed edge for stability alone. The locked period
averages the periods between in-window edges with no predicted edge missed between them. -/
def trkJudge (s : State) (k e : Nat) : State :=
  let q := fld (trk s k Off.SYNC_CFG) 16 4
  let follow := bitOf (trk s k Off.SYNC_CFG) 24
  let t0 := tracker s k
  let per := t0.last.map (fun l => e - l)
  let stable := match per, t0.prevPeriod with
    | some p, some pp => trkStable s k p pp
    | _, _ => false
  let p := per.getD 0
  let t := if t0.st = 1 then t0 else trkMiss t0 (trkWin s k) e
  let base := { t with edge := some e, last := some e, prevPeriod := per }
  let lock (due : Nat) (err : Bool) (r : Nat) (new : Bool) : State :=
    allTgenLevels (trkLevels (setTracker s k { base with
      st := 2, stable := 0, change := 0, miss := 0, last8 := [p], period := r, predicted := e + r, good := some e, newRate := new
      out := if err then t.out else some e, phaseErr := if err then phaseErrOf t.out due r e else 0 }) k)
  if t.st = 1 then
    let n := if stable then t.stable + 1 else 0
    if q ≤ n then lock 0 false p false else setTracker s k { base with stable := n }
  else
    let inWin := decide (((e : Int) - (t.predicted : Int)).natAbs ≤ trkWin s k)
    let differs := !within (fld (trk s k Off.SYNC_TOL) 0 16) p t.period
    let ch := if stable && differs then t.change + 1 else 0
    let same := if stable && !differs then t.stable + 1 else 0
    let changed := decide (q ≤ ch)
    let ev (u : State) : State := raiseIf changed .sync (8 * k + 4) (raiseIf (!inWin) .sync (8 * k + 2) u)
    if changed then
      if follow then ev (lock t.period true p true)
      else ev (allTgenLevels (trkLevels (setTracker s k (trkHold base e)) k))
    else if t.st = 2 then
      if inWin then
        let l8 := if t.miss = 0 then ((t.good.map (fun g => e - g)).toList ++ t.last8).take 8 else t.last8
        let m := meanPeriod l8
        let u := ev (setTracker s k { base with
          stable := same, change := ch, miss := 0, last8 := l8, period := m, predicted := e + m, good := some e })
        if k = 1 ∧ (forceF s .time Off.TIME_SRV_CTRL 0 3 = 2 ∨ forceF s .time Off.TIME_SRV_CTRL 0 3 = 3) then
          { u with time := { u.time with sample := some (ppsOffset e, 0) } }
        else u
      else ev (setTracker s k { base with stable := same, change := ch })
    else if q ≤ same then ev (lock t.period true t.period false)
    else ev (setTracker s k { base with stable := same, change := ch })

/-- A passed edge stamped `e`: STOP where too many predicted edges have passed before it (R110), and then its judgement. -/
def trkEdge (s : State) (k e : Nat) : State :=
  if (tracker s k).st = 0 then s else trkJudge (trkStopAt s k e) k e

/-- A pulse of `width` AON clocks passes as an edge: not below deglitch (R108), and at PPS_IN from 1 µs to 500 ms (R113). -/
def widthOk (s : State) (k width : Nat) : Bool :=
  decide (fld (trk s k Off.SYNC_CFG) 8 8 ≤ width) && (decide (k ≠ 1) || (decide (25 ≤ width) && decide (width ≤ 12500000)))

/-- An edge at an input: its polarity, its width in AON clocks, and its instant at the ball, 2^-16 ns (R96, R108). At REF_IN every 10,000th
cycle of the input is a tracker edge (R113). -/
def refEdge (s : State) (k : Nat) (falling : Bool) (width stamp : Nat) : State :=
  let t := tracker s k
  if t.st = 0 ∨ widthOk s k width = false ∨ falling ≠ bitOf (trk s k Off.SYNC_CFG) 1 then s
  else if k = 2 ∧ t.cycles + 1 < 10000 then setTracker s k { t with cycles := t.cycles + 1 }
  else trkEdge (setTracker s k { t with cycles := 0 }) k (stampOf s stamp)

/-- The generators whose MODE.source in force is FSYNC. -/
def fsyncGroups (s : State) : List Nat :=
  (List.range 16).filter (fun g =>
    match pageOfSlot (0x30 + g) with
    | some p => decide (forceF s p Off.TGEN_MODE 5 2 = 2)
    | none => false)

/-- R108 to R111. -/
def execRefInputEdge (k : Fin 3) (falling : Bool) (width stamp : Nat) (s : State) : Res :=
  done (refEdge s k.val falling width stamp)

/-- The REF_IN loss detector: STOP at once, without waiting for stop_n (R113). -/
def trkLoss (s : State) (k : Nat) : State :=
  if (tracker s k).st = 2 then allTgenLevels (trkLevels (raise (setTracker s k (trkHold (tracker s k) (now16 s))) .sync (8 * k + 3)) k) else s

/-- R110: stop_n predicted edges have passed, judged at the present time. -/
def execTrackerStop (k : Fin 3) (s : State) : Res := done (trkStopAt s k.val (now16 s))

/-- R113. -/
def execRefInLoss (s : State) : Res := done (trkLoss s 2)

/-- R122: EDGE_NS captures EDGE_SEC and EDGE_FRAC of the same stamp. -/
def execSyncEdgeNsRead (k : Fin 3) (s : State) : Res :=
  let e := (tracker s k.val).edge.getD 0
  let s := capture s .sync (Off.SYNC_EDGE_SEC + 0x40 * k.val) (stampSec e)
  let s := capture s .sync (Off.SYNC_EDGE_FRAC + 0x40 * k.val) (stampFrac e)
  done { s with lastRead := BitVec.ofNat 32 (stampNs e) }

/-! ## Schedule slots: arming (R114, R117) -/

def slot (s : State) (k : Nat) : Slot := mapGet (fun _ => Slot.initial) s.slots k
def setSlot (s : State) (k : Nat) (v : Slot) : State := { s with slots := mapSet (fun _ => Slot.initial) s.slots k v }

/-- The SLOT level: any bit of SLOT_PEND AND SLOT_IE (R121). -/
def slotLevel (s : State) : State :=
  let on := reg s .time Off.TIME_SLOT_PEND_LO &&& reg s .time Off.TIME_SLOT_IE_LO
            ||| reg s .time Off.TIME_SLOT_PEND_HI &&& reg s .time Off.TIME_SLOT_IE_HI
  setLevel s .time 0 (decide (on ≠ 0))

/-- An arm: the snapshot; a reserved action is ignored and sets late (R114, R116). -/
def slotArm (s : State) (k : Nat) : State :=
  let o := 16 * k
  let c := reg s .time (Off.TIME_SLOT_CTRL + o)
  let act := fld c 2 3
  if 6 ≤ act then raise (setSlot s k { slot s k with late := true }) .time 6
  else
    let ns := regF s .time (Off.TIME_SLOT_NS + o) 0 30
    let sec := (reg s .time (Off.TIME_SLOT_SEC + o)).toNat
    let per := (reg s .time (Off.TIME_SLOT_PERIOD + o)).toNat
    setSlot s k { armed := true, late := false, past := decide (0 < sinceTime s sec ns), sec := sec, ns := ns
                  period := if per = 0 then 0 else max 10000 per, action := act, target := fld c 8 4
                  width := max 1 (fld c 16 8) }

end Sys2Proof.Machine
end

