-- ==== Sys2Proof/Machine/Timing.lean ====
section
/-!
DEFINITION. The output timing generators: the latch grid, the schedule of latches, phases, still intervals and shutters
(spec/05_output_timing.md R125 to R150).
-/
namespace Sys2Proof.Machine

/-! ## Frames -/

/-! ## The next latch (R127, R142, R143) -/

/-- A scheduled latch: its instant, whether it lies on the tracker's edges (FSYNC) or the grid (EPOCH), whether the latch is being slewed
toward the grid, and whether the frame before it is a jump's transition frame. -/
structure NextLatch where
  at_ : Rat
  on : Bool
  slewing : Bool
  jumped : Bool
deriving DecidableEq, Repr

/-- L_{F+1} from L_F = `l`; `on` where L_F lies on the tracker's edges (FSYNC), `transition` where F is the first frame of a
realignment. On the tracker's edges a latch keeps to them. -/
def nextLatch (s : State) (g : Nat) (l : Rat) (on transition : Bool) : NextLatch :=
  let base := l + periodAt s g on
  match gridOf s g with
  | none => ⟨base, false, false, false⟩
  | some gr =>
    if on && !transition && decide (tgF s g Off.TGEN_MODE 5 2 = 2) then ⟨gridNear gr (l + gr.2), true, false, false⟩
    else
      let near := gridNear gr base
      let lim : Rat := (tgF s g Off.TGEN_GEN_SLEW 0 17 : Rat)
      if near = base then ⟨base, true, false, false⟩
      else if tgF s g Off.TGEN_MODE 13 1 = 1 then ⟨gridFrom gr base, true, false, true⟩
      else if transition then ⟨base, false, true, false⟩
      else if near - base ≤ lim ∧ base - near ≤ lim then ⟨near, true, true, false⟩
      else if base < near then ⟨base + lim, false, true, false⟩ else ⟨base - lim, false, true, false⟩

/-- A step since the last close has left L_F off the EPOCH grid: F is the first frame of the way back (R143). -/
def offByStep (s : State) (g : Nat) : Bool :=
  (tgen s g).stepped && decide (tgF s g Off.TGEN_MODE 5 2 = 1) && !onEpoch s g (tgen s g).sched

/-- The close of frame F = closed + 1 schedules L_{F+1} and lays F out from the registers in force (R130, R142, R143). A realignment
lasts until a latch on the grid. -/
def planFrame (s : State) (g : Nat) (gov : GenState) (composed : Bool) : State :=
  let t := tgen s g
  let l := t.sched
  let first := t.dirty || offByStep s g
  let on := t.schedOn && !t.dirty
  let nx := nextLatch s g l on first
  let f := nextClose t
  let pg := tgenPage g
  let plan : FramePlan :=
    { frame := f, gov := gov, latch := l, len := nx.at_ - l
      phases := if gov = .ensign then 1 else tgF s g Off.TGEN_MODE 8 2 + 1
      ofs := (List.range 3).map (fun k => forceF s pg (Off.TGEN_PHASE_OFS + 4 * k) 0 26)
      still := tgF s g Off.TGEN_STILL 0 11 * 1000
      transition := t.dirty || nx.jumped, composed := composed, started := false, grid := on, cut := false
      claim := force s pg Off.TGEN_SHUT_CLAIM
      shut := (List.range 4).map (fun n => (force s pg (Off.TGEN_SHUT_CFG + 16 * n), force s pg (Off.TGEN_SHUT_DLY + 16 * n),
        force s pg (Off.TGEN_SHUT_WID + 16 * n)))
      dark := [] }
  let keep := t.plans.filter (fun p => decide (p.frame = t.cur) || frameGe p.frame t.cur)
  let fs := (gridOf s g).isSome && decide (tgF s g Off.TGEN_MODE 5 2 = 2)
  tgenLevels (setTgen s g { t with
    closed := f, sched := nx.at_, plans := keep ++ [plan], period := periodAt s g on
    realigning := (gridOf s g).isSome && (nx.slewing || (t.realigning && !t.dirty && !nx.jumped))
    dirty := false, stepped := false, onTrk := fs && t.onTrk && !t.dirty, schedOn := fs && nx.on }) g

/-- The latch of a plan lies on the grid of the source in force. -/
def onGrid (s : State) (g : Nat) (p : FramePlan) : Bool :=
  if tgF s g Off.TGEN_MODE 5 2 = 2 then p.grid else onEpoch s g p.latch

/-- The latch of frame cur + 1 (R125): the counter advances by exactly 1, LATCH is raised, and TRANSITION at the latch of a transition
frame and at a latch that cuts a still interval short (R142, R144, R150). The first latch on the grid ends a realignment (R142). -/
def frameLatch (s : State) (g : Nat) : State :=
  let t := tgen s g
  match planOf t (t.cur + 1) with
  | none => s
  | some p =>
    let s := tgenLevels (setTgen s g { t with
      cur := t.cur + 1, latch := p.latch, transition := p.transition, phase := 0, still := false
      realigning := t.realigning && !onGrid s g p, onTrk := p.grid
      plans := t.plans.filter (fun q => frameGe q.frame (t.cur + 1)) }) g
    raiseIf (p.transition || p.cut) (tgenPage g) 5 (raise s (tgenPage g) 0)

/-- R130: phase k of the displayed frame starts. -/
def execPhaseStart (g : Fin 16) (k : Fin 4) (s : State) : Res :=
  let t := tgen s g.val
  done (match planOf t t.cur with
    | some p => if k.val < p.phases then setTgen s g.val { t with phase := k.val, still := false } else s
    | none => s)

/-- R130: the still interval of the displayed frame begins. -/
def execStillStart (g : Fin 16) (s : State) : Res :=
  let t := tgen s g.val
  done (match planOf t t.cur with
    | some _ => setTgen s g.val { t with still := true }
    | none => s)

/-- A phase's start offset in a plan. -/
def phaseOfs (p : FramePlan) (k : Nat) : Nat := if k = 0 then 0 else p.ofs.getD (k - 1) 0

/-- A pulse of phase k of a frame on SHUTn, with the SHUT_* settings of that frame, for a frame that RUN governs; the group drives the pin
where the frame claims it and no lower-numbered group does (R132, R133, R142). -/
def shutPulse (s : State) (g n k : Nat) (f : Word) : State :=
  match planOf (tgen s g) f with
  | none => s
  | some p =>
    let x := p.shut.getD n (0, 0, 0)
    if p.gov = .run ∧ k < p.phases ∧ bitOf p.claim n = true ∧ (List.range g).any (shutClaims s n) = false ∧ bitOf x.1 k = true then
      let st : Rat := p.latch + (phaseOfs p k : Rat) + ((signed 32 x.2.1.toNat : Int) : Rat)
      let en : Rat := st + (fld x.2.2 0 24 : Rat)
      let live := s.shutPulses.filter (fun y => decide (nowNs s ≤ y.2.2.1))
      { s with shutPulses := (n, st, en, !bitOf x.1 8) :: live }
    else s

/-- R133. -/
def execShutterPulse (g : Fin 16) (n : Fin 4) (k : Fin 4) (frame : Word) (s : State) : Res :=
  done (shutPulse s g.val n.val k.val frame)

/-- The level of SHUTn at a time: that of a pulse that covers it (overlapping pulses merge), else inactive by the owner's polarity. A
pin that no group claims has no polarity of its own: the model drives it low, SHUT_CFG's Reset polarity being active high (DESIGN
CHOICE, log 62; R132, R133). -/
def shutLevel (s : State) (n : Nat) (t : Rat) : Bool :=
  match s.shutPulses.find? (fun x => decide (x.1 = n) && decide (x.2.1 ≤ t) && decide (t < x.2.2.1)) with
  | some x => x.2.2.2
  | none => match shutOwner s n with
    | none => false
    | some g => bitOf (force s (tgenPage g) (Off.TGEN_SHUT_CFG + 16 * n)) 8

/-! ## The FSYNC_IN tracker's output edges (R110, R112, R144) -/

/-- Every phase of a frame of length P is at least 500 µs (R130): the phase starts rise by 500 µs, and the last ends
where the still interval starts. -/
def phasesFit (p : Rat) (phases : Nat) (ofs : List Nat) (still : Nat) : Bool :=
  let starts := (0 :: ofs).take phases
  let ends : List Rat := ((starts.drop 1).map (fun (x : Nat) => (x : Rat))) ++ [p - (still : Rat)]
  (starts.zip ends).all (fun (x : Nat × Rat) => decide ((x.1 : Rat) + 500000 ≤ x.2))

/-- The generator may follow the tracker to period `p` (R144): MODE.follow_rate, and R130 and R149 hold of it. -/
def mayFollow (s : State) (g : Nat) (p : Rat) : Bool :=
  decide (tgF s g Off.TGEN_MODE 12 1 = 1) && decide ((4000000 : Rat) ≤ p) && decide (p ≤ 50000000)
  && decide ((tgF s g Off.TGEN_LATCH_OFS 0 26 : Rat) < p)
  && phasesFit p (tgF s g Off.TGEN_MODE 8 2 + 1)
       ((List.range 3).map (fun k => forceF s (tgenPage g) (Off.TGEN_PHASE_OFS + 4 * k) 0 26))
       (tgF s g Off.TGEN_STILL 0 11 * 1000)

/-- Every frame not yet displayed lasts until the latch scheduled after it: D_F as its Pennant will carry it (R130). -/
def relen (t : Tgen) : Tgen :=
  let next (p : FramePlan) : Rat := match planOf t (p.frame + 1) with
    | some q => q.latch
    | none => t.sched
  { t with plans := t.plans.map (fun p => if frameGe p.frame (t.cur + 1) then { p with len := next p - p.latch } else p) }

/-- The latches on the tracker's edges from frame `f` on: L_f = `x`, and one period `p` from each to the next. -/
def layLatches (t : Tgen) (f : Word) (x p : Rat) : Tgen :=
  let at_ (h : Word) : Rat := x + ((h - f).toNat : Rat) * p
  relen { t with plans := t.plans.map (fun q => if q.grid = true ∧ frameGe q.frame f = true then { q with latch := at_ q.frame } else q)
                 sched := if t.schedOn = true ∧ frameGe (nextClose t) f = true then at_ (nextClose t) else t.sched }

/-- The scheduled latch on the tracker's edges that lies nearest to `x`, within half a period: its frame. -/
def edgeFrame (t : Tgen) (x p : Rat) : Option Word :=
  let near (l : Rat) : Bool := decide ((l - x) * 2 < p) && decide ((x - l) * 2 < p)
  match t.plans.find? (fun q => frameGe q.frame (t.cur + 1) && q.grid && near q.latch) with
  | some q => some q.frame
  | none => if t.schedOn = true ∧ near t.sched = true then some (nextClose t) else none

/-- A new period followed from the tracker's first edge at it (R144): the displayed frame ends at the latch of the new edges nearest to
one new period after its own, or at their next one still ahead; where that is sooner than planned, its still interval is cut. -/
def followRate (s : State) (gr : Rat × Rat) (t : Tgen) : Tgen :=
  let n0 := gridNear gr (lastLatch t + gr.2)
  let nl := if n0 < nowNs s then gridFrom gr (nowNs s) else n0
  let cut := t.plans.map (fun q => if q.frame = t.cur + 1 ∧ q.grid = true ∧ nl < q.latch then { q with cut := true } else q)
  layLatches { t with plans := cut, period := gr.2 } (t.cur + 1) nl gr.2

/-- What an FSYNC generator does at a tracker output edge: a latch on the edges is placed LATCH_OFS after its edge (R128); a refused
tracker is taken up again once its period is back within TOL of the last period, and the phase difference removed under R142; a new
rate is followed or refused (R144). -/
def fsyncEdge (newRate : Bool) (s : State) (g : Nat) : State :=
  let t := tgen s g
  let tol := fld (trk s 0 Off.SYNC_TOL) 0 16
  let upd (u : State) (t : Tgen) : State := tgenLevels (setTgen u g t) g
  if t.gen = .stopped then s
  else if decide (t.refused = true) && within tol (tracker s 0).period (ratFloor (t.period * 65536)).toNat then
    upd s { t with refused := false, onTrk := false, schedOn := false, plans := t.plans.map (fun q => { q with grid := false }) }
  else if newRate && !mayFollow s g (mkRat (tracker s 0).period (2 ^ 16)) then
    upd (raise s (tgenPage g) 4) { t with refused := true, realigning := false }
  else
    let t := if newRate then { t with refused := false } else t
    match gridOf (setTgen s g t) g with
    | none => upd s t
    | some gr =>
      if newRate && (t.onTrk || t.schedOn) then upd s (followRate s gr t)
      else match edgeFrame t gr.1 gr.2 with
        | some f => upd s (layLatches t f gr.1 gr.2)
        | none => upd s t

/-- A tracker emits an output edge: in LOCKED at the last in-window edge plus what is left of the phase error; in HOLDOVER one period
after the last (R110, R112). -/
def trkOutput (s : State) (k : Nat) : State :=
  let t := tracker s k
  if t.st = 3 then
    match t.out with
    | none => s
    | some o => setTracker s k { t with out := some (o + t.period) }
  else if t.st = 2 then
    let e := t.good.getD 0
    let lim : Int := if k = 0 then ((fld (trk s 0 Off.SYNC_SLEW) 0 16 * 2 ^ 16 : Nat) : Int) else (t.phaseErr.natAbs : Int)
    let err := t.phaseErr - sat t.phaseErr (-lim) lim
    let s' := setTracker s k { t with out := some ((e : Int) + err).toNat, phaseErr := err, newRate := false }
    if k = 0 then (fsyncGroups s').foldl (fsyncEdge t.newRate) s' else s'
  else s

/-- R110. -/
def execTrackerOutputEdge (k : Fin 3) (s : State) : Res := done (trkOutput s k.val)

/-! ## Requests and the first latch (R140, R141) -/

/-- GEN_TIME as an instant near the present time, ns (R97). -/
def genTimeNs (s : State) (sec ns : Nat) : Rat := nowNs s - mkRat (sinceTime s sec ns) (2 ^ 16)

/-- The first latch from STOPPED: its lower bound is P + CLOSE_LEAD + 16 µs after the request, and GEN_TIME; under FREE, and under
FSYNC while the tracker gives no grid (DESIGN CHOICE, log 62), the bound itself. The second part says that GEN_TIME lay below the bound
(R141). -/
def firstLatch (s : State) (g : Nat) (at_ : Option (Nat × Nat)) : Rat × Bool :=
  let lb : Rat := nowNs s + periodNow s g + (tgF s g Off.TGEN_CLOSE_LEAD 0 10 * 1000 : Nat) + 16000
  let (bound, late) := match at_ with
    | none => (lb, false)
    | some (sec, ns) => let t := genTimeNs s sec ns; if t < lb then (lb, true) else (t, false)
  match gridOf s g with
  | none => (bound, late)
  | some gr => (gridFrom gr bound, late)

/-- The instant of a group's next close, where its generator runs: CLOSE_LEAD before the latch of the frame closed last (R134). -/
def closeTime (s : State) (g : Nat) : Option Rat :=
  let t := tgen s g
  if t.gen = .stopped then none
  else (planOf t t.closed).map (fun p => p.latch - (tgF s g Off.TGEN_CLOSE_LEAD 0 10 * 1000 : Nat))

/-- The instant of the next close lies before the present time; a close on the present edge is still ahead (R134). -/
def closePast (s : State) (g : Nat) : Bool :=
  match closeTime s g with
  | some c => decide (c < nowNs s)
  | none => false

/-- req of GEN_CTRL (R148). -/
def genOf (n : Nat) : GenState :=
  match n % 4 with
  | 0 => .stopped
  | 1 => .slack
  | 2 => .run
  | _ => .ensign

/-- gen_state as STAT shows it. -/
def genCode : GenState → Nat
  | .stopped => 0
  | .slack => 1
  | .run => 2
  | .ensign => 3

end Sys2Proof.Machine
end

