-- ==== Sys2Proof/Machine/Layers.lean ====
section
/-!
DEFINITION. Surfaces, buffer ownership, input LUTs, layer descriptors and content selection
(spec/06_layers_and_surfaces.md R151 to R181).
-/
namespace Sys2Proof.Machine

/-! ## Surfaces (R151 to R156) -/

/-- A Buffer Table entry's fields (R154). -/
structure Surf where
  fmt : Nat
  st : Nat
  w : Nat
  h : Nat
  base : Nat
  pitch : Nat
  sumValid : Bool
  sumBase : Nat
deriving DecidableEq, Repr

/-- Reads the fields of an entry's eight words. -/
def surfOf (e : List Word) : Surf :=
  let w (i : Nat) : Word := e.getD i 0
  { fmt := fld (w 0) 0 4, st := fld (w 0) 4 3, w := fld (w 1) 0 16 + 1, h := fld (w 1) 16 16 + 1
    base := (w 2).toNat + fld (w 3) 0 3 * 2 ^ 32, pitch := fld (w 4) 0 24
    sumValid := bitOf (w 0) 7, sumBase := (w 5).toNat + fld (w 6) 0 3 * 2 ^ 32 }

/-- A 35-bit address held in a LO and HI register pair. -/
def addrPair (s : State) (p : Page) (lo hi : Nat) : Nat := (reg s p lo).toNat + fld (reg s p hi) 0 3 * 2 ^ 32

/-- The words of buffer `b`'s entry in HBM (R154). -/
def bufEntry (s : State) (b : Nat) : List Word :=
  memWords s (addrPair s .layr Off.LAYR_BUF_TBL_BASE_LO Off.LAYR_BUF_TBL_BASE_HI + 32 * b) 8

/-- A table base of LAYR is valid: the host's value, where the base is aligned to 4 KiB and below the installed capacity; checked anew
as a half of it is written (R180, R296). -/
def baseValid (s : State) (lo hi : Nat) : Bool :=
  bitOf (reg s .layr hi) 31 && decide (addrPair s .layr lo hi % 4096 = 0) && decide (addrPair s .layr lo hi < hbmBytes s)

/-- BUF_TBL_BASE and LAYER_TBL_BASE are valid. -/
def bufTblValid (s : State) : Bool := baseValid s Off.LAYR_BUF_TBL_BASE_LO Off.LAYR_BUF_TBL_BASE_HI
def layerTblValid (s : State) : Bool := baseValid s Off.LAYR_LAYER_TBL_BASE_LO Off.LAYR_LAYER_TBL_BASE_HI

/-- An opacity summary's stride and last byte (R176). -/
def sumStride (w : Nat) : Nat := 8 * ceilDiv (ceilDiv w 16) 64
def sumBytes (d : Surf) : Nat := sumStride d.w * ceilDiv d.h 16

/-- Reserved bits of an entry (R154, R155): those of word 5 and 6's summary address only count as checked by rule. -/
def entryReserved (e : List Word) : Bool :=
  let w (i : Nat) : Word := e.getD i 0
  decide (fld (w 0) 8 24 ≠ 0) || decide (fld (w 3) 3 29 ≠ 0) || decide (fld (w 4) 24 8 ≠ 0)
  || decide (fld (w 6) 3 29 ≠ 0) || decide (w 7 ≠ 0)

/-- The check of R155 on a claim. -/
def entryOk (s : State) (e : List Word) : Bool :=
  let d := surfOf e
  !entryReserved e && fmtStorageOk d.fmt d.st && decide (d.base % 256 = 0) && decide (d.pitch % 256 = 0)
  && decide (minPitch d.fmt d.st d.w ≤ d.pitch)
  && decide (d.base + surfaceBytes d.st d.h d.pitch ≤ hbmBytes s)
  && (!d.sumValid || (decide (d.sumBase % 64 = 0) && decide (d.sumBase + sumBytes d ≤ hbmBytes s)))

/-- The entry can be read: HBM answers and the words are not poisoned. -/
def entryReadable (s : State) (b : Nat) : Bool :=
  hbmReadOk s (addrPair s .layr Off.LAYR_BUF_TBL_BASE_LO Off.LAYR_BUF_TBL_BASE_HI + 32 * b) 32

/-- The unit reads a buffer's entry. -/
def entryTouch (s : State) (b : Nat) : State :=
  eccTouchAll s [(addrPair s .layr Off.LAYR_BUF_TBL_BASE_LO Off.LAYR_BUF_TBL_BASE_HI + 32 * b, 32)]

/-- The bytes of an 8 x 8 tile of a surface. -/
def tileSpans (d : Surf) (tx ty : Nat) : List (Nat × Nat) :=
  if d.st = 0 then
    (List.range (min 8 (d.h - 8 * ty))).map (fun r =>
      (d.base + (8 * ty + r) * d.pitch + 8 * tx * fmtBytes d.fmt, min 8 (d.w - 8 * tx) * fmtBytes d.fmt))
  else [(d.base + ty * d.pitch + tx * fixedSize d.fmt d.st, fixedSize d.fmt d.st)]

/-- The bytes of a surface. -/
def surfSpans (d : Surf) : List (Nat × Nat) :=
  (List.range (ceilDiv d.h 8)).flatMap (fun ty => (List.range (ceilDiv d.w 8)).flatMap (fun tx => tileSpans d tx ty))

/-- Reads an 8 x 8 tile of a surface (R153, R214, R219, R275). -/
def readTile (s : State) (d : Surf) (tx ty : Nat) : Tile :=
  let linear := decide (d.st = 0)
  let a := if linear then d.base + 8 * ty * d.pitch + 8 * tx * fmtBytes d.fmt
           else d.base + ty * d.pitch + tx * fixedSize d.fmt d.st
  let spans := tileSpans d tx ty
  if spans.any (fun x => !hbmOk s x.1 x.2) then .absent
  else if spans.any (fun x => memPoison s x.1 x.2) then .poison
  else if linear then
    .pixels ((List.range 64).map (fun i =>
      some (pixelOf d.fmt (memVal s (a + i / 8 * d.pitch + i % 8 * fmtBytes d.fmt) (fmtBytes d.fmt)))))
  else match decodeFixed d.fmt d.st (memBytes s a (fixedSize d.fmt d.st)) with
    | some ps => .pixels (ps.map some)
    | none => .pixels ((List.range 64).map (fun _ => none))

/-! ## Buffer ownership (R161 to R166) -/

def bufAt (s : State) (b : Nat) : Buf := mapGet (fun _ => Buf.initial) s.layr.bufs b
def setBuf (s : State) (b : Nat) (v : Buf) : State :=
  { s with layr := { s.layr with bufs := mapSet (fun _ => Buf.initial) s.layr.bufs b v } }

/-- Owner classes (R179). -/
def ownHost : Nat := 1
def ownNet : Nat := 2
def ownPcie : Nat := 3
def ownCodec : Nat := 4
def ownScal : Nat := 5
def ownBlit : Nat := 6
def ownCam : Nat := 7

/-- The island of an owner class. -/
def ownerIsland (c : Nat) : Nat :=
  if c = 2 then islNet else if c = 7 then islCam else if c = 4 ∨ c = 5 ∨ c = 6 then islMedia else islHost

/-- CLAIM is accepted in FREE, and in READY with no holder (R164). -/
def claimable (b : Buf) : Bool := decide (b.st = 0) || (decide (b.st = 2) && b.holds.isEmpty)

/-- The result of a CLAIM (R155, R164, R179). -/
def claimCode (s : State) (b : Nat) : Nat :=
  if !bufTblValid s then 4
  else if !claimable (bufAt s b) then 1
  else if !entryReadable s b || !entryOk s (bufEntry s b) then 2 else 0

/-- A CLAIM that is accepted: PRODUCING, owned by the claimer. -/
def claimFor (s : State) (b cls inst : Nat) : State :=
  setBuf (entryTouch s b) b { bufAt s b with st := 1, ownerClass := cls, ownerInst := inst, freePending := false, holds := [] }

/-- READY by the owner, with the content's sequence number. BUF_STATE goes on showing the owner that produced the content: the spec
does not say what owner_class and owner_inst read once a buffer has no owner (DESIGN CHOICE, log 63; R179). -/
def readyFor (s : State) (b : Nat) (seq : Word) : State := setBuf s b { bufAt s b with st := 2, seq := seq }

/-- A PRODUCING buffer given up by its owner. -/
def freeFor (s : State) (b : Nat) : State := setBuf s b Buf.initial

/-- The owner of a PRODUCING buffer. -/
def ownedBy (s : State) (b cls inst : Nat) : Bool :=
  decide ((bufAt s b).st = 1) && decide ((bufAt s b).ownerClass = cls) && decide ((bufAt s b).ownerInst = inst)

/-- Adds a holder: READY becomes HELD. -/
def addHold (s : State) (b : Nat) (h : Hold) : State :=
  let v := bufAt s b
  if v.holds.contains h then s
  else setBuf s b { v with holds := h :: v.holds, st := if v.st = 2 then 3 else v.st }

/-- Ends every hold that `p` names, in every buffer. -/
def dropHolds (s : State) (p : Hold → Bool) : State :=
  s.layr.bufs.foldl (fun (t : State) (e : Nat × Buf) =>
    if e.2.holds.any p then setBuf t e.1 { e.2 with holds := e.2.holds.filter (fun h => !p h) } else t) s

/-- A buffer retires when its last holder has ended (R162). -/
def retire (s : State) (b : Nat) : State :=
  let v := bufAt s b
  if v.st = 3 ∧ v.holds = [] then
    raise (setBuf s b (if v.freePending then Buf.initial else { v with st := 2 })) .layr 2
  else s

/-- R162. -/
def execBufRetire (b : Fin 16384) (s : State) : Res := done (retire s b.val)

/-- Records a buffer command's result; any but 0 raises BUF_CMD_REFUSED (R164). -/
def bufResult (s : State) (r : Nat) : State :=
  raiseIf (decide (r ≠ 0)) .layr 4 (setReg s .layr Off.LAYR_BUF_CMD_STAT (BitVec.ofNat 32 r))

/-- The host's CLAIM. -/
def hostClaim (s : State) (b : Nat) : State :=
  let r := claimCode s b
  bufResult (if r = 0 then claimFor s b ownHost 0 else s) r

/-- The host's FREE (R164, R165). -/
def hostFree (s : State) (b : Nat) : State :=
  let v := bufAt s b
  if !bufTblValid s then bufResult s 4
  else match v.st with
    | 0 => bufResult s 0
    | 1 => if v.ownerClass = ownHost then bufResult (setBuf s b Buf.initial) 0 else bufResult s 3
    | 2 => bufResult (setBuf s b Buf.initial) 0
    | _ => bufResult (raise (setBuf s b { v with freePending := true }) .layr 3) 0

/-- The host's READY with seq from BUF_ARG: its result, and the state where it is 0. -/
def hostReady (s : State) (b : Nat) : State :=
  let v := bufAt s b
  if !bufTblValid s then bufResult s 4
  else if v.st ≠ 1 then bufResult s 1
  else if v.ownerClass ≠ ownHost then bufResult s 3
  else bufResult (readyFor s b (reg s .layr Off.LAYR_BUF_ARG)) 0

/-- R164: BUF_CMD op 1. -/
def execBufClaim (b : Fin 16384) (s : State) : Res := done (if pageUp s .layr then hostClaim s b.val else s)

/-- R164: BUF_CMD op 3. -/
def execBufFree (b : Fin 16384) (s : State) : Res := done (if pageUp s .layr then hostFree s b.val else s)

/-- Every PRODUCING buffer of the producers in an island returns to FREE; ORPHANED is raised where there was one (R166). -/
def orphan (s : State) (k : Nat) : State :=
  let hit (e : Nat × Buf) : Bool := decide (e.2.st = 1) && decide (ownerIsland e.2.ownerClass = k)
  raiseIf (s.layr.bufs.any hit) .layr 5
    { s with layr := { s.layr with bufs := s.layr.bufs.filter (fun e => !hit e) } }

/-! ## Banks -/

def layrBank (s : State) (g : Nat) : LayrBank := mapGet (fun _ => LayrBank.initial) s.layr.banks g
def setLayrBank (s : State) (g : Nat) (v : LayrBank) : State :=
  { s with layr := { s.layr with banks := mapSet (fun _ => LayrBank.initial) s.layr.banks g v } }

/-- The commit slot of a page's bank. -/
def slotKey (p : Page) (b : Nat) : Nat := pageSlot p * 16 + b
def cslot (s : State) (p : Page) (b : Nat) : CommitSlot := mapGet (fun _ => CommitSlot.initial) s.commits (slotKey p b)
def setCslot (s : State) (p : Page) (b : Nat) (v : CommitSlot) : State :=
  { s with commits := mapSet (fun _ => CommitSlot.initial) s.commits (slotKey p b) v }

/-- The descriptors pending in a bank. -/
def pendDescs (s : State) (g : Nat) : AMap (List Word) :=
  match (cslot s .layr g).pending with
  | some p => p.descs
  | none => []

/-- Every descriptor in force or pending: bank, layer ID, words. -/
def liveDescs (s : State) : List (Nat × Nat × List Word) :=
  (List.range 16).flatMap (fun g =>
    ((layrBank s g).descs ++ pendDescs s g).map (fun e => (g, e.1, e.2)))

/-! ## Input LUTs (R157 to R160) -/

def lutCurve (s : State) (k c : Nat) : LutCurve := mapGet (fun _ => LutCurve.initial) s.layr.luts (3 * k + c)
def setLutCurve (s : State) (k c : Nat) (v : LutCurve) : State :=
  { s with layr := { s.layr with luts := mapSet (fun _ => LutCurve.initial) s.layr.luts (3 * k + c) v } }

/-- The ST 2084 EOTF divided by 100 (R159). -/
def pqEotf (x : Rat) : Rat :=
  let n := ratPow x (mkRat 32 2523)
  let c1 : Rat := mkRat 3424 4096
  let c2 : Rat := mkRat 2413 128
  let c3 : Rat := mkRat 2392 128
  let top := n - c1
  if top ≤ 0 then 0 else 100 * ratPow (top / (c2 - c3 * n)) (mkRat 16384 2610)

/-- 12 times the HLG inverse OETF, b and c from their exact expressions (R159). -/
def hlg (x : Rat) : Rat :=
  let a : Rat := mkRat 17883277 100000000
  if x ≤ 1 / 2 then 4 * x * x
  else
    let lnE := fxOf ((x - 1 / 2) / a) + fxLn (4 * a)
    fxExp lnE + (1 - 4 * a)

/-- preset(x) (R159). -/
def presetVal (p : Nat) (x : Rat) : Rat :=
  match p with
  | 1 => if x ≤ mkRat 4045 100000 then x / (mkRat 1292 100) else ratPow ((x + mkRat 55 1000) / mkRat 1055 1000) (mkRat 24 10)
  | 2 => ratPow x (mkRat 22 10)
  | 3 => ratPow x (mkRat 24 10)
  | 4 => ratPow x (mkRat 26 10)
  | 5 => pqEotf x
  | 6 => hlg x
  | _ => x

/-- Entry k of a filled curve (R159). -/
def presetEntry (p k : Nat) : Nat := toL20 (presetVal p (mkRat (min (64 * k) 65535 : Nat) 65535))

/-- Entry k of a curve as it stands. -/
def curveEntry (c : LutCurve) (k : Nat) : Nat := mapGet (presetEntry c.preset) c.edits k

/-- A slot is busy while a layer in force or pending in any bank uses it (R160). -/
def lutBusy (s : State) (k : Nat) : Bool := (liveDescs s).any (fun d => decide (fld (d.2.2.getD 0 0) 16 6 = k))

/-- The curves a curve code names. -/
def curvesOf (c : Nat) : List Nat := if c = 3 then [0, 1, 2] else [c]

/-- LUT_CTRL.fill (R159, R160). -/
def lutFillStart (s : State) : State :=
  let w := reg s .layr Off.LAYR_LUT_CTRL
  let k := fld w 0 6
  let p := fld w 12 3
  if p = 7 ∨ s.layr.fill.isSome = true ∨ lutBusy s k = true then raise s .layr 7
  else { s with layr := { s.layr with fill := some (k, fld w 8 2, p) } }

/-- A write of LUT_CTRL. -/
def writeLutCtrl (s : State) (v : Word) : State :=
  let s := writePlain s .layr Off.LAYR_LUT_CTRL v
  if bitOf v 16 then lutFillStart s else s

/-- R160: LUT_CTRL is written with fill. -/
def execLutFillStart (slot : Fin 64) (curve : Fin 4) (preset : Fin 8) (s : State) : Res :=
  done (if pageUp s .layr then
    writeLutCtrl s (BitVec.ofNat 32 (slot.val + curve.val * 256 + preset.val * 4096 + 65536)) else s)

/-- R160: the fill's entries are all written. -/
def execLutFillDone (s : State) : Res :=
  done (match s.layr.fill with
    | none => s
    | some (k, c, p) =>
      let t := (curvesOf c).foldl (fun u x => setLutCurve u k x ⟨p, false, []⟩) s
      { t with layr := { t.layr with fill := none } })

/-- Advances an indexed port's address within its field (R626). -/
def advance (s : State) (p : Page) (off bits : Nat) : State :=
  setReg s p off (BitVec.ofNat 32 ((regF s p off 0 bits + 1) % 2 ^ bits))

/-- One LUT_DATA access: a write of a word, or a read (R160, R626). A read of an entry that a running fill may or may not
have reached takes a free choice of the old and the new one. -/
def lutData (s : State) (v : Option Word) : State :=
  let w := reg s .layr Off.LAYR_LUT_CTRL
  let k := fld w 0 6
  let c := if fld w 8 2 = 3 then 0 else fld w 8 2
  let a := regF s .layr Off.LAYR_LUT_ADDR 0 11
  let cv := lutCurve s k c
  let s' := match v with
    | some x =>
      if 1024 < a then s
      else if lutBusy s k ∨ s.layr.fill.isSome = true then raise s .layr 7
      else setLutCurve s k c { cv with written := true, edits := mapSet (presetEntry cv.preset) cv.edits a (x.toNat % 2 ^ 20) }
    | none =>
      if 1024 < a then { s with lastRead := 0 }
      else
        let old := curveEntry cv a
        match s.layr.fill with
        | some (fk, fc, fp) =>
          if fk = k ∧ (curvesOf fc).contains c = true then
            let (n, t) := draw s
            { t with lastRead := BitVec.ofNat 32 (if Config.freeBool n then presetEntry fp a else old) }
          else { s with lastRead := BitVec.ofNat 32 old }
        | none => { s with lastRead := BitVec.ofNat 32 old }
  advance s' .layr Off.LAYR_LUT_ADDR 11

/-- R626. -/
def execLutDataAccess (write : Option Word) (s : State) : Res :=
  done (if pageUp s .layr then lutData s write else { s with lastRead := if write.isNone then 0xFFFFFFFF else s.lastRead })

/-! ## Table bases (R180) -/

/-- A write to BUF_TBL_BASE or LAYER_TBL_BASE: discarded while a buffer is not FREE, or while a bank has a layer in force or pending. -/
def layrBaseWrite (s : State) (layer isHi : Bool) (v : Word) : State :=
  if (if layer then !(liveDescs s).isEmpty else s.layr.bufs.any (fun e => decide (e.2.st ≠ 0))) then raise s .layr 4
  else writePlain s .layr (if layer then (if isHi then Off.LAYR_LAYER_TBL_BASE_HI else Off.LAYR_LAYER_TBL_BASE_LO)
    else if isHi then Off.LAYR_BUF_TBL_BASE_HI else Off.LAYR_BUF_TBL_BASE_LO) v

/-- R180. -/
def execLayrTableBaseWrite (layer isHi : Bool) (v : Word) (s : State) : Res :=
  done (if pageUp s .layr then layrBaseWrite s layer isHi v else s)

/-! ## Descriptors (R167 to R172) -/

/-- Bits set outside a mask. -/
def outside (w : Word) (mask : Nat) : Bool := decide (w.toNat &&& (0xFFFFFFFF ^^^ mask) ≠ 0)

/-- Fields of a descriptor's common words (R167). -/
def dKind (d : List Word) : Nat := fld (d.getD 0 0) 0 2
def dPolicy (d : List Word) : Nat := fld (d.getD 0 0) 5 2
def dPsEn (d : List Word) : Bool := bitOf (d.getD 0 0) 10
def dPsBuf (d : List Word) : Nat := fld (d.getD 1 0) 16 14
def dKernel (d : List Word) : Nat := fld (d.getD 0 0) 12 4
def dAlpha (d : List Word) : Nat := fld (d.getD 1 0) 0 16
def dEdge (d : List Word) : Nat := fld (d.getD 0 0) 22 2
def dMaxAge (d : List Word) : Nat := fld (d.getD 0 0) 24 6

/-- The candidate set (R167, R173). -/
def dCands (d : List Word) : List Nat :=
  let all := [fld (d.getD 2 0) 0 14, fld (d.getD 2 0) 16 14, fld (d.getD 3 0) 0 14, fld (d.getD 3 0) 16 14]
  if bitOf (d.getD 0 0) 2 then all.take (fld (d.getD 0 0) 3 2 + 1) else all.take 1

/-- A signed word of a descriptor. -/
def dInt (d : List Word) (i : Nat) : Int := signed 32 (d.getD i 0).toNat

/-- The exact cross product. -/
def cross (a b : Int × Int × Int) : Int × Int × Int :=
  (a.2.1 * b.2.2 - a.2.2 * b.2.1, a.2.2 * b.1 - a.1 * b.2.2, a.1 * b.2.1 - a.2.1 * b.1)

def dVec (d : List Word) (i : Nat) : Int × Int × Int := (dInt d i, dInt d (i + 1), dInt d (i + 2))

/-- Reserved bits and codes of a descriptor (R167, R168, R215). -/
def descReserved (d : List Word) : Bool :=
  let k := dKind d
  decide (k = 3) || decide (dPolicy d = 3) || decide (dEdge d = 3) || decide (6 ≤ dKernel d)
  || outside (d.getD 0 0) 0x3FFFFFFF || outside (d.getD 1 0) 0x3FFFFFFF
  || outside (d.getD 2 0) 0x3FFF3FFF || outside (d.getD 3 0) 0x3FFF3FFF
  || outside (d.getD 4 0) 0xFFFFF || outside (d.getD 5 0) 0xFFFFF || outside (d.getD 6 0) 0xFFFFF
  || (decide (k = 0) && ((d.drop 11).any (fun w => decide (w ≠ 0))
      || outside (d.getD 9 0) 0xFFFFFF || outside (d.getD 10 0) 0xFFFFFF))
  || (decide (k = 2) && (outside (d.getD 11 0) 0xFFFF || (d.drop 12).any (fun w => decide (w ≠ 0))))

/-- The scale s8.16 of a Surface layer's word. -/
def dScale (d : List Word) (i : Nat) : Int := signed 24 (d.getD i 0).toNat

/-- The code of R169 for one descriptor, 0 where it passes. -/
def descCode (d : List Word) : Nat :=
  if descReserved d then 1
  else if 0x8000 < dAlpha d then 2
  else if dKind d = 0 ∧ (dScale d 9 = 0 ∨ dScale d 10 = 0) then 3
  else if dKind d = 1 ∧ cross (dVec d 10) (dVec d 13) = (0, 0, 0) then 3
  else if dPsEn d = true ∧ 16382 < dPsBuf d then 4
  else 0

/-- Stack entry j of phase k from a reader of the bank's STACK registers. -/
def stackId (rd : Nat → Word) (k j : Nat) : Nat :=
  fld (rd (Off.LAYR_STACK + 64 * k + 4 * (j / 2))) (16 * (j % 2)) 12

/-- A phase's stack count. -/
def stackCnt (rd : Nat → Word) (k : Nat) : Nat := fld (rd Off.LAYR_STACK_CNT) (8 * k) 6

/-- The stack of phase k: layer IDs, front first. -/
def stackOf (rd : Nat → Word) (k : Nat) : List Nat := (List.range (min 32 (stackCnt rd k))).map (stackId rd k)

/-- The distinct layer IDs of the first `n` phases. -/
def stackIds (rd : Nat → Word) (n : Nat) : List Nat := ((List.range n).flatMap (stackOf rd)).eraseDups

/-- The phases in use of group g, by the MODE in force (R172). -/
def phasesOf (s : State) (g : Nat) : Nat := tgF s g Off.TGEN_MODE 8 2 + 1

/-- Reads a bank's STACK registers from a snapshot. -/
def snapRead (snap : AMap Word) (p : Page) (b off : Nat) : Word := mapGet regDefault snap (regKey p off b)

/-- A descriptor's words from the Layer Table. -/
def layerDesc (s : State) (id : Nat) : List Word :=
  memWords s (addrPair s .layr Off.LAYR_LAYER_TBL_BASE_LO Off.LAYR_LAYER_TBL_BASE_HI + 64 * id) 16

/-- The descriptor read fails: the base is not valid, or the read ends ABSENT or POISON (R169 code 7, R430). -/
def descUnreadable (s : State) (id : Nat) : Bool :=
  !layerTblValid s || !hbmReadOk s (addrPair s .layr Off.LAYR_LAYER_TBL_BASE_LO Off.LAYR_LAYER_TBL_BASE_HI + 64 * id) 64

/-- The first failing entry of the stacks of a bank's `n` phases in use under R169, codes 1 to 5 and 7: (code, phase, layer). -/
def layrBankCheck (s : State) (snap : AMap Word) (g n : Nat) : Option (Nat × Nat × Nat) :=
  let rd := snapRead snap .layr g
  let ph := List.range n
  match ph.find? (fun k => decide (32 < stackCnt rd k)) with
  | some k => some (5, k, 0)
  | none =>
    let entries := ph.flatMap (fun k => (stackOf rd k).map (fun id => (k, id)))
    let code (id : Nat) : Nat := if descUnreadable s id then 7 else descCode (layerDesc s id)
    match entries.find? (fun e => decide (code e.2 ≠ 0)) with
    | some e => some (code e.2, e.1, e.2)
    | none => none

/-- The layer count of R171 for bank g: at the stacks of an arm in its phases in use where `arm` gives them, else pending, else in force. -/
def bankCount (s : State) (g : Nat) (arm : Option (AMap Word × Nat)) : Nat :=
  match arm with
  | some m => (stackIds (snapRead m.1 .layr g) m.2).length
  | none => match (cslot s .layr g).pending with
    | some p => p.descs.length
    | none => (layrBank s g).descs.length

/-! ## Selection (R173 to R175) -/

/-- The content's shape suits the layer kind (R168). -/
def shapeOk (d : List Word) (f : Surf) : Bool :=
  if dKind d = 2 then (if bitOf (d.getD 0 0) 9 then decide (f.w = 6 * f.h) else decide (f.w = 2 * f.h)) else true

/-- A buffer is READY or HELD. -/
def hasContent (s : State) (b : Nat) : Bool := decide ((bufAt s b).st = 2) || decide ((bufAt s b).st = 3)

/-- Eligible: READY or HELD, a storage that layers sample, an allowed pair, a suitable shape (R156, R173). -/
def eligible (s : State) (d : List Word) (b : Nat) : Bool :=
  let f := surfOf (bufEntry s b)
  hasContent s b && entryReadable s b && decide (f.st ≤ 3) && fmtStorageOk f.fmt f.st && shapeOk d f

/-- One sequence number is after another, by signed 32-bit difference (R173). -/
def seqAfter (a b : Word) : Bool := decide (0 < (a - b).toInt)

/-- The eligible candidate with the highest seq. -/
def bestCand (s : State) (d : List Word) : Option Nat :=
  ((dCands d).filter (eligible s d)).foldl (fun (acc : Option Nat) b => match acc with
    | none => some b
    | some a => if seqAfter (bufAt s b).seq (bufAt s a).seq then some b else some a) none

/-- The working surface of a content: the buffer of the pair that is READY or HELD and records it (R173 step 3, R257). -/
def workOf (s : State) (d : List Word) (content : Nat) (seq : Word) : Option Nat :=
  [dPsBuf d, dPsBuf d + 1].find? (fun w => hasContent s w &&
    (match mapGet (fun _ => none) s.scal.recs w with
      | some r => decide (r.1 = content) && decide (r.2.1 = seq)
      | none => false))

/-- The orientation that a working surface was made with (R244, R257). -/
def recOrient (s : State) (w : Nat) : Nat :=
  match mapGet (fun _ => none) s.scal.recs w with
  | some r => r.2.2
  | none => 0

/-- What a selection is made for: a frame's close, the same frame again as it is withdrawn (R382), or no frame (R58). -/
inductive SelKind where
  | frame | again | idle
deriving DecidableEq, Repr

/-- Consecutive frames, that of the selection included, for which a content has been selected: `same` where it stays (R174). -/
def selAge (k : SelKind) (same : Bool) (age : Nat) : Nat :=
  match k with
  | .frame => if same then age + 1 else 1
  | .again => if same then age else 1
  | .idle => if same then age else 0

/-- The frames before the selection's for which the content has been selected. -/
def pastAge (k : SelKind) (age : Nat) : Nat :=
  match k with
  | .again => age - 1
  | _ => age

/-- The content that R173 step 2 selects, with its seq, from the best candidate `cand` and the present selection. -/
def pickOf (s : State) (cand : Option Nat) (cur : LayerSel) : Option (Nat × Word) :=
  match cand, cur.content with
  | some b, some c => if seqAfter (bufAt s b).seq cur.seq then some (b, (bufAt s b).seq) else some (c, cur.seq)
  | some b, none => some (b, (bufAt s b).seq)
  | none, _ => none

/-- What R173 and R174 make of a layer: its next selection, and whether it was not ready. `before` says that the layer was in force
before the close; `stale` that its bank has not been committed since FAB lost its state (R166). -/
def selectLayer (s : State) (k : SelKind) (d : List Word) (cur : LayerSel) (before stale : Bool) : LayerSel × Bool :=
  let pick := pickOf s (if stale then none else bestCand s d) cur
  let work := match pick with
    | some (b, q) => if dPsEn d then workOf s d b q else none
    | none => none
  let same := decide (pick = cur.content.map (fun c => (c, cur.seq)))
  let aged := decide (dMaxAge d ≠ 0) && same && decide (dMaxAge d ≤ pastAge k cur.age)
  let notReady := pick.isNone || (dPsEn d && work.isNone) || aged
  if !notReady then
    match pick with
    | some (b, q) => (⟨some b, q, work, (work.map (recOrient s)).getD 0, selAge k same cur.age, true⟩, false)
    | none => (cur, false)
  else if before && (decide (dPolicy d = 0) || decide (dPolicy d = 2)) then
    ({ cur with age := selAge k true cur.age, shown := cur.content.isSome }, true)
  else if before then ({ cur with shown := false }, true)
  else (LayerSel.initial, true)

/-- A READY or HELD candidate of the layer that is not eligible, its entry being readable (R173, R427). -/
def mismatched (s : State) (d : List Word) : Bool :=
  (dCands d).any (fun b => hasContent s b && entryReadable s b && !eligible s d b)

/-- A layer of a pending commit that would hold the group's commits: new at this close, HOLD_FRAME, and not ready (R175). -/
def holdsFrame (s : State) (g : Nat) (descs : AMap (List Word)) : Bool :=
  descs.any (fun e => decide (dPolicy e.2 = 2)
    && !((layrBank s g).descs.any (fun o => decide (o.1 = e.1)))
    && (selectLayer s .frame e.2 LayerSel.initial false false).2)

/-- The buffers a bank's selections hold. -/
def selBufs (sels : AMap LayerSel) : List Nat :=
  sels.flatMap (fun e => e.2.content.toList ++ e.2.work.toList)

/-- The buffers that the frame's composition uses. -/
def shownBufs (sels : AMap LayerSel) : List Nat :=
  sels.flatMap (fun e => if e.2.shown then (match e.2.work with
    | some w => [w]
    | none => e.2.content.toList) else [])

/-- Selection at a close, or at an application without frames (R173): every layer of the bank in force; `old` the layer
IDs that were in force before. The holds of the bank follow the selections, and `frame` adds the holds of the frame. -/
def selectBank (s : State) (k : SelKind) (g : Nat) (old : List Nat) (frame : Option Word) : State :=
  let bk := layrBank s g
  let s := if s.ecc.isEmpty then s else (bk.descs.flatMap (fun e => dCands e.2)).foldl entryTouch s
  let picks := bk.descs.map (fun e =>
    (e.1, selectLayer s k e.2 (mapGet (fun _ => LayerSel.initial) bk.sels e.1) (old.contains e.1) bk.stale))
  let sels : AMap LayerSel := picks.foldl (fun m x => mapSet (fun _ => LayerSel.initial) m x.1 x.2.1) []
  let bad := (picks.filter (fun x => x.2.2)).map (·.1)
  let mism := bk.descs.any (fun e => mismatched s e.2)
  let rd (off : Nat) := forceBank s .layr g off
  let nrOf (k : Nat) : Word := BitVec.ofNat 32
    (((stackOf rd k).zipIdx).foldl (fun acc x => if bad.contains x.1 then acc + 2 ^ x.2 else acc) 0)
  let nr : AMap Word := (List.range 4).foldl (fun m k => mapSet (fun _ => 0) m k (nrOf k)) []
  let s := setLayrBank s g { bk with sels := sels, nr := nr }
  let keep := selBufs sels
  let s := s.layr.bufs.foldl (fun (t : State) (e : Nat × Buf) =>
    if e.2.holds.contains (Hold.sel g) && !keep.contains e.1 then
      setBuf t e.1 { e.2 with holds := e.2.holds.filter (fun h => decide (h ≠ Hold.sel g)) } else t) s
  let s := keep.foldl (fun t b => addHold t b (.sel g)) s
  let s := match frame with
    | some f => (shownBufs sels).foldl (fun t b => addHold t b (.frame g f)) s
    | none => s
  raiseIf mism .layr 6 (raiseIf (!bad.isEmpty) .layr 0 s)

/-- HOLDING: a bank is held (R175). -/
def layrLevels (s : State) : State := setLevel s .layr 1 (s.layr.banks.any (fun e => e.2.holding))

/-- Marks bank g held or not (R175). -/
def setHolding (s : State) (g : Nat) (h : Bool) : State :=
  if (layrBank s g).holding = h then s else layrLevels (setLayrBank s g { layrBank s g with holding := h })

/-- FAB's ownership state is lost: every buffer is FREE, and no layer of any bank is ready until it is committed again (R166). -/
def layrLost (s : State) : State :=
  layrLevels { s with layr := { s.layr with
    bufs := []
    banks := s.layr.banks.map (fun e => (e.1, { e.2 with sels := [], holding := false, stale := true })) } }

/-- A LAYR commit of bank g comes into force: the descriptors of its arm; a layer that stays keeps its selection (R173). -/
def layrApply (s : State) (g : Nat) (p : Pending) : State :=
  let bk := layrBank s g
  let sels := mapKeep (fun id => p.descs.any (fun e => decide (e.1 = id))) bk.sels
  setLayrBank s g { bk with descs := p.descs, sels := sels, loaded := p.phases, stale := false }

end Sys2Proof.Machine
end

