-- ==== Sys2Proof/Machine/Audio.lean ====
section
/-!
DEFINITION. The audio ports (spec/19_audio_ports.md R525 to R537).
-/
namespace Sys2Proof.Machine

def audAt (s : State) (a : Nat) : Aud := mapGet (fun _ => Aud.initial) s.aud a
def setAud (s : State) (a : Nat) (v : Aud) : State := { s with aud := mapSet (fun _ => Aud.initial) s.aud a v }
def audPage (a : Nat) : Page := .aud (Fin.ofNat 4 a)
def auF (s : State) (a off lo len : Nat) : Nat := forceF s (audPage a) off lo len

/-! ## Formats (R525, R526) -/

/-- Slots S and bits W of a bus frame. -/
def audSlots (s : State) (a : Nat) : Nat := auF s a Off.AUD_CFG 2 4 + 1
def audBits (s : State) (a : Nat) : Nat := [16, 24, 32].getD (auF s a Off.AUD_CFG 6 2) 32
def audFmt (s : State) (a : Nat) : Nat := auF s a Off.AUD_CFG 8 3

/-- Bytes and data width of a sample format. -/
def sfmtBytes (f : Nat) : Nat := [2, 3, 4, 4, 4].getD f 4
def sfmtWidth (f : Nat) : Nat := [16, 24, 24, 24, 32].getD f 32

/-- A sample's bytes in a ring. -/
def sampleBytes (f : Nat) (x : Int) : List Byte :=
  match f with
  | 3 => leBytes 4 (code 24 x * 256)
  | _ => leBytes (sfmtBytes f) (code (8 * sfmtBytes f) x)

/-- A sample read from a ring. -/
def sampleOf (f : Nat) (bs : List Byte) : Int :=
  match f with
  | 3 => signed 24 (leVal bs / 256)
  | _ => signed (sfmtWidth f) (leVal bs)

/-- The slots a mask enables, in ascending order. -/
def maskSlots (m : Nat) : List Nat := (List.range 16).filter (fun k => m.testBit k)

/-- The data of a slot of `wide` bits: its `width` highest bits, most significant first (R525). -/
def slotData (wide width x : Nat) : Int := signed width (x % 2 ^ wide / 2 ^ (wide - width))

/-- A slot as ASDOa carries it: the data left-aligned, 0 after it (R525). -/
def slotOf (wide width : Nat) (x : Int) : Nat := code width x * 2 ^ (wide - width)

/-- A direction of a port: its registers begin at RX_MASK or at TX_MASK. -/
def audDir (tx : Bool) : Nat := if tx then 0x20 else 0
def audMask (s : State) (a : Nat) (tx : Bool) : Nat := auF s a (Off.AUD_RX_MASK + audDir tx) 0 16
def audBase (s : State) (a : Nat) (tx : Bool) : Nat :=
  auF s a (Off.AUD_RX_BASE_LO + audDir tx) 0 32 + auF s a (Off.AUD_RX_BASE_HI + audDir tx) 0 3 * 2 ^ 32
def audSize (s : State) (a : Nat) (tx : Bool) : Nat := auF s a (Off.AUD_RX_SIZE + audDir tx) 0 17
def audSw (s : State) (a : Nat) (tx : Bool) : Word := reg s (audPage a) (Off.AUD_RX_SW + audDir tx)

/-- The bus frame that carries the samples `xs` of the enabled slots; the other slots are 0 (log 47). -/
def asdoFrame (s : State) (a : Nat) (xs : List Int) : List Nat :=
  let on := maskSlots (audMask s a true)
  (List.range (audSlots s a)).map (fun k =>
    match on.idxOf? k with
    | some i => slotOf (audBits s a) (sfmtWidth (audFmt s a)) (xs.getD i 0)
    | none => 0)

/-- Bytes of a ring frame (R526). -/
def frameBytes (s : State) (a : Nat) (tx : Bool) : Nat := (maskSlots (audMask s a tx)).length * sfmtBytes (audFmt s a)

/-- The place of frame p in its ring (R527). -/
def frameAddr (s : State) (a : Nat) (tx : Bool) (p : Word) : Nat :=
  audBase s a tx + p.toNat % max 1 (audSize s a tx) * frameBytes s a tx

/-! ## Fade (R528) -/

/-- The gain of a frame, from the gain before it and the room. -/
def fadeGain (len g : Nat) (room : Int) : Nat :=
  if len = 0 then (if room ≤ 0 then 0 else 32768)
  else
    let tgt := if room ≤ 0 then 0 else min 32768 (room.toNat * 32768 / len)
    min tgt (g + (32768 + len - 1) / len)

/-- A sample under a gain. -/
def fadeSample (x : Int) (g : Nat) : Int := halfEven (x * g) 32768

/-- lim - p in a direction. -/
def audRoom (s : State) (a : Nat) (tx : Bool) (p : Word) : Int :=
  ((if tx then audSw s a true else audSw s a false + BitVec.ofNat 32 (audSize s a false)) - p).toInt

/-- FADING (R537). -/
def audLevel (s : State) (a : Nat) : State :=
  let v := audAt s a
  setLevel s (audPage a) 3 (decide (2 ≤ v.st) && (decide (v.gRx < 32768) || decide (v.gTx < 32768)))

/-- The gain of frame p of a direction is computed; a fall of room to 0 or below raises UNDERRUN or OVERRUN. -/
def audGain (s : State) (a : Nat) (tx : Bool) (p : Word) : Nat × State :=
  let v := audAt s a
  let room := audRoom s a tx p
  let g := fadeGain (auF s a Off.AUD_FADE 0 13) (if tx then v.gTx else v.gRx) room
  let fall := (if tx then v.txRoom else v.rxRoom) && decide (room ≤ 0)
  let v := if tx then { v with gTx := g, txRoom := decide (0 < room) } else { v with gRx := g, rxRoom := decide (0 < room) }
  (g, raiseIf fall (audPage a) (if tx then 1 else 2) (setAud s a v))

/-! ## Frames (R527, R528) -/

/-- Writes receive frame p: its samples under the gain, or zeros. -/
def rxPut (s : State) (a : Nat) (p : Word) (xs : List Int) : State :=
  let f := audFmt s a
  let bs := xs.flatMap (sampleBytes f)
  let at_ := frameAddr s a false p
  let s := if hbmOk s at_ bs.length then memPut s at_ bs else s
  setAud s a { audAt s a with rxHw := p + 1, rxNext := p + 1 }

/-- A receive frame of silence. -/
def rxSilence (s : State) (a : Nat) (p : Word) : State := rxPut s a p ((maskSlots (audMask s a false)).map (fun _ => 0))

/-- The port writes its next receive frame, which has ended, from the slots as ASDIa carried them (R525, R527). -/
def rxWrite (s : State) (a : Nat) (slots : List Nat) : State :=
  let v := audAt s a
  let p := v.rxNext
  if v.st < 2 ∨ frameGe v.pos (p + 1) = false then s
  else
    let (g, s) := audGain s a false p
    let w := sfmtWidth (audFmt s a)
    let s := if (audAt s a).cut.contains p then rxSilence s a p
      else rxPut s a p ((maskSlots (audMask s a false)).map (fun k => fadeSample (slotData (audBits s a) w (slots.getD k 0)) g))
    audLevel (setAud s a { audAt s a with cut := (audAt s a).cut.filter (fun x => decide (x ≠ p)) }) a

def execAudRxWrite (a : Fin 4) (slots : List (BitVec 32)) (s : State) : Res :=
  done (rxWrite s a.val (slots.map (fun x => x.toNat)))

/-- The port fetches its next transmit frame, at most 64 frames before it plays (R527, R528). -/
def txFetch (s : State) (a : Nat) : State :=
  let v := audAt s a
  let p := v.txNext
  let base := if v.st = 1 then v.startPos else v.pos
  if v.st = 0 ∨ v.st = 3 ∨ decide (64 < (p - base).toInt) = true then s
  else
    let (g, s) := audGain s a true p
    let n := frameBytes s a true
    let f := audFmt s a
    let r : ReplyStatus × List Byte × State := if g = 0 then (.ok, List.replicate n 0, s) else hbmRead s (frameAddr s a true p) n
    let s := r.2.2
    let xs := (List.range (maskSlots (audMask s a true)).length).map (fun i =>
      if r.1 = .ok then fadeSample (sampleOf f ((r.2.1.drop (i * sfmtBytes f)).take (sfmtBytes f))) g else 0)
    let v := audAt s a
    audLevel (setAud s a { v with txHw := p + 1, txNext := p + 1, fetched := v.fetched ++ [(p, xs)] }) a

def execAudTxFetch (a : Fin 4) (s : State) : Res := done (txFetch s a.val)

/-! ## Stamps (R530, R534) -/

/-- Two ports of one aligned group. -/
def sameGroup (s : State) (a b : Nat) : Bool :=
  decide (auF s a Off.AUD_CFG 13 2 ≠ 0) && decide (auF s a Off.AUD_CFG 13 2 = auF s b Off.AUD_CFG 13 2)

/-- ALIGN_ERR of port a against the member started. -/
def alignCheck (s : State) (a : Nat) : State :=
  let v := audAt s a
  if v.lead = a ∨ sameGroup s a v.lead = false then s
  else match v.stamp, (audAt s v.lead).stamp with
    | some x, some y =>
      if x.pos = y.pos then
        setLevel s (audPage a) 8 (decide (auF s a Off.AUD_ALIGN_TOL 0 16 * 2 ^ 16 < ((x.t : Int) - (y.t : Int)).natAbs))
      else s
    | _, _ => s

/-- Position p begins at time t: its stamp, where it has one. -/
def audStamp (s : State) (a : Nat) (p : Word) (t : Nat) (predicted : Bool) : State :=
  let k := auF s a Off.AUD_STAMP_CFG 0 4
  if auF s a Off.AUD_STAMP_CFG 8 1 = 0 ∨ p.toNat % 2 ^ k ≠ 0 then s
  else
    let s := setAud s a { audAt s a with stamp := some ⟨p, t, predicted⟩ }
    let at_ := auF s a Off.AUD_STAMP_BASE_LO 0 32 + auF s a Off.AUD_STAMP_BASE_HI 0 3 * 2 ^ 32 + p.toNat / 2 ^ k % 64 * 16
    let ws : List Word := [p, BitVec.ofNat 32 (stampNs t + b2n predicted * 2 ^ 31), BitVec.ofNat 32 (stampSec t), BitVec.ofNat 32 (stampFrac t)]
    let s := if hbmOk s at_ 16 then memPut s at_ (bytesOfWords ws) else s
    (List.range 4).foldl alignCheck s

/-- R535: a read of LAST_STAMP_POS captures the next three words. -/
def lastStampRead (s : State) (a : Nat) : State :=
  let v := (audAt s a).stamp.getD ⟨0, 0, false⟩
  let pg := audPage a
  let s := capture s pg Off.AUD_LAST_STAMP_NS (stampNs v.t + b2n v.predicted * 2 ^ 31)
  let s := capture s pg (Off.AUD_LAST_STAMP_NS + 4) (stampSec v.t)
  let s := capture s pg (Off.AUD_LAST_STAMP_NS + 8) (stampFrac v.t)
  { s with lastRead := v.pos }

def execAudLastStampRead (a : Fin 4) (s : State) : Res := done (if pageUp s (.aud a) then lastStampRead s a.val else s)

/-! ## Start and stop (R529, R530) -/

/-- A port may be armed: STOPPED, its island in RUN. -/
def audFree (s : State) (a : Nat) : Bool := decide ((audAt s a).st = 0) && islandRuns s (islAud a)

/-- Arms a port for a start of port `lead`. -/
def audArm (s : State) (lead a : Nat) : State :=
  let p := reg s (audPage lead) Off.AUD_START_POS
  let v := audAt s a
  setAud s a { Aud.initial with
    st := 1, pos := v.pos, rxHw := v.rxHw, txHw := v.txHw, rxNext := p, txNext := p, startPos := p, lead := lead, period := v.period
    stamp := v.stamp }

/-- CMD.start, or a slot's action 4. -/
def audStart (s : State) (a : Nat) : State :=
  if !audFree s a then s
  else
    let ms := (List.range 4).filter (fun b => decide (b = a) || sameGroup s a b)
    if ms.any (fun b => decide (auF s b Off.AUD_NOM_RATE 0 18 ≠ auF s a Off.AUD_NOM_RATE 0 18)) then raise s (audPage a) 9
    else (ms.filter (audFree s)).foldl (fun (t : State) b => audArm t a b) s

/-- CMD.stop: ASDO is driven 0. -/
def audStop (s : State) (a : Nat) : State :=
  let v := audAt s a
  audLevel (setLevel (setAud s a { v with st := 0, gRx := 0, gTx := 0, playing := [], fetched := [], cut := [] }) (audPage a) 8 false) a

def execAudStart (a : Fin 4) (s : State) : Res := done (if pageUp s (.aud a) then audStart s a.val else s)
def execAudStop (a : Fin 4) (s : State) : Res := done (if pageUp s (.aud a) then audStop s a.val else s)

/-! ## Positions (R529 to R532) -/

/-- Position p begins at the balls at time t. -/
def audPosition (s : State) (a : Nat) (p : Word) (t : Nat) (predicted : Bool) : State :=
  let v := audAt s a
  let now := (v.fetched.find? (fun x => decide (x.1 = p))).map (fun x => x.2)
  let v := { v with pos := p, playing := asdoFrame s a (now.getD []), fetched := v.fetched.filter (fun x => !frameGe p x.1)
                    txNext := if frameGe p v.txNext then p + 1 else v.txNext }
  audStamp (setAud s a v) a p t predicted

/-- An armed port starts on an edge at time t. -/
def audBegin (s : State) (a : Nat) (t : Nat) : State :=
  let v := audAt s a
  let s := setAud s a { v with st := 2, gRx := 0, rxRoom := false, edge := some t, frames := 0, mark := t, good := 0, back := false }
  audLevel (raise (audPosition s a v.startPos t false) (audPage a) 0) a

/-- The rate of n frames that took `span` (2^-16 ns) lies within TOL of NOM_RATE (R531, R532). -/
def audNear (s : State) (a n span : Nat) : Bool :=
  let one : Nat := nsPerSec * 2 ^ 16 * n
  let nom : Nat := span * auF s a Off.AUD_NOM_RATE 0 18
  decide (((nom : Int) - (one : Int)).natAbs * 1000000 ≤ auF s a Off.AUD_TOL 0 16 * nom)

/-- Enters HOLDOVER: the frame in progress is lost, gains restart from 0. -/
def audHold (s : State) (a : Nat) : State :=
  let v := audAt s a
  if v.st ≠ 2 then s
  else
    let s := setAud s a { v with st := 3, gRx := 0, gTx := 0, good := 0, back := false, cut := v.pos :: v.cut, fetched := [] }
    audLevel (raise s (audPage a) 4) a

/-- Every 64 frames the period is measured and judged (R532). -/
def audMeasure (s : State) (a : Nat) (t : Nat) : State :=
  let v := audAt s a
  if v.frames + 1 < 64 then setAud s a { v with frames := v.frames + 1 }
  else
    let span := t - v.mark
    let s := setAud s a { v with frames := 0, mark := t, period := span / 64 }
    if audNear s a 64 span then s
    else
      let s := raise s (audPage a) 6
      let ok := decide (span * 32000 ≤ 64 * nsPerSec * 2 ^ 16) && decide (64 * nsPerSec * 2 ^ 16 ≤ span * 192000)
      if auF s a Off.AUD_CFG 15 1 = 1 ∧ ok = true then s else audHold s a

/-- The first edge of the member started sets T; a member whose last edge lies at or after T - P / 2 starts on it (R530). -/
def audLeadStarts (s : State) (a : Nat) (t : Nat) : State :=
  (List.range 4).foldl (fun (u : State) b =>
    let v := audAt u b
    if v.st = 1 ∧ v.lead = a ∧ b ≠ a then
      let half := nsPerSec * 2 ^ 16 / max 1 (auF u a Off.AUD_NOM_RATE 0 18) / 2
      let u := setAud u b { v with leadT := some (t - half) }
      match v.edge with
      | some e => if t - half ≤ e then audBegin u b e else u
      | none => u
    else u) s

/-- A frame-sync edge at the AFSYNCa ball, `clocks` ABCLKs after the one before (R529 to R532, R534). -/
def afsyncEdge (s : State) (a clocks : Nat) : State :=
  let v := audAt s a
  let t := now16 s
  match v.st with
  | 1 =>
    if v.lead = a then audLeadStarts (audBegin s a t) a t
    else match v.leadT with
      | some lo => if lo ≤ t then audBegin s a t else setAud s a { v with edge := some t }
      | none => setAud s a { v with edge := some t }
  | 2 =>
    let whole := audSlots s a * audBits s a
    let bad := decide (clocks ≠ whole) && !v.back
    let s := if bad then raise (setAud s a { v with cut := if clocks < whole then v.pos :: v.cut else v.cut }) (audPage a) 7 else s
    let s := setAud s a { audAt s a with edge := some t, back := false }
    let s := audPosition s a (v.pos + 1) t false
    if bad ∨ v.back then setAud s a { audAt s a with frames := 0, mark := t } else audMeasure s a t
  | 3 =>
    let near := match v.edge with
      | some e => audNear s a 1 (t - e)
      | none => false
    let good := if near then v.good + 1 else 0
    let s := setAud s a { v with edge := some t, good := good }
    if good = 4 then raise (setAud s a { audAt s a with st := 2, good := 0, back := true }) (audPage a) 5 else s
  | _ => s

def execAfsyncEdge (a : Fin 4) (clocks : Nat) (s : State) : Res :=
  done (if islandUp s (islAud a.val) then afsyncEdge s a.val clocks else s)

/-- R531. -/
def execAudClockLossTimeout (a : Fin 4) (s : State) : Res := done (audHold s a.val)

/-- Receive frames up to p that are not yet written are written as silence. -/
def rxFlush (a : Nat) (p : Word) : Nat → State → State
  | 0, s => s
  | n + 1, s => if frameGe p (audAt s a).rxNext then rxFlush a p n (rxSilence s a (audAt s a).rxNext) else s

/-- R531: a virtual frame of the last measured period, also after the qualification until an edge ends the one in progress. -/
def audVirtual (s : State) (a : Nat) : State :=
  let v := audAt s a
  if v.st ≠ 3 ∧ v.back = false then s
  else
    let s := audPosition s a (v.pos + 1) (now16 s) true
    let s := rxFlush a (v.pos + 1) (v.pos + 2 - v.rxNext).toNat s
    setAud s a { audAt s a with cut := [], playing := [] }

def execAudVirtualFrame (a : Fin 4) (s : State) : Res := done (audVirtual s a.val)

/-- AUD a leaves IDLE or RUN: the port is STOPPED, and its position and ring pointers are 0 (R533). -/
def audLost (s : State) (a : Nat) : State :=
  let s := setReg (setReg s (audPage a) Off.AUD_RX_SW 0) (audPage a) (Off.AUD_RX_SW + audDir true) 0
  setAud s a { Aud.initial with period := (audAt s a).period, stamp := (audAt s a).stamp }

end Sys2Proof.Machine
end

