-- ==== Sys2Proof/Machine/Ring.lean ====
section
/-!
DEFINITION. Ring ports as every unit sees them: the port's record, its page, its level events and its marks
(spec/12_bunting_physical.md R343, R354 to R356, spec/13_bunting_protocol.md R365, R390, R393).
-/
namespace Sys2Proof.Machine

def ringAt (s : State) (p : Nat) : Ring := mapGet (fun _ => Ring.initial) s.ring p
def setRing (s : State) (p : Nat) (v : Ring) : State := { s with ring := mapSet (fun _ => Ring.initial) s.ring p v }
def bgrpAt (s : State) (g : Nat) : Bgrp := mapGet (fun _ => Bgrp.initial) s.bgrp g
def setBgrp (s : State) (g : Nat) (v : Bgrp) : State := { s with bgrp := mapSet (fun _ => Bgrp.initial) s.bgrp g v }
def bportPage (p : Nat) : Page := .bport (Fin.ofNat 256 p)
def bgrpPage (g : Nat) : Page := .bgrp (Fin.ofNat 16 g)

/-- Ring p is UP. -/
def ringUp (s : State) (p : Nat) : Bool := decide ((ringAt s p).st = 6)

/-- The module entry of a position. -/
def modEnt (r : Ring) (m : Nat) : ModEnt := mapGet (fun _ => ModEnt.initial) r.mods m

/-- The last report of a position. -/
def rptOf (r : Ring) (m : Nat) : Rpt := mapGet (fun _ => Rpt.initial) r.rpt m

/-- The events of a ring that are levels (R355, R356, R393). -/
def ringLevels (s : State) (p : Nat) : State :=
  let r := ringAt s p
  let g := p / 16
  let s := setLevel s (bportPage p) 0 (decide (r.st = 6))
  let s := setLevel s (bportPage p) 23 (!r.idMis.isEmpty)
  let s := setLevel s (bportPage p) 24 r.modMissing
  let s := setLevel s (bportPage p) 25 (r.rpt.any (fun e => decide (e.2.fwState = 5)))
  setLevel s (bgrpPage g) 1 ((List.range 16).any (fun i =>
    bitOf (reg s (bportPage (16 * g + i)) Off.BPORT_LINK_CFG) 4 && !([6, 7, 8].contains (ringAt s (16 * g + i)).st)))

/-- Adds marks to a list without repeats. -/
def marks (l new : List Nat) : List Nat := new.foldl (fun acc m => if acc.contains m then acc else m :: acc) l

/-- Marks modules of a ring need_full (R365). -/
def markFull (s : State) (p : Nat) (ms : List Nat) : State :=
  let r := ringAt s p
  setRing s p { r with needFull := marks r.needFull ms }

/-- A context's words have been written by a commit or a direct write: its module is marked need_full, and a refused
identity is accepted where the new `ident` matches it or is 0 (R365, R390). -/
def ctxIdent (s : State) (c ident : Nat) : State :=
  let p := c / 192
  let m := c % 192
  let s := markFull s p [m]
  let r := ringAt s p
  if r.idMis.contains m ∧ (ident = 0 ∨ ident = (modEnt r m).ident) then
    ringLevels (setRing s p { r with idMis := r.idMis.filter (fun k => decide (k ≠ m)) }) p
  else s

end Sys2Proof.Machine
end

