-- ==== Sys2Proof/Machine/Geom.lean ====
section
/-!
DEFINITION. Module contexts, module types, the geometry mesh, and the ray of a lamp
(spec/07_ray_generation.md R182 to R207).
-/
namespace Sys2Proof.Machine

/-! ## Integer square roots and exact vectors -/

/-- Digit by digit square root: the root found so far, and the next bit to try. -/
def isqrtGo (x : Nat) : Nat → Nat → Nat
  | 0, r => r
  | n + 1, r => isqrtGo x n (if (r + 2 ^ n) * (r + 2 ^ n) ≤ x then r + 2 ^ n else r)

/-- The floor of the square root. -/
def isqrt (x : Nat) : Nat := isqrtGo x (Nat.log2 x / 2 + 1) 0


def vdot (a b : Vec3) : Int := a.1 * b.1 + a.2.1 * b.2.1 + a.2.2 * b.2.2
def vmap (f : Int → Int) (a : Vec3) : Vec3 := (f a.1, f a.2.1, f a.2.2)
def vadd (a b : Vec3) : Vec3 := (a.1 + b.1, a.2.1 + b.2.1, a.2.2 + b.2.2)
def vsub (a b : Vec3) : Vec3 := (a.1 - b.1, a.2.1 - b.2.1, a.2.2 - b.2.2)
def vscale (k : Int) (a : Vec3) : Vec3 := (k * a.1, k * a.2.1, k * a.2.2)

/-- One component over the length, round-half-even to 16 fraction bits: `c * 2^16 / sqrt n2`. -/
def normComp (c : Int) (n2 : Nat) : Int :=
  let sq := c.natAbs * c.natAbs * 2 ^ 34
  let r := isqrt (sq / n2)
  let q := r / 2
  let m := if r % 2 = 0 then q else if r * r * n2 = sq then (if q % 2 = 0 then q else q + 1) else q + 1
  if c < 0 then -(m : Int) else (m : Int)

/-- normalize of R194 to s2.16; none for a vector of length 0. Any common scale of the components cancels. -/
def normalize (v : Vec3) : Option Vec3 :=
  let n2 := (vdot v v).toNat
  if n2 = 0 then none else some (vmap (fun c => normComp c n2) v)

/-! ## Types, contexts, mesh -/

/-- TYPE_CFG of a type: in a map of types, and of the moment. -/
def typeOf (m : AMap Word) (t : Nat) : Word := mapGet (fun _ => 0) m t
def typeCfg (s : State) (t : Nat) : Word := typeOf s.geom.types t

/-- HW, HH, VW, VH of a TYPE_CFG word (R183). -/
def tHW (c : Word) : Nat := fld c 0 8 + 1
def tHH (c : Word) : Nat := fld c 8 8 + 1
def tVW (c : Word) : Nat := fld c 16 4 + 1
def tVH (c : Word) : Nat := fld c 20 4 + 1

/-- The lamp count of a type (R184). -/
def tLamps (c : Word) : Nat := tHW c * tVW c * (tHH c * tVH c)

/-- A word of a context map. -/
def ctxGet (m : AMap Word) (c w : Nat) : Word := mapGet (fun _ => 0) m (16 * c + w)
def ctxWord (s : State) (c w : Nat) : Word := ctxGet s.geom.ctx c w
def setCtx (s : State) (c w : Nat) (v : Word) : State :=
  { s with geom := { s.geom with ctx := mapSet (fun _ => 0) s.geom.ctx (16 * c + w) v } }

/-- The words of a context. -/
def ctxWords (m : AMap Word) (c : Nat) : List Word := (List.range 16).map (ctxGet m c)

/-- The context number of ring `p`, position `m`; its group; presence on the part (R187). -/
def ctxNum (p m : Nat) : Nat := p * 192 + m
def ctxGroup (c : Nat) : Nat := c / 3072
def ctxPresent (s : State) (c : Nat) : Bool := decide (c / 3072 < groupCount s.part)

/-- Fields of a context's words (R187). -/
def cValid (c : List Word) : Bool := bitOf (c.getD 0 0) 0
def cOrient (c : List Word) : Nat := fld (c.getD 0 0) 1 3
def cType (c : List Word) : Nat := fld (c.getD 0 0) 4 6
def cMeshBase (c : List Word) : Nat := fld (c.getD 1 0) 0 21
def cMeshW (c : List Word) : Nat := fld (c.getD 1 0) 21 5 + 1
def cMeshH (c : List Word) : Nat := fld (c.getD 1 0) 26 5 + 1
def cCanX (c : List Word) : Int := signed 32 (c.getD 2 0).toNat
def cCanY (c : List Word) : Int := signed 32 (c.getD 3 0).toNat
def cCanSx (c : List Word) : Int := signed 16 (fld (c.getD 4 0) 0 16)
def cCanSy (c : List Word) : Int := signed 16 (fld (c.getD 4 0) 16 16)
def cTrimBase (c : List Word) : Nat := fld (c.getD 5 0) 0 30
def cWearBase (c : List Word) : Nat := fld (c.getD 6 0) 0 24
def cIdent (c : List Word) : Nat := (c.getD 7 0).toNat + (c.getD 8 0).toNat * 2 ^ 32
def cBand (c : List Word) : Nat := fld (c.getD 12 0) 16 3

/-- The bits of context words 0 to 11 that hold fields (R187). -/
def ctxMask (w : Nat) : Nat :=
  match w with
  | 0 => 0x3FF
  | 1 => 0x7FFFFFFF
  | 2 | 3 | 4 | 7 | 8 => 0xFFFFFFFF
  | 5 => 0x3FFFFFFF
  | 6 => 0xFFFFFF
  | _ => 0

/-- The context is served for a frame: valid, and its type defined (R188). -/
def ctxServed (types : AMap Word) (c : List Word) : Bool := cValid c && bitOf (typeOf types (cType c)) 31

/-- A map of contexts holds a valid one of an undefined type (R188). -/
def ctxAstray (types ctx : AMap Word) : Bool :=
  ctx.any (fun e => decide (e.1 % 16 = 0) && bitOf e.2 0 && !bitOf (typeOf types (fld e.2 4 6)) 31)

/-- The layout grid of an orientation (R186). -/
def layoutDims (o w h : Nat) : Nat × Nat := if o % 2 = 1 then (h, w) else (w, h)

/-- R186: position (x, y) of a w x h grid in the layout frame. -/
def orientPos (o x y w h : Nat) : Nat × Nat :=
  match o with
  | 0 => (x, y)
  | 1 => (h - 1 - y, x)
  | 2 => (w - 1 - x, h - 1 - y)
  | 3 => (y, w - 1 - x)
  | 4 => (w - 1 - x, y)
  | 5 => (h - 1 - y, w - 1 - x)
  | 6 => (x, h - 1 - y)
  | _ => (y, x)

/-- R186: the position of the w x h grid that orientation `o` takes to (X, Y). -/
def orientInv (o bx byy w h : Nat) : Nat × Nat :=
  match o with
  | 0 => (bx, byy)
  | 1 => (byy, h - 1 - bx)
  | 2 => (w - 1 - bx, h - 1 - byy)
  | 3 => (w - 1 - byy, bx)
  | 4 => (w - 1 - bx, byy)
  | 5 => (w - 1 - byy, h - 1 - bx)
  | 6 => (bx, h - 1 - byy)
  | _ => (byy, bx)

/-- R186: the oriented view components. -/
def orientView (o : Nat) (vx vy : Int) : Int × Int :=
  match o with
  | 0 => (vx, vy)
  | 1 => (vy, -vx)
  | 2 => (-vx, -vy)
  | 3 => (-vy, vx)
  | 4 => (-vx, vy)
  | 5 => (vy, vx)
  | 6 => (vx, -vy)
  | _ => (-vy, -vx)

/-- A view entry (vx, vy, vz), s2.14 (R185). -/
def viewOf (s : State) (t k : Nat) : Vec3 :=
  let xy := mapGet (fun _ => (0 : Word)) s.geom.viewXY (t * 256 + k)
  let z := mapGet (fun _ => (0 : Word)) s.geom.viewZ (t * 256 + k)
  (signed 16 (fld xy 0 16), signed 16 (fld xy 16 16), signed 16 (fld z 0 16))

/-- Mesh entries (R189). -/
def meshSize : Nat := 2097152

/-- A word of a mesh entry; word 3 reads 0 (R190). -/
def meshWord (s : State) (k w : Nat) : Word := if w = 3 then 0 else mapGet (fun _ => 0) s.geom.mesh (4 * k + w)

/-- A vertex: raw position s10.14 and octahedral normal (R190). -/
structure Vertex where
  pos : Vec3
  ou : Int
  ov : Int
deriving DecidableEq, Repr

/-- The vertex of three mesh words. -/
def vertexOf (a b c : Word) : Vertex :=
  { pos := (signed 24 (fld a 0 24), signed 24 (fld b 0 24), signed 24 (fld c 0 24))
    ou := signed 12 (fld a 24 8 * 16 + fld b 28 4)
    ov := signed 12 (fld b 24 4 * 256 + fld c 24 8) }

/-- A vertex of a loaded patch, three words each in row-major order. -/
def patchVertex (vs : List Word) (k : Nat) : Vertex :=
  vertexOf (vs.getD (3 * k) 0) (vs.getD (3 * k + 1) 0) (vs.getD (3 * k + 2) 0)

/-- sgn with sgn(0) = 1 (R196). -/
def sgn1 (x : Int) : Int := if x < 0 then -1 else 1

/-- oct_decode in units of 1/2048 (R196). -/
def octDecode (a c : Int) : Vec3 :=
  let z : Int := 2048 - (a.natAbs : Int) - (c.natAbs : Int)
  if z < 0 then ((2048 - c.natAbs) * sgn1 a, (2048 - a.natAbs) * sgn1 c, z) else (a, c, z)

/-! ## Rays (R194, R195) -/

/-- Rounds a canvas sum into s24.8, keeping its low 32 bits (R17). -/
def s24 (x : Int) : Int := signed 32 (code 32 x)

/-- The ray of lamp `l` for a context, its type word, its view entry and its patch (R194). -/
def rayOf (ctx : List Word) (tc : Word) (view : Nat → Vec3) (vs : List Word) (l : Nat) : RayGeo :=
  let vw := tVW tc
  let vh := tVH tc
  let lwt := tHW tc * vw
  let lx := l % lwt
  let ly := l / lwt
  let v := view (ly % vh * vw + lx % vw)
  let (bx, byy) := orientPos (cOrient ctx) (lx / vw) (ly / vh) (tHW tc) (tHH tc)
  let (lw, lh) := layoutDims (cOrient ctx) (tHW tc) (tHH tc)
  let (vxo, vyo) := orientView (cOrient ctx) v.1 v.2.1
  let mw := cMeshW ctx
  let mh := cMeshH ctx
  let pu := (halfEven ((2 * bx + 1) * (mw - 1) * 2 ^ 16 : Nat) (2 * lw)).toNat
  let pv := (halfEven ((2 * byy + 1) * (mh - 1) * 2 ^ 16 : Nat) (2 * lh)).toNat
  let i := pu / 2 ^ 16
  let j := pv / 2 ^ 16
  let fu : Int := ((pu % 2 ^ 16 : Nat) : Int)
  let fv : Int := ((pv % 2 ^ 16 : Nat) : Int)
  let one : Int := 65536
  let q (a b : Nat) : Vertex := patchVertex vs ((j + b) * mw + (i + a))
  let bl (f : Vertex → Vec3) : Vec3 :=
    vadd (vadd (vscale ((one - fu) * (one - fv)) (f (q 0 0))) (vscale (fu * (one - fv)) (f (q 1 0))))
         (vadd (vscale ((one - fu) * fv) (f (q 0 1))) (vscale (fu * fv) (f (q 1 1))))
  let org := vmap (fun x => halfEven x (2 ^ 30)) (bl (fun x => x.pos))
  let de := vadd (vscale (one - fv) (vsub (q 1 0).pos (q 0 0).pos)) (vscale fv (vsub (q 1 1).pos (q 0 1).pos))
  let frame : Option (Vec3 × Vec3) := match normalize (bl (fun x => octDecode x.ou x.ov)) with
    | none => none
    | some n => match normalize (vsub (vscale (2 ^ 32) de) (vscale (vdot de n) n)) with
      | none => none
      | some t => some (n, t)
  let (n, t, b) := match frame with
    | some (n, t) => (n, t, vmap (fun x => halfEven x (2 ^ 16)) (cross n t))
    | none => (((0 : Int), (0 : Int), one), (one, (0 : Int), (0 : Int)), ((0 : Int), one, (0 : Int)))
  let d := normalize (vadd (vadd (vscale vxo t) (vscale vyo b)) (vscale v.2.2 n))
  { org := org, dir := d.getD n
    cx := s24 (cCanX ctx + halfEven ((2 * bx + 1 : Nat) * cCanSx ctx) 2)
    cy := s24 (cCanY ctx + halfEven ((2 * byy + 1 : Nat) * cCanSy ctx) 2)
    degenerate := frame.isNone || d.isNone }

/-! ## Changing geometry (R198 to R203) -/

/-- The context update records pending in a bank. -/
def pendCtxs (s : State) (g : Nat) : List (Nat × List Word) :=
  match (cslot s .geom g).pending with
  | some p => p.ctxs
  | none => []

/-- Words of a context update record in HBM (R198). -/
def ctxRecord (s : State) (base i : Nat) : List Word := memWords s (base + 68 * i) 17

/-- The contexts in force that the map lists with valid = 1. -/
def validCtxs (s : State) : List Nat :=
  s.geom.ctx.filterMap (fun e => if e.1 % 16 = 0 ∧ bitOf e.2 0 = true then some (e.1 / 16) else none)

/-- TYPE_REFS: valid contexts that name the type, in force or in a pending list (R202). -/
def typeRefs (s : State) (t : Nat) : Nat :=
  ((validCtxs s).filter (fun c => decide (fld (ctxWord s c 0) 4 6 = t))).length
  + (((List.range 16).flatMap (pendCtxs s)).filter
      (fun r => cValid (r.2.drop 1) && decide (cType (r.2.drop 1) = t))).length

/-- A type is busy (R202). -/
def typeBusy (s : State) (t : Nat) : Bool := bitOf (typeCfg s t) 31 && decide (typeRefs s t ≠ 0)

/-- TYPE_SEL. -/
def typeSel (s : State) : Nat := regF s .geom Off.GEOM_TYPE_SEL 0 6

/-- A write of TYPE_CFG (R202). -/
def typeCfgWrite (s : State) (v : Word) : State :=
  let t := typeSel s
  if typeBusy s t then raise s .geom 1
  else if bitOf v 31 ∧ (256 < tHW v * tVW v ∨ 256 < tHH v * tVH v) then raise s .geom 2
  else { s with geom := { s.geom with types := mapSet (fun _ => 0) s.geom.types t (v &&& 0x80FFFFFF) } }

/-- The view port's entry: type * 256 + VIEW_ADDR. -/
def viewKey (s : State) : Nat := typeSel s * 256 + regF s .geom Off.GEOM_VIEW_ADDR 0 8

/-- A write of VIEW_XY (R202, R205). -/
def viewXYWrite (s : State) (v : Word) : State :=
  if typeBusy s (typeSel s) then raise s .geom 1
  else { s with geom := { s.geom with viewXY := mapSet (fun _ => 0) s.geom.viewXY (viewKey s) v } }

/-- One access of VIEW_Z; it advances VIEW_ADDR whether or not a write is discarded (R202, R626). -/
def viewZAccess (s : State) (w : Option Word) : State :=
  let s' := match w with
    | some v => if typeBusy s (typeSel s) then raise s .geom 1
                else { s with geom := { s.geom with viewZ := mapSet (fun _ => 0) s.geom.viewZ (viewKey s) (v &&& 0xFFFF) } }
    | none => { s with lastRead := mapGet (fun _ => 0) s.geom.viewZ (viewKey s) }
  advance s' .geom Off.GEOM_VIEW_ADDR 8

/-- What a write of a context means to the ring that carries its module (R365, R390). -/
def ctxWritten (s : State) (c : Nat) : State := ctxIdent s c (cIdent (ctxWords s.geom.ctx c))

/-- A write of CTX_DATA w (R201). Words 12 to 15 are read-only, an absent context takes nothing. -/
def ctxDataWrite (s : State) (w : Nat) (v : Word) : State :=
  let c := regF s .geom Off.GEOM_CTX_SEL 0 16
  if 12 ≤ w ∨ 49152 ≤ c ∨ ctxPresent s c = false then s
  else if (tgen s (ctxGroup c)).gen ≠ .stopped then raise s .geom 0
  else ctxWritten (setCtx s c w (v &&& BitVec.ofNat 32 (ctxMask w))) c

/-- A write of one mesh word (R190, R191). -/
def meshWrite (s : State) (k w : Nat) (v : Word) : State :=
  if w = 3 then s else { s with geom := { s.geom with mesh := mapSet (fun _ => 0) s.geom.mesh (4 * k + w) v } }

/-- R191. -/
def execMeshWrite (entry : Fin 2097152) (w : Fin 4) (v : Word) (s : State) : Res :=
  done (if pageUp s .geom then meshWrite s entry.val w.val v else s)

/-- R191: every earlier write has taken effect, since each takes effect as it comes. -/
def execMeshRead (entry : Fin 2097152) (w : Fin 4) (s : State) : Res :=
  done { s with lastRead := if pageUp s .geom then meshWord s entry.val w.val else 0xFFFFFFFF }

/-- R201. -/
def execCtxDataWrite (w : Fin 16) (v : Word) (s : State) : Res :=
  done (if pageUp s .geom then ctxDataWrite s w.val v else s)

/-- R202. -/
def execTypeCfgWrite (v : Word) (s : State) : Res := done (if pageUp s .geom then typeCfgWrite s v else s)

/-- R205. -/
def execViewXyWrite (v : Word) (s : State) : Res := done (if pageUp s .geom then viewXYWrite s v else s)

/-- R626. -/
def execViewZAccess (write : Option Word) (s : State) : Res :=
  done (if pageUp s .geom then viewZAccess s write
        else { s with lastRead := if write.isNone then 0xFFFFFFFF else s.lastRead })

/-! ## The check of a context list (R199) -/

/-- R199 codes 1 to 6 of one record for bank g. -/
def ctxRecCode (s : State) (g : Nat) (r : List Word) : Nat :=
  let c := fld (r.getD 0 0) 0 16
  let x := r.drop 1
  let tc := typeCfg s (cType x)
  let (lw, lh) := layoutDims (cOrient x) (tHW tc) (tHH tc)
  let off (b k : Int) (n : Nat) : Bool := decide (b + n * k < -2147483648) || decide (2147483647 < b + n * k)
  if fld (r.getD 0 0) 17 15 ≠ 0 ∨ (r.drop 13).any (fun w => decide (w ≠ 0)) = true
     ∨ (List.range 12).any (fun w => decide ((x.getD w 0).toNat &&& (0xFFFFFFFF ^^^ ctxMask w) ≠ 0)) = true then 1
  else if ctxGroup c ≠ g ∨ 49152 ≤ c ∨ ctxPresent s c = false then 2
  else if cValid x = false then 0
  else if bitOf tc 31 = false then 3
  else if cMeshW x = 1 ∨ cMeshH x = 1 ∨ meshSize < cMeshBase x + cMeshW x * cMeshH x then 4
  else if off (cCanX x) (cCanSx x) lw ∨ off (cCanY x) (cCanSy x) lh then 5
  else if cTrimBase x % 64 ≠ 0 ∨ 2 ^ 30 < cTrimBase x + tLamps tc then 6
  else 0

/-- The first failing record of a loaded list: (code, record). Code 7 stands at the second of two records of one ctx. -/
def ctxListCode (s : State) (g : Nat) (rs : List (List Word)) : Option (Nat × Nat) :=
  (rs.zipIdx).findSome? (fun x =>
    let c := ctxRecCode s g x.1
    if c ≠ 0 then some (c, x.2)
    else if (rs.take x.2).any (fun r => decide (fld (r.getD 0 0) 0 16 = fld (x.1.getD 0 0) 0 16)) then some (7, x.2)
    else none)

/-- R199 for bank g's list at an arm with shadows `snap`: (code, record) where it fails, else the records. -/
def geomBankLoad (s : State) (snap : AMap Word) (g : Nat) : (Nat × Nat) ⊕ List (List Word) :=
  let lo := (snapRead snap .geom g Off.GEOM_CTX_LIST_LO).toNat
  let hi := snapRead snap .geom g Off.GEOM_CTX_LIST_HI
  let cnt := snapRead snap .geom g Off.GEOM_CTX_LIST_CNT
  let n := fld cnt 0 8
  let base := lo + fld hi 0 3 * 2 ^ 32
  if outside hi 0x80000007 || outside cnt 0xFF then .inl (9, 0)
  else if n = 0 then .inr []
  else if 128 < n ∨ bitOf hi 31 = false ∨ base % 64 ≠ 0 ∨ hbmReadOk s base (68 * n) = false then .inl (8, 0)
  else
    let rs := (List.range n).map (ctxRecord s base)
    match ctxListCode s g rs with
    | some e => .inl e
    | none => .inr rs

end Sys2Proof.Machine
end

