-- ==== Sys2Proof/Machine/Scal.lean ====
section
/-!
DEFINITION. The pre-scaler: working pairs, profiles, coefficient banks, the filter and the jobs
(spec/09_prescaler.md R242 to R265).
-/
namespace Sys2Proof.Machine

/-- Units of the pre-scaler. -/
def setScal (s : State) (v : ScalUnit) : State := { s with scal := v }

/-! ## Coefficients (R249, R250, R253) -/

/-- Catmull-Rom weights at phase `f` of 64, s1.14 (R220). -/
def catmull (f : Nat) (k : Nat) : Int :=
  let x : Int := f
  let w0 := halfEven (-(x * x * x) + 128 * x * x - 4096 * x) 32
  let w2 := halfEven (-3 * x * x * x + 256 * x * x + 4096 * x) 32
  let w3 := halfEven (x * x * x - 64 * x * x) 32
  match k with
  | 0 => w0
  | 1 => 16384 - w0 - w2 - w3
  | 2 => w2
  | _ => w3

/-- A coefficient as MEDIA's reset leaves it: key bank * 512 + 8 * phase + tap (R249). -/
def coefDefault (k : Nat) : Nat :=
  let tap := k % 8
  if 2 ≤ tap ∧ tap ≤ 5 then code 16 (catmull (k / 8 % 64) (tap - 2)) else 0

/-- Coefficient `tap` of a phase of a bank, s1.14. -/
def coefOf (m : AMap Nat) (b ph tap : Nat) : Int := signed 16 (mapGet coefDefault m (b * 512 + 8 * ph + tap))

/-- The kernel in force of a profile of T taps reduced to T' (R253): weight k of a phase. -/
def foldKernel (m : AMap Nat) (b tp t ph k : Nat) : Int :=
  let d := (tp - t) / 2
  let b0 := 4 - tp / 2
  let sum (lo n : Nat) : Int := ((List.range n).map (fun i => coefOf m b ph (lo + i))).foldl (· + ·) 0
  if k = 0 then sum b0 (d + 1)
  else if k = t - 1 then sum (b0 + tp - 1 - d) (d + 1)
  else coefOf m b ph (b0 + d + k)

/-- Fields of a PROF word (R263). -/
def pfOrient (w : Word) : Nat := fld w 0 3
def pfTh (w : Word) : Nat := fld w 4 4
def pfTv (w : Word) : Nat := fld w 8 4
def pfBankH (w : Word) : Nat := fld w 12 3
def pfBankV (w : Word) : Nat := fld w 16 3

/-- The profiles in force, and those of a pending commit of SCAL. -/
def profsLive (s : State) : List Word :=
  let prof (m : AMap Word) : List Word := (List.range 64).map (fun p => snapRead m .scal 0 (Off.SCAL_PROF + 4 * p))
  prof s.inForce ++ (match (cslot s .scal 0).pending with
    | some p => prof p.snap
    | none => [])

/-- A bank is busy: a profile in force or pending names it, or the running job uses it (R250). -/
def coefBusy (s : State) (b : Nat) : Bool :=
  let uses (w : Word) : Bool := decide (pfBankH w = b) || decide (pfBankV w = b)
  (profsLive s).any uses || (match s.scal.running with
    | some j => uses j.prof
    | none => false)

/-- One COEF_DATA access (R250, R626). -/
def coefAccess (s : State) (w : Option Word) : State :=
  let b := regF s .scal Off.SCAL_COEF_SEL 0 3
  let k := b * 512 + regF s .scal Off.SCAL_COEF_ADDR 0 9
  let s' := match w with
    | some v => if coefBusy s b then raise s .scal 5
                else setScal s { s.scal with coef := mapSet coefDefault s.scal.coef k (v.toNat % 2 ^ 16) }
    | none => { s with lastRead := BitVec.ofNat 32 (mapGet coefDefault s.scal.coef k) }
  advance s' .scal Off.SCAL_COEF_ADDR 9

/-- R626. -/
def execCoefDataAccess (write : Option Word) (s : State) : Res :=
  done (if pageUp s .scal then coefAccess s write
        else { s with lastRead := if write.isNone then 0xFFFFFFFF else s.lastRead })

/-- One PMAP_DATA access (R246, R262, R626). -/
def pmapAccess (s : State) (w : Option Word) : State :=
  let k := regF s .scal Off.SCAL_PMAP_ADDR 0 12
  let s' := match w with
    | some v => setScal s { s.scal with pmap := mapSet (fun _ => 0) s.scal.pmap k (v.toNat % 64) }
    | none => { s with lastRead := BitVec.ofNat 32 (mapGet (fun _ => 0) s.scal.pmap k) }
  advance s' .scal Off.SCAL_PMAP_ADDR 12

/-- R626. -/
def execPmapDataAccess (write : Option Word) (s : State) : Res :=
  done (if pageUp s .scal then pmapAccess s write
        else { s with lastRead := if write.isNone then 0xFFFFFFFF else s.lastRead })

/-! ## Requests (R254) -/

/-- The served layers: bank, layer ID, descriptor (R254). -/
def servedLayers (s : State) : List (Nat × Nat × List Word) := (liveDescs s).filter (fun d => dPsEn d.2.2)

/-- A request for a working pair; it replaces a queued one with JOB_SUPERSEDED (R254). MEDIA takes it in RUN only. -/
def scalRequest (s : State) (pair : Nat) : State :=
  if islandRuns s islMedia = false then s
  else if s.scal.queue.contains pair then raise s .scal 3
  else setScal s { s.scal with queue := s.scal.queue ++ [pair] }

/-- Requests for the pairs of a list of layers, each pair once. -/
def scalRequests (s : State) (ds : List (List Word)) : State := ((ds.map dPsBuf).eraseDups).foldl scalRequest s

/-- A READY on a buffer raises the requests of the layers that have it as a candidate (R254). -/
def scalOnReady (s : State) (b : Nat) : State :=
  scalRequests s (((servedLayers s).filter (fun d => (dCands d.2.2).contains b)).map (·.2.2))

/-- JOB_CMD with go = 1 (R254, R263). -/
def scalCmd (s : State) (layer bank : Nat) : State :=
  scalRequests s (((servedLayers s).filter (fun d => decide (d.1 = bank) && decide (d.2.1 = layer))).map (·.2.2))

/-- R254. -/
def execScalJobCmd (layer : Fin 4096) (bank : Fin 16) (s : State) : Res :=
  done (if pageUp s .scal then scalCmd s layer.val bank.val else s)

/-- R164: BUF_CMD op 2, with the pre-scaler's request of R254. -/
def hostReadyCmd (s : State) (b : Nat) : State :=
  let t := hostReady s b
  if (bufAt s b).st = 1 ∧ (bufAt t b).st = 2 then scalOnReady t b else t

/-- R164. -/
def execBufReady (b : Fin 16384) (s : State) : Res := done (if pageUp s .layr then hostReadyCmd s b.val else s)

/-- A producer's READY, with the pre-scaler's request. -/
def producerReady (s : State) (b : Nat) (seq : Word) : State := scalOnReady (readyFor s b seq) b

/-! ## Starting a job (R255, R256) -/

/-- The lesser of two deadlines; none stands for no deadline. -/
def sooner : Option Rat → Option Rat → Option Rat
  | none, b => b
  | a, none => a
  | some a, some b => some (if a ≤ b then a else b)

/-- A pair's deadline (R255). -/
def pairDeadline (s : State) (pair : Nat) : Option Rat :=
  ((servedLayers s).filter (fun d => decide (dPsBuf d.2.2 = pair))).foldl
    (fun acc d => sooner acc (closeTime s d.1)) none

/-- One buffer of the pair is FREE or READY with no holder (R255). -/
def pairReady (s : State) (pair : Nat) : Bool := claimable (bufAt s pair) || claimable (bufAt s (pair + 1))

/-- The queued job that starts next: earliest deadline, ties to the lower ps_buf (R255). -/
def nextPair (s : State) : Option Nat :=
  (s.scal.queue.filter (pairReady s)).foldl (fun (acc : Option Nat) p => match acc with
    | none => some p
    | some a =>
      let before : Bool := match pairDeadline s p, pairDeadline s a with
        | some x, some y => decide (x < y) || (decide (x = y) && decide (p < a))
        | some _, none => true
        | none, some _ => false
        | none, none => decide (p < a)
      if before then some p else some a) none

/-- The buffer of the pair that a job claims: FREE before READY; of two READY ones the older (R256). -/
def pairTarget (s : State) (pair : Nat) : Nat :=
  let a := bufAt s pair
  let b := bufAt s (pair + 1)
  if claimable a = false then pair + 1
  else if claimable b = false then pair
  else if a.st = 0 then pair
  else if b.st = 0 then pair + 1
  else if seqAfter a.seq b.seq then pair + 1 else pair

/-- The working pix_fmt of R243 for a source pix_fmt. -/
def workFmt (f : Nat) : Nat :=
  match f with
  | 3 => 3
  | 5 => 5
  | _ => 2

/-- The vertical tap count in force (R252). -/
def tapsInForce (tv w : Nat) : Nat := if tv * w ≤ 65536 then tv else if 6 ≤ tv ∧ 6 * w ≤ 65536 then 6
  else if 4 ≤ tv ∧ 4 * w ≤ 65536 then 4 else 2

/-- Records a failure (R259). -/
def scalFail (s : State) (code pair : Nat) : State :=
  raise (setReg s .scal Off.SCAL_FAIL_INFO (BitVec.ofNat 32 (code + pair * 65536))) .scal 2

/-- JOB_TAPS of a job (R263). -/
def jobTaps (j : ScalJob) : Word :=
  BitVec.ofNat 32 (pfTh j.prof + pfTv j.prof * 16 + j.tv * 256 + pfOrient j.prof * 4096)

/-- Ends the running job's hold on its source; the job is over. -/
def scalRelease (s : State) (j : ScalJob) : State :=
  let s := setScal s { s.scal with running := none }
  let v := bufAt s j.src
  let s := setBuf s j.src { v with holds := v.holds.filter (fun h => decide (h ≠ Hold.scal)) }
  setReg (retire s j.src) .scal Off.SCAL_JOB_CUR 0

/-- A failed job frees the buffer it claimed and ends its hold (R259). -/
def scalJobFails (s : State) (j : ScalJob) (code : Nat) : State := scalFail (scalRelease (freeFor s j.work) j) code j.pair

/-- The code that the checks of R243, R245 and R252 end a job with; 0 where it passes them. -/
def scalCheck (j : ScalJob) : Nat :=
  let f := surfOf j.srcEntry
  let g := surfOf j.workEntry
  let (ow, oh) := layoutDims (pfOrient j.prof) f.w f.h
  if g.fmt ≠ workFmt f.fmt ∨ g.st ≠ 0 then 2
  else if 16 * g.w < ow ∨ ow < g.w ∨ 16 * g.h < oh ∨ oh < g.h then 3
  else if 32768 < ow then 1
  else 0

/-- A job as its snapshots make it (R246, R252, R256). -/
def scalJobOf (s : State) (pair layer w src : Nat) : ScalJob :=
  let prof := snapRead s.inForce .scal 0 (Off.SCAL_PROF + 4 * mapGet (fun _ => 0) s.scal.pmap layer)
  let e := bufEntry s src
  { pair := pair, layer := layer, work := w, src := src, seq := (bufAt s src).seq, srcEntry := e, workEntry := bufEntry s w
    prof := prof, coef := s.scal.coef, free := s.free, rows := 0, dull := []
    tv := tapsInForce (pfTv prof) (layoutDims (pfOrient prof) (surfOf e).w (surfOf e).h).1 }

/-- R256: the source is held, the snapshots are taken, the buffer is claimed, and the checks follow. -/
def scalBegin (s : State) (pair layer src : Nat) : State :=
  let w := pairTarget s pair
  let j := scalJobOf s pair layer w src
  if claimCode s w ≠ 0 then scalFail s 2 pair
  else
    let s := addHold (claimFor s w ownScal 0) src .scal
    let s := setReg s .scal Off.SCAL_JOB_TAPS (jobTaps j)
    let s := setReg s .scal Off.SCAL_JOB_CUR (BitVec.ofNat 32 (w + src * 65536))
    if scalCheck j ≠ 0 then scalJobFails s j (scalCheck j)
    else
      let s := { s with free := s.free + 4 * (surfOf j.srcEntry).w * (surfOf j.srcEntry).h }
      raiseIf (decide (j.tv < pfTv j.prof)) .scal 1 (setScal s { s.scal with running := some j })

/-- R256: a queued job starts with the newest eligible content of its layer; one whose surface is complete ends without work. -/
def scalStart (s : State) (pair : Nat) : State :=
  let s := setScal s { s.scal with queue := s.scal.queue.filter (fun p => decide (p ≠ pair)) }
  match (servedLayers s).find? (fun d => decide (dPsBuf d.2.2 = pair)) with
  | none => s
  | some (_, layer, d) =>
    match bestCand s d with
    | none => s
    | some src => if (workOf s d src (bufAt s src).seq).isSome then s else scalBegin s pair layer src

/-- R255, R256: the idle pre-scaler takes its next job. -/
def execScalJobStart (s : State) : Res :=
  done (if islandRuns s islMedia = true ∧ s.scal.running.isNone = true ∧ bitOf (reg s .scal Off.SCAL_CTRL) 0 = true then
    match nextPair s with
    | some p => scalStart s p
    | none => s
  else s)

/-! ## The filter (R244, R247, R248) -/

/-- One source pixel; the components of an invalid block's pixel, to which the spec gives no value here, are free
values drawn from index `n`. -/
def srcPixel (s : State) (d : Surf) (n x y : Nat) : Pixel :=
  match readTile s d (x / 8) (y / 8) with
  | .pixels ps => match ps.getD (x % 8 + 8 * (y % 8)) none with
    | some p => p
    | none => ((fmtDepths d.fmt).zipIdx).map (fun m => Config.freeNat (n + 4 * (y * d.w + x) + m.2) % 2 ^ m.1)
  | _ => []

/-- A component as a normalised value (R248). -/
def normVal (f k c : Nat) : Rat :=
  if f = 3 then halfSat c else mkRat (rep16 ((fmtDepths f).getD k 16) c) 65535

/-- Taps and phase of output index i (R247): the first tap's offset x0 - T/2 + 1, and the phase. -/
def tapAt (nIn nOut t i : Nat) : Int × Nat :=
  let step := halfEven (nIn * 2 ^ 20 : Nat) nOut
  let qr := ratHalfEven ((mkRat step (2 ^ 21) + mkRat (i * step) (2 ^ 20) - 1 / 2) * 64)
  (qr / 64 - (t / 2 : Nat) + 1, (qr % 64).toNat)

/-- The weighted sum of one pass at output index i (R247, R248). -/
def pass (nIn nOut t : Nat) (w : Nat → Nat → Int) (src : Nat → Rat) (i : Nat) : Rat :=
  let (x0, ph) := tapAt nIn nOut t i
  (List.range t).foldl (fun acc k => acc + mkRat (w ph k) 16384 * src (sat (x0 + (k : Int)) 0 (nIn - 1 : Nat)).toNat) 0

/-- Saturates a rational. -/
def ratSat (x lo hi : Rat) : Rat := if x < lo then lo else if hi < x then hi else x

/-- The intermediate value of R248. -/
def midVal (f : Nat) (v : Rat) : Rat :=
  if f = 3 then toF32 v else mkRat (ratHalfEven (ratSat v (-2) (2 - mkRat 1 (2 ^ 18)) * 2 ^ 18)) (2 ^ 18)

/-- Component k of a working pixel (R248). -/
def workComp (s : State) (j : ScalJob) (k i row : Nat) : Nat :=
  let f := surfOf j.srcEntry
  let g := surfOf j.workEntry
  let o := pfOrient j.prof
  let (ow, oh) := layoutDims o f.w f.h
  if f.fmt = 4 ∧ k = 3 then 0xFFFF
  else
    let at_ (x y : Nat) : Rat :=
      let (sx, sy) := orientInv o x y f.w f.h
      normVal f.fmt k ((srcPixel s f j.free sx sy).getD k 0)
    let vert (x : Nat) : Rat :=
      midVal f.fmt (pass oh g.h j.tv (foldKernel j.coef (pfBankV j.prof) (pfTv j.prof) j.tv) (at_ x) row)
    let h := pass ow g.w (pfTh j.prof) (foldKernel j.coef (pfBankH j.prof) (pfTh j.prof) (pfTh j.prof)) vert i
    if f.fmt = 3 then toHalf (ratSat h (-65504) 65504)
    else
      let u := (ratHalfEven (ratSat h 0 1 * 65535)).toNat
      if g.fmt = 5 then u / 256 else u

/-- A row of the working surface. -/
def workRow (s : State) (j : ScalJob) (row : Nat) : List Pixel :=
  let g := surfOf j.workEntry
  (List.range g.w).map (fun i => (List.range (fmtDepths g.fmt).length).map (fun k => workComp s j k i row))

/-- A working pixel is opaque for the summary (R257). -/
def workOpaque (src work : Nat) (p : Pixel) : Bool :=
  decide (src = 4) || (match work with
    | 2 => decide (p.getD 3 0 = 0xFFFF)
    | 3 => decide (halfOf (p.getD 3 0) = .fin 1)
    | _ => decide (p.getD 0 0 = 0xFF))

/-- The bytes of an opacity summary, one row of 16 x 16 tiles after another (R176), from a test of each tile. -/
def summaryBytes (w h : Nat) (t : Nat → Nat → Bool) : List Byte :=
  (List.range (ceilDiv h 16)).flatMap (fun r =>
    leBytes (sumStride w) ((List.range (ceilDiv w 16)).foldl (fun acc c => if t c r then acc + 2 ^ c else acc) 0))

/-! ## The rows of a job (R257)

A job reads its source and writes its working surface row by row. How far it has come shows where the host reads JOB_PROG and where the job
ends; between these the model leaves the rows to come (log 10). -/

/-- The first and the last oriented row that working row `r` reads: those of its taps and those not yet passed; the last working row reads
to the end of the image. -/
def rowReads (j : ScalJob) (r : Nat) : Nat × Nat :=
  let f := surfOf j.srcEntry
  let g := surfOf j.workEntry
  let oh := (layoutDims (pfOrient j.prof) f.w f.h).2
  let tap (r k : Nat) : Nat := (sat ((tapAt oh g.h j.tv r).1 + (k : Int)) 0 (oh - 1 : Nat)).toNat
  (min (tap r 0) (if r = 0 then 0 else tap (r - 1) (j.tv - 1) + 1), if g.h ≤ r + 1 then oh - 1 else tap r (j.tv - 1))

/-- The 8 x 8 tiles of the source that an oriented row lies in. -/
def rowTiles (j : ScalJob) (y : Nat) : List (Nat × Nat) :=
  let f := surfOf j.srcEntry
  let o := pfOrient j.prof
  let a := orientInv o 0 y f.w f.h
  let b := orientInv o ((layoutDims o f.w f.h).1 - 1) y f.w f.h
  let x0 := min a.1 b.1 / 8
  let y0 := min a.2 b.2 / 8
  (List.range (max a.2 b.2 / 8 - y0 + 1)).flatMap (fun dy => (List.range (max a.1 b.1 / 8 - x0 + 1)).map (fun dx => (x0 + dx, y0 + dy)))

/-- What working row `r` reads of the source. -/
def rowSpans (j : ScalJob) (r : Nat) : List (Nat × Nat) :=
  let (a, b) := rowReads j r
  (((List.range (b + 1 - a)).flatMap (fun k => rowTiles j (a + k))).eraseDups).flatMap (fun t => tileSpans (surfOf j.srcEntry) t.1 t.2)

/-- The bytes of working row `r`. -/
def rowBytes (j : ScalJob) (px : List Pixel) (r : Nat) : Nat × List Byte :=
  let g := surfOf j.workEntry
  (g.base + r * g.pitch, px.flatMap (fun p => leBytes (fmtBytes g.fmt) (pixelVal g.fmt p)))

/-- The job with a row written. -/
def rowDone (j : ScalJob) (px : List Pixel) : ScalJob :=
  let f := surfOf j.srcEntry
  let g := surfOf j.workEntry
  let bad := (List.range (ceilDiv g.w 16)).filter (fun c => ((px.drop (16 * c)).take 16).any (fun p => !workOpaque f.fmt g.fmt p))
  { j with rows := j.rows + 1, dull := j.dull ++ (bad.map (fun c => (c, j.rows / 16))).filter (fun t => !j.dull.contains t) }

/-- The job's next row: its reads, then its write. 0, or the code of R259 that ends the job. -/
def scalRow (s : State) (j : ScalJob) : State × ScalJob × Nat :=
  let rd := rowSpans j j.rows
  let t := eccTouchAll s (rd.filter (fun x => hbmOk s x.1 x.2))
  if rd.any (fun x => !hbmReadOk s x.1 x.2) then (t, j, 4)
  else
    let px := workRow s j j.rows
    let w := rowBytes j px j.rows
    if hbmOk t w.1 w.2.length then (memPut t w.1 w.2, rowDone j px, 0) else (t, j, 5)

/-- Up to `n` further rows. -/
def scalRows : Nat → State → ScalJob → State × ScalJob × Nat
  | 0, s, j => (s, j, 0)
  | n + 1, s, j =>
    if (surfOf j.workEntry).h ≤ j.rows then (s, j, 0)
    else
      let r := scalRow s j
      if r.2.2 = 0 then scalRows n r.1 r.2.1 else r

/-- Every row that is left, and the summary where the entry has one. -/
def scalFinish (s : State) (j : ScalJob) : State × ScalJob × Nat :=
  let g := surfOf j.workEntry
  let r := scalRows g.h s j
  if r.2.2 ≠ 0 ∨ g.sumValid = false then r
  else
    let bs := summaryBytes g.w g.h (fun c y => !r.2.1.dull.contains (c, y))
    if hbmOk r.1 g.sumBase bs.length then (memPut r.1 g.sumBase bs, r.2.1, 0) else (r.1, r.2.1, 5)

/-- R257: READY, the record, the end of the hold, and the event. -/
def scalDone (s : State) (j : ScalJob) : State :=
  let s := producerReady s j.work j.seq
  let s := setScal s { s.scal with recs := mapSet (fun _ => none) s.scal.recs j.work (some (j.src, j.seq, pfOrient j.prof)) }
  raise (scalRelease s j) .scal 0

/-- R257: the running job has written everything. A job whose reads or writes cannot end OK does not reach this. -/
def execScalJobDone (s : State) : Res :=
  done (match s.scal.running with
    | none => s
    | some j =>
      let r := scalFinish s j
      if r.2.2 = 0 then scalDone r.1 r.2.1 else s)

/-- R259 codes 4 and 5: a source read ended ABSENT or POISON, or a working write ended ABSENT. While HBM is away either
may come first. -/
def execScalJobFail (s : State) : Res :=
  done (match s.scal.running with
    | none => s
    | some j =>
      if hbmLive s = false then
        let (n, t) := draw s
        scalJobFails t j (if Config.freeBool n then 4 else 5)
      else
        let r := scalFinish s j
        if r.2.2 = 0 then s else scalJobFails r.1 r.2.1 r.2.2)

/-- The host reads JOB_PROG: the running job is somewhere between the rows it showed last and its end (R262). -/
def jobProgRead (s : State) : State :=
  match s.scal.running with
  | none => { s with lastRead := 0 }
  | some j =>
    let (n, t) := draw s
    let r := scalRows (Config.freeNat n % ((surfOf j.workEntry).h - j.rows + 1)) t j
    { setScal r.1 { r.1.scal with running := some r.2.1 } with lastRead := BitVec.ofNat 32 r.2.1.rows }

/-- MEDIA enters RUN: a request for every served layer (R254). -/
def scalEnterRun (s : State) : State := scalRequests s ((servedLayers s).map (·.2.2))

/-- MEDIA leaves IDLE or RUN: the jobs and the records are lost, and source holds end (R260). PMAP and the banks are the page's own and stay
until RESET (R41, R249). -/
def scalLost (s : State) : State :=
  let s := match s.scal.running with
    | some j => scalRelease s j
    | none => s
  setScal s { s.scal with queue := [], recs := [] }

/-- A job for a pair is queued or running. -/
def pairAtWork (s : State) (pair : Nat) : Bool :=
  s.scal.queue.contains pair || (match s.scal.running with
    | some j => decide (j.pair = pair)
    | none => false)

/-- The content that a close selects for a layer has no complete working surface. -/
def workMissing (s : State) (d : List Word) (cur : LayerSel) (stale : Bool) : Bool :=
  match pickOf s (if stale then none else bestCand s d) cur with
  | some c => (workOf s d c.1 c.2).isNone
  | none => false

/-- JOB_LATE at a close of bank g (R258): for a served layer in force, or one for which the bank is held (R175), the selected content has no
complete working surface while a job for the pair is queued or running. -/
def scalLate (s : State) (g : Nat) : State :=
  let bk := layrBank s g
  let late (d : List Word) (cur : LayerSel) (stale : Bool) : Bool :=
    dPsEn d && workMissing s d cur stale && pairAtWork s (dPsBuf d)
  let waits := if bk.holding then (pendDescs s g).filter (fun e => decide (dPolicy e.2 = 2) && !bk.descs.any (fun o => decide (o.1 = e.1))) else []
  raiseIf (bk.descs.any (fun e => late e.2 (mapGet (fun _ => LayerSel.initial) bk.sels e.1) bk.stale)
    || waits.any (fun e => late e.2 LayerSel.initial false)) .scal 4 s

end Sys2Proof.Machine
end

