-- ==== Sys2Proof/Machine/Blit.lean ====
section
/-!
DEFINITION. The blitter: fill, copy and glyph expansion (spec/20_blitter.md R538 to R550).
-/
namespace Sys2Proof.Machine

/-! ## The operation's geometry (R539 to R541) -/

/-- A destination format: bits a pixel, and element alignment (R539). -/
def blitFmt (f : Nat) : Option (Nat × Nat) :=
  if f = 8 then some (4, 1) else if f < 6 then some (8 * fmtBytes f, if f = 5 then 1 else if f = 4 then 2 else if f < 2 then 4 else 8)
  else none

/-- An operation as its snapshot and its buffer's entry give it. -/
structure BlitOp where
  op : Nat
  trans : Nat
  /-- Bits a destination pixel; 0 for a reserved format. -/
  bits : Nat
  align : Nat
  base : Nat
  pitch : Nat
  dx : Nat
  dy : Nat
  w : Nat
  h : Nat
  sBits : Nat
  sAlign : Nat
  sBase : Nat
  sPitch : Nat
  sx : Nat
  sy : Nat
  fg : Nat
  bg : Nat
deriving DecidableEq, Repr

/-- Word of the snapshot by its page offset. -/
def bw (ws : List Word) (off : Nat) : Word := ws.getD ((off - 0x100) / 4) 0

/-- Reads a snapshot. -/
def blitOp (ws : List Word) (entry : Option (List Word)) : BlitOp :=
  let op := fld (bw ws Off.BLIT_OP) 0 2
  let regFmt := (blitFmt (fld (bw ws Off.BLIT_OP) 4 4)).getD (0, 1)
  let regBase := (bw ws Off.BLIT_DST_LO).toNat + fld (bw ws Off.BLIT_DST_HI) 0 3 * 2 ^ 32
  let dst := match entry with
    | some e => ((blitFmt (surfOf e).fmt).getD (0, 1), (surfOf e).base, (surfOf e).pitch)
    | none => (regFmt, regBase, fld (bw ws Off.BLIT_DST_PITCH) 0 24)
  let src := if op = 2 then (1, 1) else dst.1
  { op := op, trans := fld (bw ws Off.BLIT_OP) 2 2, bits := dst.1.1, align := dst.1.2, base := dst.2.1, pitch := dst.2.2
    dx := fld (bw ws Off.BLIT_DST_XY) 0 16, dy := fld (bw ws Off.BLIT_DST_XY) 16 16
    w := fld (bw ws Off.BLIT_SIZE) 0 16 + 1, h := fld (bw ws Off.BLIT_SIZE) 16 16 + 1
    sBits := src.1, sAlign := src.2
    sBase := (bw ws Off.BLIT_SRC_LO).toNat + fld (bw ws Off.BLIT_SRC_HI) 0 3 * 2 ^ 32, sPitch := fld (bw ws Off.BLIT_SRC_PITCH) 0 24
    sx := fld (bw ws Off.BLIT_SRC_XY) 0 16, sy := fld (bw ws Off.BLIT_SRC_XY) 16 16
    fg := (bw ws Off.BLIT_FG_LO).toNat + (bw ws Off.BLIT_FG_HI).toNat * 2 ^ 32
    bg := (bw ws Off.BLIT_BG_LO).toNat + (bw ws Off.BLIT_BG_HI).toNat * 2 ^ 32 }

/-- A rectangle's span: its first byte, and the byte after its last. -/
def rectSpan (bits base pitch x y w h : Nat) : Nat × Nat :=
  (base + y * pitch + x * bits / 8, base + (y + h - 1) * pitch + ((x + w) * bits + 7) / 8)

def dstSpan (o : BlitOp) : Nat × Nat := rectSpan o.bits o.base o.pitch o.dx o.dy o.w o.h
def srcSpan (o : BlitOp) : Nat × Nat := rectSpan o.sBits o.sBase o.sPitch o.sx o.sy o.w o.h

/-- A base and pitch of R541 for a rectangle from `x`, `w` wide. -/
def pitchOk (bits align base pitch x w : Nat) : Bool :=
  decide (base % align = 0) && decide (pitch % align = 0) && decide (pitch ≠ 0) && decide (((x + w) * bits + 7) / 8 ≤ pitch)

/-- The operation is valid (R538, R539, R541). -/
def blitValid (s : State) (o : BlitOp) : Bool :=
  decide (o.op < 3) && (if o.op = 2 then decide (o.trans < 3) else decide (o.trans = 0)) && decide (o.bits ≠ 0)
  && pitchOk o.bits o.align o.base o.pitch o.dx o.w && decide ((dstSpan o).2 ≤ hbmBytes s)
  && (decide (o.op = 0)
      || (pitchOk o.sBits o.sAlign o.sBase o.sPitch o.sx o.w && decide ((srcSpan o).2 ≤ hbmBytes s)))

/-- The operation's spans overlap in a way R544 refuses. -/
def blitOverlap (o : BlitOp) : Bool :=
  decide (o.op ≠ 0) && decide ((dstSpan o).1 < (srcSpan o).2) && decide ((srcSpan o).1 < (dstSpan o).2)
  && (decide (o.op = 2) || decide (o.pitch ≠ o.sPitch))

/-! ## The start (R542, R545) -/

/-- The destination buffer at the operation's start: its entry where it may be used, and the state once claimed. -/
def blitBuf (s : State) (ws : List Word) : Option (List Word) × State :=
  let b := fld (bw ws Off.BLIT_DST_BUF) 0 14
  let take := if !pageUp s .layr then (false, s)
    else if ownedBy s b ownBlit 0 then (entryReadable s b, entryTouch s b)
    else if claimCode s b = 0 then (true, claimFor s b ownBlit 0) else (false, s)
  let d := surfOf (bufEntry s b)
  let o := blitOp ws none
  if take.1 && decide (d.st = 0) && decide (o.dx + o.w ≤ d.w) && decide (o.dy + o.h ≤ d.h) then (some (bufEntry s b), take.2)
  else (none, take.2)

/-- STAT.busy and its level. -/
def setBlit (s : State) (v : BlitUnit) : State := setLevel { s with blit := v } .blit 3 v.run.isNone

/-- CMD.go: a snapshot of every register, the destination buffer, and the refusals in the table's order (R541, R542, R544). -/
def blitGo (s : State) : State :=
  if s.blit.run.isSome then raise s .blit 2
  else
    let ws := (List.range 20).map (fun k => reg s .blit (0x100 + 4 * k))
    let useBuf := bitOf (bw ws Off.BLIT_OP) 8
    let early := blitOp ws none
    let bad := decide (2 < early.op) || (if early.op = 2 then decide (early.trans = 3) else decide (early.trans ≠ 0))
    let r := if useBuf && !bad then blitBuf s ws else (none, s)
    let o := blitOp ws r.1
    let res := if bad then 1 else if useBuf && r.1.isNone then 3 else if !blitValid s o then 1 else if blitOverlap o then 2 else 0
    setBlit r.2 { r.2.blit with run := some ⟨ws, r.1, res, 0⟩, rows := 0 }

/-- The host writes the operation and go. -/
def blitCmd (s : State) (op : Nat) : State :=
  if !pageUp s .blit then s
  else
    let s := setRegF s .blit Off.BLIT_OP 0 2 op
    if islandRuns s islMedia then blitGo s else s

/-- R538: go with op 0. -/
def execBlitFill (s : State) : Res := done (blitCmd s 0)

/-- R544: go with op 1. -/
def execBlitCopy (s : State) : Res := done (blitCmd s 1)

/-- R540: go with op 2. -/
def execBlitGlyph (s : State) : Res := done (blitCmd s 2)

/-! ## Drawing (R538, R540, R543) -/

/-- The raw pixel written at (x, y) of the rectangle; none where a glyph leaves it unchanged. `m` is memory before the
operation, as through a temporary buffer (R544). -/
def blitPixel (m : Nat → Byte) (o : BlitOp) (x y : Nat) : Option Nat :=
  let row := o.sBase + (o.sy + y) * o.sPitch
  let c := o.sx + x
  if o.op = 0 then some o.fg
  else if o.op = 1 then
    some (if o.bits = 4 then nfld (m (row + c / 2)).toNat (4 * (c % 2)) 4
          else leVal ((List.range (o.bits / 8)).map (fun k => m (row + c * (o.bits / 8) + k))))
  else if (m (row + c / 8)).toNat.testBit (c % 8) then (if o.trans = 2 then none else some o.fg)
  else (if o.trans = 1 then none else some o.bg)

/-- What row `y` makes of byte `k` of its destination row: the bits it writes, and their value. -/
def blitByte (m : Nat → Byte) (o : BlitOp) (y k : Nat) : Nat × Nat :=
  let put (x : Nat) : Option Nat := if o.dx ≤ x ∧ x < o.dx + o.w then blitPixel m o (x - o.dx) y else none
  if o.bits = 4 then
    let lo := match put (2 * k) with
      | some v => (15, v % 16)
      | none => (0, 0)
    match put (2 * k + 1) with
    | some v => (lo.1 + 240, lo.2 + 16 * (v % 16))
    | none => lo
  else
    match put (k / (o.bits / 8)) with
    | some v => (255, nfld v (8 * (k % (o.bits / 8))) 8)
    | none => (0, 0)

/-- The 32 B units of row `y`: address, and for each byte the bits written and their value; none that the row leaves alone. -/
def blitUnits (m : Nat → Byte) (o : BlitOp) (y : Nat) : List (Nat × List (Nat × Nat)) :=
  let row := o.base + (o.dy + y) * o.pitch
  let a := row + o.dx * o.bits / 8
  let e := row + ((o.dx + o.w) * o.bits + 7) / 8
  ((List.range ((e + 31) / 32 - a / 32)).map (fun i =>
    let u := (a / 32 + i) * 32
    (u, (List.range 32).map (fun j => if u + j < a ∨ e ≤ u + j then (0, 0) else blitByte m o y (u + j - row))))).filter
    (fun x => x.2.any (fun b => decide (b.1 ≠ 0)))

/-- The reads of row `y`: its source units, and the units it merges into. -/
def blitReads (o : BlitOp) (us : List (Nat × List (Nat × Nat))) (y : Nat) : List (Nat × Nat) :=
  let row := o.sBase + (o.sy + y) * o.sPitch
  let a := (row + o.sx * o.sBits / 8) / 32
  let e := (row + ((o.sx + o.w) * o.sBits + 7) / 8 + 31) / 32
  (if o.op = 0 then [] else (List.range (e - a)).map (fun i => ((a + i) * 32, 32)))
  ++ (us.filter (fun u => u.2.any (fun b => decide (b.1 ≠ 255)))).map (fun u => (u.1, 32))

/-- A unit with its pixels merged in. -/
def mergeUnit (s : State) (u : Nat × List (Nat × Nat)) : Nat × List Byte :=
  (u.1, u.2.mapIdx (fun j b =>
    let keep : Byte := BitVec.ofNat 8 (255 - b.1)
    (memByte s (u.1 + j) &&& keep) ||| BitVec.ofNat 8 b.2))

/-- Draws row `y`: the state, and result 0, 4 or 5. -/
def blitRow (m : Nat → Byte) (o : BlitOp) (s : State) (y : Nat) : State × Nat :=
  let us := blitUnits m o y
  let rd := blitReads o us y
  if rd.any (fun x => !hbmReadOk s x.1 x.2) then (eccTouchAll s (rd.filter (fun x => hbmOk s x.1 x.2)), 4)
  else
    let t := eccTouchAll s rd
    let ws := us.map (mergeUnit s)
    (hbmPut t ws, if ws.all (fun x => hbmOk t x.1 x.2.length) then 0 else 5)

/-- Draws rows in the order given until one fails: the state, the rows completed and the result. -/
def blitRows (m : Nat → Byte) (o : BlitOp) : List Nat → State → Nat → State × Nat × Nat
  | [], s, n => (s, n, 0)
  | y :: ys, s, n =>
    let r := blitRow m o s y
    if r.2 = 0 then blitRows m o ys r.1 (n + 1) else (r.1, n, r.2)

/-- The order of the rows (R544): bottom to top where the spans overlap and the destination row lies below, else top to bottom. Which of two
rows lies below is judged by where the rectangles begin in HBM (log 67). -/
def blitOrder (o : BlitOp) : List Nat :=
  let isOver := decide (o.op = 1) && decide ((dstSpan o).1 < (srcSpan o).2) && decide ((srcSpan o).1 < (dstSpan o).2)
  if isOver && decide ((srcSpan o).1 < (dstSpan o).1) then (List.range o.h).reverse else List.range o.h

/-- Up to `n` further rows of the running operation: the state, the rows it has completed, and result 0, 4 or 5. -/
def blitOn (s : State) (j : BlitJob) (n : Nat) : State × Nat × Nat :=
  let o := blitOp j.words j.entry
  blitRows (memByte s) o (((blitOrder o).drop j.rows).take n) s j.rows

/-! ## The end (R542, R545 to R547) -/

/-- The operation ends with a result: the buffer is sent READY, kept, or freed. -/
def blitFinish (s : State) (j : BlitJob) (res rows : Nat) : State :=
  let b := fld (bw j.words Off.BLIT_DST_BUF) 0 14
  let useBuf := bitOf (bw j.words Off.BLIT_OP) 8
  let mine := useBuf && ownedBy s b ownBlit 0
  let t := if !mine then s
    else if res ≠ 0 then freeFor s b
    else if bitOf (bw j.words Off.BLIT_OP) 9 then producerReady s b (bw j.words Off.BLIT_SEQ)
    else s
  raise (setBlit t ⟨none, res, rows⟩) .blit (if res = 0 then 0 else 1)

/-- The running operation ends once `most` rows are drawn in all, or every row. -/
def blitEnd (s : State) (j : BlitJob) (most : Nat) : State :=
  if j.res ≠ 0 then blitFinish s j j.res 0
  else
    let r := blitOn s j (most - j.rows)
    blitFinish r.1 j (if r.2.2 = 0 ∧ r.2.1 < (blitOp j.words j.entry).h then 6 else r.2.2) r.2.1

/-- The host reads ROWS: a running operation is somewhere between the rows it showed last and its end (R549). -/
def blitRowsRead (s : State) : State :=
  match s.blit.run with
  | none => { s with lastRead := BitVec.ofNat 32 s.blit.rows }
  | some j =>
    if j.res ≠ 0 then { s with lastRead := 0 }
    else
      let (n, t) := draw s
      let r := blitOn t j (Config.freeNat n % ((blitOp j.words j.entry).h - j.rows + 1))
      { r.1 with blit := { r.1.blit with run := some { j with rows := r.2.1 } }
                 lastRead := BitVec.ofNat 32 r.2.1 }

/-- R545: the operation completes. -/
def execBlitComplete (s : State) : Res :=
  done (match s.blit.run with
    | none => s
    | some j => blitEnd s j (2 ^ 16))

/-- CTRL.abort: the operation ends at the row boundary after `rows` rows. -/
def blitAbort (s : State) (rows : Nat) : State :=
  match s.blit.run with
  | none => s
  | some j => blitEnd s j rows

/-- R547. -/
def execBlitAbort (rows : BitVec 17) (s : State) : Res := done (if pageUp s .blit then blitAbort s rows.toNat else s)

/-- MEDIA leaves IDLE or RUN: the operation is lost without an event (R547). -/
def blitLost (s : State) : State := { s with blit := ⟨none, 0, 0⟩ }

end Sys2Proof.Machine
end

