-- ==== Sys2Proof/Machine/Trim.lean ====
section
/-!
DEFINITION. The trim table, correction sets, temperature bands, fades and drive codes
(spec/11_lamp_correction.md R296 to R317, R330, R331).
-/
namespace Sys2Proof.Machine

def setTrim (s : State) (v : TrimUnit) : State := { s with trim := v }
def setFade (s : State) (v : FadeUnit) : State := { s with fade := v }

/-! ## The trim table (R296 to R298) -/

/-- The trim table's address, size and valid bit. -/
def tblBase (s : State) : Nat := addrPair s .trim Off.TRIM_TBL_BASE_LO Off.TRIM_TBL_BASE_HI
def tblWords (s : State) : Nat := regF s .trim Off.TRIM_TBL_WORDS 0 31

/-- The table meets R296: aligned, whole groups of 64, at most 2^30 words, below the installed capacity. -/
def tblOk (s : State) : Bool :=
  decide (tblBase s % 4096 = 0) && decide (tblWords s % 64 = 0) && decide (tblWords s ≤ 2 ^ 30)
  && decide (tblBase s + 4 * tblWords s ≤ hbmBytes s)

/-- TBL_BASE_HI.valid: the host's value where the table is in order (R296). -/
def tblValid (s : State) : Bool := bitOf (reg s .trim Off.TRIM_TBL_BASE_HI) 31 && tblOk s

/-- The register of the trim table that a write names. -/
def trimBaseOff (which : Nat) : Nat :=
  match which with
  | 0 => Off.TRIM_TBL_BASE_LO
  | 1 => Off.TRIM_TBL_BASE_HI
  | _ => Off.TRIM_TBL_WORDS

/-- R296: a write of TBL_BASE_LO, TBL_BASE_HI or TBL_WORDS. -/
def execTrimTableBaseWrite (which : Fin 3) (v : Word) (s : State) : Res :=
  done (if pageUp s .trim then writePlain s .trim (trimBaseOff which.val) v else s)

/-- The neutral trim word (R298). -/
def neutralTrim : Word := 0x06030180

/-! ## Correction sets (R300 to R302, R317) -/

/-- A half word of a set's reset content, by 16-bit half index: the identity matrices, the band edges and the steps. -/
def tsetHalf (h : Nat) : Nat :=
  if h < 80 then (if [0, 4, 8].contains (h % 10) then 0x4000 else 0)
  else if h < 87 then 2560 * (h - 79)
  else if h < 88 then 0
  else if h = 88 then 0x0100
  else if h = 89 then 2
  else if h < 114 then
    let k := (h - 90) % 8
    if k = 7 then 0 else 512 * 2 ^ k
  else 0

/-- A set's word after FAB's reset (R301). -/
def tsetDefault (key : Nat) : Word :=
  let w := key % 128
  if w < 57 then BitVec.ofNat 32 (tsetHalf (2 * w) + tsetHalf (2 * w + 1) * 2 ^ 16) else 0

/-- A word of set `k` of type `t`. -/
def tsetWord (m : AMap Word) (t k w : Nat) : Word := mapGet tsetDefault m ((t * 2 + k) * 128 + w)

/-- The n-th 16-bit half of a set. -/
def tset16 (m : AMap Word) (t k h : Nat) : Nat := fld (tsetWord m t k (h / 2)) (16 * (h % 2)) 16

/-- The set that a bank's TSET words select for a type. -/
def tsetSel (lo hi : Word) (t : Nat) : Nat := if t < 32 then b2n (bitOf lo t) else b2n (bitOf hi (t - 32))

/-- The set bank g in force selects for a type. -/
def tsetOf (s : State) (g t : Nat) : Nat :=
  tsetSel (forceBank s .trim g Off.TRIM_TSET_LO) (forceBank s .trim g Off.TRIM_TSET_HI) t

/-- Band edge E_k, k = 1 to 7, s8.8; hysteresis; default band; split step (R300). -/
def tEdge (m : AMap Word) (t k i : Nat) : Int := signed 16 (tset16 m t k (79 + i))
def tHyst (m : AMap Word) (t k : Nat) : Nat := fld (tsetWord m t k 44) 0 16
def tDefBand (m : AMap Word) (t k : Nat) : Nat := fld (tsetWord m t k 44) 16 3
def tAmin (m : AMap Word) (t k : Nat) : Nat := fld (tsetWord m t k 44) 24 3

/-- Step I[a] of colour c, u0.16; I[7] is 1.0. -/
def tStep (m : AMap Word) (t k c a : Nat) : Nat := if 7 ≤ a then 65536 else tset16 m t k (90 + 8 * c + a)

/-- Ageing knot j of colour c, lu. -/
def tKnot (m : AMap Word) (t k c j : Nat) : Nat := fld (tsetWord m t k (57 + j)) (10 * c) 10

/-- A matrix element of a band, s2.14. -/
def tMat (m : AMap Word) (t k b i j : Nat) : Int := signed 16 (tset16 m t k (10 * b + 3 * i + j))

/-- A set's reserved bits are 0 (R300, R317). -/
def tsetReservedOk (m : AMap Word) (t k : Nat) : Bool :=
  (List.range 8).all (fun b => !outside (tsetWord m t k (5 * b + 4)) 0xFFFF)
  && !outside (tsetWord m t k 43) 0xFFFF && !outside (tsetWord m t k 44) 0x0707FFFF
  && (List.range 3).all (fun c => !outside (tsetWord m t k (48 + 4 * c)) 0xFFFF)
  && (List.range 18).all (fun j => !outside (tsetWord m t k (57 + j)) 0x3FFFFFFF)

/-- R317. -/
def tsetValid (m : AMap Word) (t k : Nat) : Bool :=
  (List.range 6).all (fun i => decide (tEdge m t k (i + 1) < tEdge m t k (i + 2)))
  && decide (0x80 ≤ tHyst m t k) && decide (tHyst m t k ≤ 0x400)
  && (List.range 3).all (fun c => decide (0 < tStep m t k c 0)
      && (List.range 6).all (fun a => decide (tStep m t k c a < tStep m t k c (a + 1))))
  && tsetReservedOk m t k

/-- Set k of type t is selected by a bank in force or pending (R302). -/
def tsetBusy (s : State) (t k : Nat) : Bool :=
  (List.range 16).any (fun g => decide (tsetOf s g t = k) ||
    (match (cslot s .trim g).pending with
     | some p => decide (tsetSel (snapRead p.snap .trim g Off.TRIM_TSET_LO) (snapRead p.snap .trim g Off.TRIM_TSET_HI) t = k)
     | none => false))

/-- One TP_DATA access (R300, R302, R626). An address above 74 reaches no word. -/
def tpAccess (s : State) (w : Option Word) : State :=
  let t := regF s .trim Off.TRIM_TP_SEL 0 6
  let k := regF s .trim Off.TRIM_TP_SEL 8 1
  let a := regF s .trim Off.TRIM_TP_ADDR 0 7
  let s' := match w with
    | some v => if 74 < a then s
                else if tsetBusy s t k then raise s .trim 5
                else setTrim s { s.trim with tsets := mapSet tsetDefault s.trim.tsets ((t * 2 + k) * 128 + a) v }
    | none => { s with lastRead := if 74 < a then 0 else tsetWord s.trim.tsets t k a }
  advance s' .trim Off.TRIM_TP_ADDR 7

/-- R626. -/
def execTpDataAccess (write : Option Word) (s : State) : Res :=
  done (if pageUp s .trim then tpAccess s write
        else { s with lastRead := if write.isNone then 0xFFFFFFFF else s.lastRead })

/-! ## Temperature bands (R303) -/

/-- nb of R303. -/
def bandNb (m : AMap Word) (t k : Nat) (v : Int) : Nat :=
  ((List.range 7).filter (fun i => decide (tEdge m t k (i + 1) ≤ v))).length

/-- The band after a valid report of temperature `v` (R303). -/
def bandNext (m : AMap Word) (t k b : Nat) (v : Int) : Nat :=
  if b < 7 ∧ tEdge m t k (b + 1) ≤ v then bandNb m t k v
  else if 0 < b ∧ v < tEdge m t k b - (tHyst m t k : Int) then bandNb m t k (v + (tHyst m t k : Int))
  else b

/-- A valid report's effect on context `c` (R303). -/
def bandReport (s : State) (c temp : Nat) : State :=
  let x := ctxWords s.geom.ctx c
  let t := cType x
  let k := tsetOf s (ctxGroup c) t
  let b := bandNext s.trim.tsets t k (cBand x) (signed 16 temp)
  raiseIf (decide (b ≠ cBand x)) .trim 4
    (setCtx s c 12 (BitVec.ofNat 32 (temp % 2 ^ 16 + b * 2 ^ 16 + 2 ^ 24)))

/-- The default band of a type in bank g in force; 0 where the type is not defined (R303). -/
def defaultBand (s : State) (g t : Nat) : Nat :=
  if bitOf (typeCfg s t) 31 then tDefBand s.trim.tsets t (tsetOf s g t) else 0

/-- The context records of an applied GEOM commit are written in list order (R198, R200, R303). -/
def geomApply (s : State) (g : Nat) (p : Pending) : State :=
  p.ctxs.foldl (fun (t : State) (r : Nat × List Word) =>
    let x := r.2.drop 1
    let t := (List.range 12).foldl (fun (u : State) w => setCtx u r.1 w (x.getD w 0)) t
    let t := ctxWritten t r.1
    if bitOf (r.2.getD 0 0) 16 then
      let t := setCtx t r.1 12 (BitVec.ofNat 32 (defaultBand t g (cType x) * 2 ^ 16))
      setCtx (setCtx (setCtx t r.1 13 0) r.1 14 0) r.1 15 0
    else t) s

/-! ## Drive codes (R314) -/

/-- 2^(L / 1024) in u2.16 (R314). -/
def gain16 (l : Int) : Nat :=
  if l % 1024 = 0 then
    (let q := l / 1024
     if 0 ≤ q then 65536 * 2 ^ q.toNat else (halfEven 65536 (2 ^ (-q).toNat)).toNat)
  else (ratHalfEven (fxExp (fxLn2 * l / 1024) * 65536)).toNat

/-- One colour's code (R314) and whether it was clipped: c, the log sum and gain, the lamp's step and count. -/
def codeOf (m : AMap Word) (t k i : Nat) (c : Rat) (l : Int) (tw : Word) (black : Bool) : Nat × Bool :=
  let v := c * (gain16 l : Nat) / 65536
  let v := if bitOf tw 27 || black then 0 else v
  let clip := decide (1 < v)
  let v := if clip then 1 else v
  if v = 0 then (0, clip)
  else
    let amin := if bitOf tw 28 then 7 else tAmin m t k
    let a := ((List.range 8).find? (fun a => decide (amin ≤ a) && decide (v * 65536 ≤ (tStep m t k i a : Nat)))).getD 7
    let p := (ratHalfEven (v * 65536 / (tStep m t k i a : Nat) * 8191)).toNat
    (if p = 0 then 0 else a * 2 ^ 13 + p, clip)

/-- The drive code of R314 from the set's words, the band, the output-LUT codes, the trim word, the wear word (`none`
for 0) and att_F; and whether a colour was clipped. -/
def driveCode (m : AMap Word) (t k band : Nat) (y : List Nat) (tw ww : Word) (att : Nat) : Nat × Bool :=
  let black := decide (att = 16383)
  let cs := (List.range 3).map (fun i =>
    let c : Rat := (List.range 3).foldl (fun acc j => acc + mkRat (tMat m t k band i j) 16384 * l20Val (y.getD j 0)) 0
    let c := if c < 0 then 0 else c
    let w : Int := if bitOf tw 29 then 0 else (fld ww (10 * i) 10 : Int)
    let l : Int := ((fld tw (9 * i) 9 : Int) - 384) * 8 + w - (att : Int)
    codeOf m t k i c l tw black)
  ((cs.zipIdx).foldl (fun acc x => acc + x.1.1 * 2 ^ (16 * x.2)) 0, cs.any (·.2))

/-! ## Wear blocks (R305) -/

/-- The wear block of lamp l of a context (R305). -/
def wearBlock (ctx : List Word) (tc : Word) (l : Nat) : Nat :=
  let lwt := tHW tc * tVW tc
  cWearBase ctx + l / lwt / 8 * ceilDiv lwt 8 + l % lwt / 8

/-- WEAR_BLOCKS as it acts: the register's 25 bits hold values above the range 0 to 2^24 of R327, for which the spec states no effect; the
model takes such a value as 2^24 (DESIGN CHOICE, log 65). -/
def wearBlocks (s : State) : Nat := min (regF s .trim Off.TRIM_WEAR_BLOCKS 0 25) (2 ^ 24)
def waccAt (s : State) (k : Nat) : Nat := addrPair s .trim Off.TRIM_WACC_BASE_LO Off.TRIM_WACC_BASE_HI + 12 * k
def wgainAt (s : State) (h : Bool) (k : Nat) : Nat :=
  addrPair s .trim Off.TRIM_WGAIN_BASE_LO Off.TRIM_WGAIN_BASE_HI + b2n h * 2 ^ 26 + 4 * k
def wrateAt (s : State) (k : Nat) : Nat := addrPair s .trim Off.TRIM_WRATE_BASE_LO Off.TRIM_WRATE_BASE_HI + 4 * k

/-! ## Fades (R311 to R313) -/

/-- att(L) (R311). -/
def fadeAt : List FadeSeg → Rat → Nat
  | [], _ => 0
  | f :: r, l =>
    if l < f.t0 then fadeAt r l
    else if f.dur = 0 then f.target
    else
      let d := l - f.t0
      let dd : Rat := (f.dur * 1000 : Nat)
      let d := if dd < d then dd else d
      ((f.a0 : Int) + ratHalfEven (((f.target : Int) - (f.a0 : Int) : Int) * d / dd)).toNat

/-- A new piece from t0; its A0 is the old function's value there. -/
def fadeNew (f : List FadeSeg) (t0 : Rat) (target dur : Nat) : List FadeSeg :=
  { t0 := t0, a0 := fadeAt f t0, target := target, dur := dur } :: f

def groupFade (s : State) (g : Nat) : List FadeSeg := mapGet (fun _ => []) s.fade.group g

/-- A FADE commit of bank g starts a new group fade (R312). -/
def fadeApply (s : State) (g : Nat) (t0 : Rat) : State :=
  let f := fadeNew (groupFade s g) t0 (fld (forceBank s .fade g Off.FADE_GF_TARGET) 0 14)
    (forceBank s .fade g Off.FADE_GF_DUR).toNat
  setFade s { s.fade with group := mapSet (fun _ => []) s.fade.group g f
                          groupRun := if s.fade.groupRun.contains g then s.fade.groupRun else g :: s.fade.groupRun }

/-- MF_CMD.go (R312). -/
def masterFadeGo (s : State) (now : Bool) : State :=
  let t0 : Rat := if now then nowNs s
    else genTimeNs s (reg s .fade Off.FADE_MF_T0_SEC).toNat (regF s .fade Off.FADE_MF_T0_NS 0 30)
  let late := (List.range 16).any (fun g => (tgen s g).plans.any (fun p => p.started && decide (p.gov = .run) && decide (t0 ≤ p.latch)))
  let f := fadeNew s.fade.master t0 (regF s .fade Off.FADE_MF_TARGET 0 14) (reg s .fade Off.FADE_MF_DUR).toNat
  raiseIf late .fade 2 (setFade s { s.fade with master := f, masterRun := true })

/-- R312. -/
def execMfGo (now : Bool) (s : State) : Res := done (if pageUp s .fade then masterFadeGo s now else s)

/-- The target of a fade's newest piece, 0 with none. -/
def fadeTarget (f : List FadeSeg) : Nat :=
  match f with
  | [] => 0
  | x :: _ => x.target

/-- R313 at the stream start of a frame with latch `l`: its att_F, ATT g, and GF_DONE and MF_DONE. -/
def fadeFrame (s : State) (g : Nat) (l : Rat) : Nat × State :=
  let a := fadeAt (groupFade s g) l
  let m := fadeAt s.fade.master l
  let att := min (a + m) 16383
  let gd := s.fade.groupRun.contains g && decide (a = fadeTarget (groupFade s g))
  let md := s.fade.masterRun && decide (m = fadeTarget s.fade.master)
  let f := { s.fade with att := mapSet (fun _ => (0, 0)) s.fade.att g (a, att)
                         groupRun := if gd then s.fade.groupRun.filter (fun x => decide (x ≠ g)) else s.fade.groupRun
                         masterRun := s.fade.masterRun && !md }
  (att, raiseIf md .fade 1 (raiseIf gd .fade 0 (setFade s f)))

end Sys2Proof.Machine
end

