-- ==== Sys2Proof/Machine/Codec.lean ====
section
/-!
DEFINITION. The Bamler codec: streams, channels, jobs and state slots (spec/10_bamler_codec.md R277 to R295).
-/
namespace Sys2Proof.Machine

def setCodec (s : State) (v : CodecUnit) : State := { s with codec := v }
def stSlot (s : State) (k : Nat) : StSlot := mapGet (fun _ => StSlot.initial) s.codec.slots k
def setStSlot (s : State) (k : Nat) (v : StSlot) : State :=
  setCodec s { s.codec with slots := mapSet (fun _ => StSlot.initial) s.codec.slots k v }
def codecRun (s : State) (c : Nat) : Option CodecJob := mapGet (fun _ => none) s.codec.run c
def setCodecRun (s : State) (c : Nat) (j : Option CodecJob) : State :=
  setCodec s { s.codec with run := mapSet (fun _ => none) s.codec.run c j }

/-! ## Streams (R277 to R280) -/

/-- Blocks of a surface. -/
def blocksOf (w h : Nat) : Nat := ceilDiv w 8 * ceilDiv h 8

/-- The 16 B frame header (R277). -/
def frameHeader (fmt w h : Nat) (seq : Word) (reset : Bool) : List Byte :=
  let bs := leBytes 4 (1 + fmt * 256 + b2n reset * 4096) ++ leBytes 4 ((w - 1) + (h - 1) * 65536) ++ leBytes 4 seq.toNat
  bs ++ leBytes 4 (crc32c bs).toNat

/-- Reads a frame header for a stream of format and size: the history reset and the sequence number; none where it is
invalid (R277). A header of another format or size than the job's is taken as invalid. -/
def readHeader (fmt w h : Nat) (bs : List Byte) : Option (Bool × Word) :=
  let ws := wordsOf (bs.take 16)
  let w0 := ws.getD 0 0
  let w1 := ws.getD 1 0
  if fld w0 0 8 ≠ 1 ∨ fld w0 13 19 ≠ 0 ∨ fld w0 8 4 ≠ fmt ∨ fld w1 0 16 + 1 ≠ w ∨ fld w1 16 16 + 1 ≠ h
     ∨ ws.getD 3 0 ≠ crc32c (bs.take 12) then none
  else some (bitOf w0 12, ws.getD 2 0)

/-- How a pass over a stream's bytes ended: the frame is complete, the input has run out, a block is invalid, or `limit` blocks are done. -/
inductive StreamEnd where
  | frame
  | more
  | bad
  | limit
deriving DecidableEq, Repr

/-- A pass over a stream's bytes: the new state, the blocks output with their indices, the bytes left, and how it ended. -/
structure StreamRun where
  st : StreamSt
  px : List (Nat × List Pixel)
  left : List Byte
  fin : StreamEnd
deriving DecidableEq, Repr

/-- Enters a block into the history (R278). -/
def pushHist (h : List (List Pixel)) (p : List Pixel) : List (List Pixel) := (p :: h).take 6

/-- The input has run out within a block or a header: its bytes are held in the state (R280). -/
def streamShort (st : StreamSt) (bs : List Byte) : StreamSt := { st with partial_ := bs, consumed := st.consumed + bs.length }

/-- Decodes up to `n` blocks of the frame in progress (R278). A frame that is complete leaves no frame in progress: its next index and its
bytes consumed are 0. -/
def streamBlocks (fmt w h : Nat) : Nat → StreamSt → List Byte → List (Nat × List Pixel) → StreamRun
  | 0, st, bs, out => ⟨st, out.reverse, bs, .limit⟩
  | n + 1, st, bs, out =>
    let short : StreamRun := ⟨streamShort st bs, out.reverse, [], .more⟩
    let emit (px : List Pixel) (len : Nat) (hist : List (List Pixel)) : StreamRun :=
      let st' := { st with next := st.next + 1, consumed := st.consumed + len, hist := hist }
      let out' := (st.next, px) :: out
      if st.next + 1 = blocksOf w h then ⟨{ st' with inFrame := false, next := 0, consumed := 0 }, out'.reverse, bs.drop len, .frame⟩
      else streamBlocks fmt w h n st' (bs.drop len) out'
    if bs.length < 16 then short
    else match readBlock fmt true bs with
      | .invalid => ⟨st, out.reverse, bs, .bad⟩
      | .pixels px len hr =>
        if bs.length < len then short else emit px len (pushHist (if hr then [] else st.hist) px)
      | .rep k hr =>
        let hist := if hr then [] else st.hist
        match hist[k]? with
        | none => ⟨st, out.reverse, bs, .bad⟩
        | some px => emit px 16 hist

/-- Decodes a stream's bytes, those held in its state first: at most one frame and `n` blocks of it (R277, R278, R283). A frame in
progress of another format or size than the job's, or with no block left, makes its next block invalid, as a header of another format
or size does (DESIGN CHOICE, log 66). -/
def streamDecode (fmt w h n : Nat) (st : StreamSt) (more : List Byte) : StreamRun :=
  let bs := st.partial_ ++ more
  if st.inFrame then
    let st := { st with partial_ := [], consumed := st.consumed - st.partial_.length }
    if st.fmt ≠ fmt ∨ st.w ≠ w ∨ st.h ≠ h ∨ blocksOf w h ≤ st.next then ⟨st, [], bs, .bad⟩ else streamBlocks fmt w h n st bs []
  else
    let st := { st with partial_ := [], consumed := 0, next := 0 }
    if bs.length < 16 then ⟨streamShort st bs, [], [], .more⟩
    else match readHeader fmt w h bs with
      | none => ⟨st, [], bs, .bad⟩
      | some (rst, seq) =>
        streamBlocks fmt w h n { st with fmt := fmt, inFrame := true, w := w, h := h, seq := seq, consumed := 16
                                         hist := if rst then [] else st.hist } (bs.drop 16) []

/-- The 4 KiB of a state slot without its CRC (R280). -/
def stateBody (st : StreamSt) : List Byte :=
  let pad (n : Nat) (l : List Byte) : List Byte := (l ++ List.replicate n 0).take n
  let head := leBytes 4 (1 + st.fmt * 256 + b2n st.inFrame * 4096 + st.hist.length * 8192)
    ++ leBytes 4 ((st.w - 1) % 65536 + (st.h - 1) % 65536 * 65536) ++ leBytes 4 st.seq.toNat ++ leBytes 4 st.next
    ++ leBytes 4 st.partial_.length ++ leBytes 4 st.consumed
  pad 1024 (pad 64 head ++ pad 528 st.partial_)
    ++ (List.range 6).flatMap (fun k =>
      pad 512 ((st.hist.getD k []).flatMap (fun p => leBytes (fmtBytes st.fmt) (pixelVal st.fmt p))))

/-- The 4 KiB a SAVE_STATE writes. -/
def stateBytes (st : StreamSt) : List Byte :=
  let b := stateBody st
  b.take 0x3C ++ leBytes 4 (crc32c b).toNat ++ b.drop 0x40

/-- Reads a saved state; none where its CRC does not match (R280, R286). -/
def stateOf (bs : List Byte) : Option StreamSt :=
  let z := bs.take 0x3C ++ [0, 0, 0, 0] ++ bs.drop 0x40
  if leVal ((bs.drop 0x3C).take 4) ≠ (crc32c z).toNat then none
  else
    let wd (k : Nat) : Word := (wordsOf bs).getD k 0
    let fmt := fld (wd 0) 8 4
    let n := fmtBytes fmt
    let slot (k : Nat) : List Pixel :=
      let b := bs.drop (0x400 + 512 * k)
      (List.range 64).map (fun i => pixelOf fmt (leVal ((b.drop (i * n)).take n)))
    some { fmt := fmt, inFrame := bitOf (wd 0) 12, w := fld (wd 1) 0 16 + 1, h := fld (wd 1) 16 16 + 1, seq := wd 2
           next := (wd 3).toNat, partial_ := (bs.drop 0x40).take (min 528 (wd 4).toNat), consumed := (wd 5).toNat
           hist := (List.range (min 6 (fld (wd 0) 13 3))).map slot }

/-! ## Sources and destinations -/

/-- What one block of a job's source gives. -/
inductive SrcBlock where
  | pixels (ps : List Pixel) (len : Nat)
  | bad (status : Nat)
deriving DecidableEq, Repr

/-- The 64 pixels of block (bx, by) of a linear surface, edges filled (R266). -/
def linearBlock (s : State) (base pitch fmt w h bx byy : Nat) : SrcBlock :=
  let n := fmtBytes fmt
  let row (y : Nat) : Nat := base + y * pitch
  if (List.range 8).any (fun r => !hbmReadOk s (row (min (8 * byy + r) (h - 1)) + 8 * bx * n) (min 8 (w - 8 * bx) * n)) then .bad 4
  else .pixels (blockOf (fun x y => pixelOf fmt (memVal s (row y + x * n) n)) w h bx byy)
    (n * (min 8 (w - 8 * bx)) * (min 8 (h - 8 * byy)))

/-- A fixed-ratio block (R275). -/
def fixedBlock (s : State) (base pitch fmt form bx byy : Nat) : SrcBlock :=
  let n := fixedSize fmt form
  let a := base + byy * pitch + bx * n
  if !hbmReadOk s a n then .bad 4
  else match decodeFixed fmt form (memBytes s a n) with
    | some ps => .pixels ps n
    | none => .bad 3

/-- Blocks of a lossless-capped row from `pos`, `n` of them; `lim` is the end of the bytes available (R276, R282). -/
def cappedRow (s : State) (fmt lim : Nat) : Nat → Nat → List SrcBlock
  | 0, _ => []
  | n + 1, pos =>
    let need := min (rawBlock fmt + 16) (lim - pos)
    if lim < pos + 16 then [.bad 3]
    else if !hbmReadOk s pos need then [.bad 4]
    else match readBlock fmt false (memBytes s pos need) with
      | .pixels ps len _ => if lim < pos + len then [.bad 3] else .pixels ps len :: cappedRow s fmt lim n (pos + len)
      | _ => [.bad 3]

/-- The bytes a decoded block puts into a linear surface: its rows inside the surface (R151). -/
def linearWrites (base pitch fmt w h : Nat) (i : Nat) (ps : List Pixel) : List (Nat × List Byte) :=
  let bw := ceilDiv w 8
  let bx := i % bw
  let byy := i / bw
  let n := fmtBytes fmt
  (List.range (min 8 (h - 8 * byy))).map (fun r =>
    (base + (8 * byy + r) * pitch + 8 * bx * n,
     (List.range (min 8 (w - 8 * bx))).flatMap (fun c => leBytes n (pixelVal fmt (ps.getD (8 * r + c) [])))))

/-- The writes of one fixed-ratio block. -/
def fixedWrite (base pitch fmt form w : Nat) (i : Nat) (ps : List Pixel) : Nat × List Byte :=
  (base + i / ceilDiv w 8 * pitch + i % ceilDiv w 8 * fixedSize fmt form, encodeFixed fmt form ps)

/-- Every write of a job. -/
def codecWrites (o : CodecOut) : List (Nat × List Byte) := o.pre ++ o.outs.flatten

/-- The bytes of a list of writes. -/
def writeBytes (w : List (Nat × List Byte)) : Nat := (w.map (fun x => x.2.length)).foldl (· + ·) 0

/-! ## Jobs (R282 to R288) -/

def cjOp (j : CodecJob) : Nat := fld (j.desc.getD 0 0) 0 4
def cjSrcForm (j : CodecJob) : Nat := fld (j.desc.getD 0 0) 4 3
def cjSlot (j : CodecJob) : Nat := fld (j.desc.getD 0 0) 16 6
def cjUse (j : CodecJob) : Bool := bitOf (j.desc.getD 0 0) 22
def cjResume (j : CodecJob) : Bool := bitOf (j.desc.getD 0 0) 23
def cjHist (j : CodecJob) : Bool := bitOf (j.desc.getD 0 0) 25
def cjSrc (j : CodecJob) : Nat := (j.desc.getD 2 0).toNat + fld (j.desc.getD 3 0) 0 3 * 2 ^ 32
def cjSrcPitch (j : CodecJob) : Nat := fld (j.desc.getD 4 0) 0 24
def cjSrcLen (j : CodecJob) : Nat := (j.desc.getD 5 0).toNat
def cjDstLen (j : CodecJob) : Nat := (j.desc.getD 9 0).toNat
def cjStart (j : CodecJob) : Nat := if cjResume j then (j.desc.getD 10 0).toNat else 0

/-- The source blocks of a job whose source is not a stream, from block `start` in order. A lossless-capped row is walked from its first
block: one that is invalid before `start` stops the job there (R276, R286). -/
def srcBlocks (s : State) (j : CodecJob) (start : Nat) : List (Nat × SrcBlock) :=
  let bw := ceilDiv j.w 8
  let n := blocksOf j.w j.h
  let all : List (Nat × SrcBlock) :=
    if cjSrcForm j = 4 then
      (List.range (ceilDiv j.h 8)).flatMap (fun byy =>
        ((cappedRow s j.fmt (cjSrc j + cjSrcLen j) bw (cjSrc j + byy * cjSrcPitch j)).zipIdx).map
          (fun x => (byy * bw + x.2, x.1)))
    else if cjSrcForm j = 0 then
      (List.range n).map (fun i => (i, linearBlock s (cjSrc j) (cjSrcPitch j) j.fmt j.w j.h (i % bw) (i / bw)))
    else (List.range n).map (fun i => (i, fixedBlock s (cjSrc j) (cjSrcPitch j) j.fmt (cjSrcForm j) (i % bw) (i / bw)))
  all.filter (fun x => decide (start ≤ x.1) || (match x.2 with
    | .bad _ => decide (x.1 / bw = start / bw)
    | .pixels .. => false))

/-- Takes blocks while they are good, at most `limit` of them: index, pixels and source bytes, and the status of the first that is not (0
where all are). -/
def takeBlocks : Nat → List (Nat × SrcBlock) → List (Nat × List Pixel × Nat) × Nat
  | _, [] => ([], 0)
  | 0, _ => ([], 9)
  | n + 1, (i, .pixels ps len) :: r =>
    let t := takeBlocks n r
    ((i, ps, len) :: t.1, t.2)
  | _ + 1, (_, .bad c) :: _ => ([], c)

/-- The writes of a decoded block at the job's destination. -/
def outWrites (j : CodecJob) (i : Nat) (ps : List Pixel) : List (Nat × List Byte) :=
  if j.dstForm = 0 then linearWrites j.dst j.dstPitch j.fmt j.w j.h i ps
  else [fixedWrite j.dst j.dstPitch j.fmt j.dstForm j.w i ps]

/-- The writes of a lossless-capped surface, from the first block of a row: the blocks of a row one after another. -/
def cappedOuts (j : CodecJob) (bw : Nat) : Nat → List (Nat × List Pixel × Nat) → List (List (Nat × List Byte))
  | _, [] => []
  | off, (i, ps, _) :: r =>
    let off := if i % bw = 0 then 0 else off
    let bs := encodeCapped j.fmt ps
    [(j.dst + i / bw * j.dstPitch + off, bs)] :: cappedOuts j bw (off + bs.length) r

/-- Encodes blocks as a stream within a space: the bytes of each block done, the history, and whether space ran out (R279, R287). -/
def streamEncode (fmt : Nat) : List (Nat × List Pixel × Nat) → List (List Pixel) → Nat → List (List Byte) × List (List Pixel) × Bool
  | [], hist, _ => ([], hist, false)
  | (_, px, _) :: r, hist, space =>
    let hit := (hist.zipIdx).find? (fun x => decide (x.1 = px))
    let bs := match hit with
      | some (_, k) => leBytes 16 (2 + 8 * k)
      | none => encodeCapped fmt px
    if space < bs.length then ([], hist, true)
    else
      let t := streamEncode fmt r (if hit.isSome then hist else pushHist hist px) (space - bs.length)
      (bs :: t.1, t.2)

/-- Pieces of a stream written one after another from an address. -/
def laidOut : Nat → List (List Byte) → List (List (Nat × List Byte))
  | _, [] => []
  | a, b :: r => [(a, b)] :: laidOut (a + b.length) r

/-- The source bytes of blocks. -/
def srcLens (l : List (Nat × List Pixel × Nat)) : Nat := (l.map (fun x => x.2.2)).foldl (· + ·) 0

/-- A job with a stream at its destination: a new frame with its header, or the rest of the frame that a job left unfinished in the slot
(R279, R287). `seq` numbers a new frame. -/
def encodeStream (s : State) (j : CodecJob) (limit : Nat) (st : StreamSt) (seq : Word) : CodecOut :=
  let (px, c) := takeBlocks limit (srcBlocks s j (cjStart j))
  let going := cjResume j && st.inFrame
  let seq := if cjResume j then st.seq else seq
  let hist := if cjHist j && !going then [] else st.hist
  let hdr := if going then [] else frameHeader j.fmt j.w j.h seq (cjHist j)
  let stopped := if s.part = .af128x16 then 6 else 1
  let st := { st with fmt := j.fmt, w := j.w, h := j.h, seq := seq, hist := hist, next := cjStart j }
  if cjDstLen j < hdr.length then ⟨stopped, 0, cjStart j, [], [], { st with inFrame := going }⟩
  else
    let (bs, hist', full) := streamEncode j.fmt px hist (cjDstLen j - hdr.length)
    let n := cjStart j + bs.length
    { status := if full then stopped else c, bytesIn := srcLens (px.take bs.length), blocks := n
      pre := if hdr.isEmpty then [] else [(j.dst, hdr)], outs := laidOut (j.dst + hdr.length) bs
      st := { st with next := n, hist := hist', inFrame := full || decide (c ≠ 0) } }

/-- A job with a surface at both sides. A lossless-capped row at the destination goes on where its blocks before the first one end. -/
def recode (s : State) (j : CodecJob) (limit : Nat) (st : StreamSt) : CodecOut :=
  let bw := ceilDiv j.w 8
  let first := if j.dstForm = 4 then cjStart j / bw * bw else cjStart j
  let skip := cjStart j - first
  let (px, c) := takeBlocks (skip + limit) (srcBlocks s j first)
  let outs := if j.dstForm = 4 then (cappedOuts j bw 0 px).drop skip else px.map (fun x => outWrites j x.1 x.2.1)
  ⟨c, srcLens (px.drop skip), cjStart j + outs.length, [], outs, st⟩

/-- A job with a stream at its source: the bytes at src go on from those that the slot holds (R278, R283, R286). -/
def decodeStream (s : State) (j : CodecJob) (limit : Nat) (st : StreamSt) : CodecOut :=
  if cjSrcLen j ≠ 0 ∧ hbmReadOk s (cjSrc j) (cjSrcLen j) = false then ⟨4, 0, st.next, [], [], st⟩
  else
    let r := streamDecode j.fmt j.w j.h limit st (memBytes s (cjSrc j) (cjSrcLen j))
    let outs := r.px.map (fun x => outWrites j x.1 x.2)
    let inn := cjSrcLen j - r.left.length
    match r.fin with
    | .frame => ⟨0, inn, blocksOf j.w j.h, [], outs, r.st⟩
    | .more => ⟨10, cjSrcLen j, r.st.next, [], outs, r.st⟩
    | .bad => ⟨3, inn, r.st.next, [], outs, r.st⟩
    | .limit => ⟨9, inn, r.st.next, [], outs, r.st⟩

/-- Runs a job's work, at most `limit` blocks of it, on the state `st` of its slot. `seq` numbers an encoded frame. -/
def codecWork (s : State) (j : CodecJob) (limit : Nat) (st : StreamSt) (seq : Word) : CodecOut :=
  match cjOp j with
  | 3 => ⟨0, 0, 0, [(j.dst, stateBytes st)], [], st⟩
  | 4 =>
    if !hbmReadOk s (cjSrc j) 4096 then ⟨4, 0, 0, [], [], st⟩
    else match stateOf (memBytes s (cjSrc j) 4096) with
      | some st' => ⟨0, 4096, 0, [], [], st'⟩
      | none => ⟨7, 4096, 0, [], [], StreamSt.empty⟩
  | 1 => if j.dstForm = 5 then encodeStream s j limit st seq else recode s j limit st
  | _ => if cjSrcForm j = 5 then decodeStream s j limit st else recode s j limit st

/-- A job's work to its end, or to the first block with a write that ends ABSENT (R286). -/
def codecRunOut (s : State) (j : CodecJob) (limit : Nat) (st : StreamSt) (seq : Word) : CodecOut :=
  let o := codecWork s j limit st seq
  let made (w : List (Nat × List Byte)) : Bool := w.all (fun x => hbmOk s x.1 x.2.length)
  let good := (o.outs.takeWhile made).length
  if !made o.pre then ⟨5, 0, cjStart j, [], [], st⟩
  else if good < o.outs.length then { codecWork s j good st seq with status := 5 } else o

/-- Every block of the destination surface as memory holds it. -/
def surfaceBlocks (s : State) (j : CodecJob) : List (Nat × List Pixel) :=
  let bw := ceilDiv j.w 8
  (List.range (blocksOf j.w j.h)).map (fun i =>
    (i, match (if j.dstForm = 0 then linearBlock s j.dst j.dstPitch j.fmt j.w j.h (i % bw) (i / bw)
               else fixedBlock s j.dst j.dstPitch j.fmt j.dstForm (i % bw) (i / bw)) with
        | .pixels ps _ => ps
        | .bad _ => []))

/-- Opacity summary of a surface's decoded blocks (R176, R285). -/
def codecSummary (j : CodecJob) (a : Nat) (px : List (Nat × List Pixel)) : Nat × List Byte :=
  let bw := ceilDiv j.w 8
  let opaque_ (p : Pixel) : Bool := match (fmtDepths j.fmt)[3]? with
    | some n => if j.fmt = 3 then decide (halfOf (p.getD 3 0) = .fin 1) else decide (p.getD 3 0 = 2 ^ n - 1)
    | none => true
  let ok (c r : Nat) : Bool := px.all (fun x =>
    let bx := x.1 % bw
    let byy := x.1 / bw
    if bx / 2 = c ∧ byy / 2 = r then
      (List.range 64).all (fun i => decide (j.w ≤ 8 * bx + i % 8) || decide (j.h ≤ 8 * byy + i / 8) || opaque_ (x.2.getD i []))
    else true)
  (a, summaryBytes j.w j.h ok)

/-! ## Channels (R281, R284, R289, R294) -/

def codecPage (c : Nat) : Page := .codec (Fin.ofNat 4 c)
def cqSize (s : State) (c : Nat) : Nat := regF s (codecPage c) Off.CODEC_Q_SIZE 0 9
def cqHead (s : State) (c : Nat) : Nat := regF s (codecPage c) Off.CODEC_Q_HEAD 0 8
def cqTail (s : State) (c : Nat) : Nat := regF s (codecPage c) Off.CODEC_Q_TAIL 0 8
def cqBase (s : State) (c : Nat) : Nat := addrPair s (codecPage c) Off.CODEC_Q_BASE_LO Off.CODEC_Q_BASE_HI

/-- A queue size of R292: 2 to 256, a power of two. -/
def queueSizeOk (n : Nat) : Bool := [2, 4, 8, 16, 32, 64, 128, 256].contains n

/-- Q_BASE_HI.valid as it acts (R294). -/
def cqValid (s : State) (c : Nat) : Bool :=
  bitOf (reg s (codecPage c) Off.CODEC_Q_BASE_HI) 31 && queueSizeOk (cqSize s c) && decide (cqBase s c % 64 = 0)
  && decide (cqBase s c + 64 * cqSize s c ≤ hbmBytes s)

/-- QUEUE_IDLE (R295). -/
def codecLevels (s : State) (c : Nat) : State :=
  setLevel s (codecPage c) 3 (decide (cqHead s c = cqTail s c) && (codecRun s c).isNone)

/-- The queue register a write names. -/
def codecCfgOff (which : Nat) : Nat :=
  match which with
  | 0 => Off.CODEC_Q_BASE_LO
  | 1 => Off.CODEC_Q_BASE_HI
  | _ => Off.CODEC_Q_SIZE

/-- R294: discarded while a job runs or the queue is not empty. -/
def codecCfgWrite (s : State) (c off : Nat) (v : Word) : State :=
  if (codecRun s c).isSome ∨ cqHead s c ≠ cqTail s c then s else writePlain s (codecPage c) off v

/-- R294. -/
def execCodecQueueConfigWrite (c : Fin 4) (which : Fin 3) (v : Word) (s : State) : Res :=
  done (if pageUp s (.codec c) then codecCfgWrite s c.val (codecCfgOff which.val) v else s)

/-- A write of Q_TAIL (R281). -/
def codecTailWrite (s : State) (c : Nat) (v : Word) : State :=
  codecLevels (writePlain s (codecPage c) Off.CODEC_Q_TAIL v) c

/-- R281. -/
def execCodecQTailWrite (c : Fin 4) (v : Word) (s : State) : Res :=
  done (if pageUp s (.codec c) then codecTailWrite s c.val v else s)

/-- The descriptor at the queue's head. -/
def codecHead (s : State) (c : Nat) : List Word := memWords s (cqBase s c + 64 * cqHead s c) 16

/-- The job's destination is a buffer (R285); ops 3 and 4 have no surface. -/
def cjUseBuf (j : CodecJob) : Bool := bitOf (j.desc.getD 0 0) 24 && decide (cjOp j < 3)

/-- R284 on what the descriptor alone says: reserved bits and codes, the source form, use_state, and dst_buf with form 4 or 5. With dst_buf
words 1 and 6 to 8 are ignored (R285). -/
def codecWordsBad (j : CodecJob) : Bool :=
  let d := j.desc
  let w0 := d.getD 0 0
  let op := cjOp j
  let sf := cjSrcForm j
  let df := fld w0 8 3
  let src := match op with
    | 0 => decide (1 ≤ sf) && decide (sf ≤ 5)
    | 1 => decide (sf = 0)
    | 2 => decide (sf = 4) || decide (sf = 5)
    | _ => true
  decide (5 ≤ op) || outside w0 0x03FFFFFF || bitOf w0 7 || bitOf w0 11 || decide (5 < sf) || decide (5 < df)
  || (!cjUseBuf j && decide (5 < fld w0 12 4)) || outside (d.getD 3 0) 7 || outside (d.getD 4 0) 0xFFFFFF
  || (!cjUseBuf j && (outside (d.getD 7 0) 7 || outside (d.getD 8 0) 0xFFFFFF))
  || !src || ((decide (3 ≤ op) || decide (sf = 5) || decide (df = 5)) && !cjUse j)
  || (cjUseBuf j && decide (4 ≤ df))

/-- R284 on a job's surfaces, its destination as resolved: forms that suit the op, the format, pitches of R275 and R276, addresses
within the capacity, and start_block. -/
def codecSizesBad (s : State) (j : CodecJob) : Bool :=
  let op := cjOp j
  let sf := cjSrcForm j
  let df := j.dstForm
  let dst := match op with
    | 0 => decide (df = 0)
    | 1 => decide (1 ≤ df) && decide (df ≤ 5)
    | 2 => decide (1 ≤ df) && decide (df ≤ 3)
    | _ => true
  let sized (form pitch base len : Nat) : Bool :=
    if form = 0 then decide (base + max (pitch * j.h) ((j.h - 1) * pitch + j.w * fmtBytes j.fmt) ≤ hbmBytes s)
    else if form = 5 then decide (base + len ≤ hbmBytes s)
    else decide (minPitch j.fmt form j.w ≤ pitch) && decide (base + surfaceBytes form j.h pitch ≤ hbmBytes s)
  match op with
  | 3 => decide (hbmBytes s < j.dst + 4096)
  | 4 => decide (hbmBytes s < cjSrc j + 4096)
  | _ => !dst || !(fmtStorageOk j.fmt 1) || !sized sf (cjSrcPitch j) (cjSrc j) (cjSrcLen j)
    || !sized df j.dstPitch j.dst (cjDstLen j) || (cjResume j && decide (blocksOf j.w j.h ≤ cjStart j))

/-- The slot is in use by another channel's running job (R289). -/
def slotBusy (s : State) (c k : Nat) : Bool :=
  s.codec.run.any (fun e => decide (e.1 ≠ c) && (match e.2 with
    | some j => cjUse j && decide (cjSlot j = k) && j.dead.isNone
    | none => false))

/-- The job of a descriptor, before any claim. -/
def jobOfDesc (d : List Word) (i : Nat) : CodecJob :=
  { desc := d, index := i, w := fld (d.getD 1 0) 0 16 + 1, h := fld (d.getD 1 0) 16 16 + 1, fmt := fld (d.getD 0 0) 12 4
    dstForm := fld (d.getD 0 0) 8 3, dst := (d.getD 6 0).toNat + fld (d.getD 7 0) 0 3 * 2 ^ 32
    dstPitch := fld (d.getD 8 0) 0 24, buf := none, summary := none, dead := none, intern := none, key := 0, seen := none }

/-- A job's destination taken from a Buffer Table entry (R285). -/
def jobWithBuf (s : State) (j : CodecJob) (b : Nat) : CodecJob :=
  let f := surfOf (bufEntry s b)
  { j with w := f.w, h := f.h, fmt := f.fmt, dstForm := f.st, dst := f.base, dstPitch := f.pitch, buf := some b
           summary := if f.sumValid then some f.sumBase else none }

/-- What channel c waits for a state slot with: 0 nothing, 1 the host's job, 2 an internal one (R289). -/
def slotWait (s : State) (c : Nat) : Nat := mapGet (fun _ => 0) s.codec.wait c
def setSlotWait (s : State) (c n : Nat) : State := setCodec s { s.codec with wait := mapSet (fun _ => 0) s.codec.wait c n }

/-- A job is the channel's running one. -/
def jobRuns (s : State) (c : Nat) (j : CodecJob) : State :=
  let (n, t) := draw s
  codecLevels (setCodecRun t c (some { j with key := n })) c

/-- The descriptor at the head of channel c's queue can be read. -/
def codecHeadOk (s : State) (c : Nat) : Bool := hbmReadOk s (cqBase s c + 64 * cqHead s c) 64

/-- Starts the job at the head of channel c's queue (R281, R284, R285, R289). One whose descriptor cannot be read ends with status 2
(DESIGN CHOICE, log 70). -/
def codecStart (s : State) (c : Nat) : State :=
  let s := eccTouchAll s [(cqBase s c + 64 * cqHead s c, 64)]
  let j0 := jobOfDesc (codecHead s c) (cqHead s c)
  let b := fld (j0.desc.getD 6 0) 0 14
  let refused := cjUseBuf j0 && decide (claimCode s b ≠ 0)
  let j := if cjUseBuf j0 && !refused then jobWithBuf s j0 b else j0
  let bad := !codecHeadOk s c || codecWordsBad j0 || (!refused && codecSizesBad s j)
  let start (t : State) (x : CodecJob) : State := jobRuns t c x
  if cjUse j && slotBusy s c (cjSlot j) && !bad then setSlotWait s c 1
  else
    let s := setSlotWait s c 0
    if bad then start s { j with dead := some 2, buf := none }
    else if cjUse j && decide ((stSlot s (cjSlot j)).owner ≠ 1) then start s { j with dead := some 11, buf := none }
    else if refused then start s { j with dead := some 8 }
    else start (if cjUseBuf j then claimFor s b ownCodec c else s) j

/-- A channel may start its next job, and that job's op satisfies `p`: internal jobs come first, but for a job of the host that waits
for its slot (R289). -/
def codecMayStart (s : State) (c : Nat) (p : Nat → Bool) : Bool :=
  islandRuns s islMedia && (codecRun s c).isNone && bitOf (reg s (codecPage c) Off.CODEC_CTRL) 0 && cqValid s c
  && ((mapGet (fun _ => []) s.codec.queued c).isEmpty || decide (slotWait s c = 1)) && decide (cqHead s c ≠ cqTail s c)
  && p (if codecHeadOk s c then fld ((codecHead s c).getD 0 0) 0 4 else 15)

/-- The bytes of a failed AF128 encode are undefined (R287): each is a free value. -/
def scramble (n : Nat) (w : List (Nat × List Byte)) : List (Nat × List Byte) :=
  w.map (fun x => (x.1, (x.2.zipIdx).map (fun b => Config.freeByte (n + b.2))))

/-- Result words, Q_HEAD, LAST and the event of a job that ends (R281, R286). -/
def codecFinish (s : State) (c : Nat) (j : CodecJob) (o : CodecOut) : State :=
  let words : List Word := [BitVec.ofNat 32 o.bytesIn, BitVec.ofNat 32 o.blocks
    , BitVec.ofNat 32 (writeBytes (codecWrites o)), BitVec.ofNat 32 (o.status + 2 ^ 31)]
  let s := hbmPut s [(cqBase s c + 64 * j.index + 48, bytesOfWords words)]
  let s := setReg s (codecPage c) Off.CODEC_Q_HEAD (BitVec.ofNat 32 ((j.index + 1) % cqSize s c))
  let s := setReg s (codecPage c) Off.CODEC_LAST (BitVec.ofNat 32 (o.status + j.index * 256))
  let s := setCodecRun s c none
  let s := raise s (codecPage c) (if o.status = 0 ∨ o.status = 10 then 0 else if o.status = 1 then 2 else 1)
  codecLevels s c

/-- What a job reads at its source. -/
def codecSpans (j : CodecJob) : List (Nat × Nat) :=
  let rows := ceilDiv j.h 8
  match cjOp j with
  | 3 => []
  | 4 => [(cjSrc j, 4096)]
  | _ =>
    if cjSrcForm j = 0 then (List.range j.h).map (fun y => (cjSrc j + y * cjSrcPitch j, j.w * fmtBytes j.fmt))
    else if cjSrcForm j ≤ 3 then
      (List.range rows).map (fun y => (cjSrc j + y * cjSrcPitch j, ceilDiv j.w 8 * fixedSize j.fmt (cjSrcForm j)))
    else [(cjSrc j, cjSrcLen j)]

/-- The blocks of a running job that CUR_BLOCKS has shown as done. -/
def seenBlocks (j : CodecJob) : Nat := match j.seen with
  | some o => o.outs.length
  | none => 0

/-- A job comes to no less than it has shown: where its source or its destination has failed since, it ends where it was seen. -/
def notLess (j : CodecJob) (o : CodecOut) : CodecOut := match j.seen with
  | some p => if o.outs.length < p.outs.length then { p with status := o.status } else o
  | none => o

/-- The host reads CUR_BLOCKS: the running job is somewhere between the block it showed last and its end (R292). -/
def curBlocksRead (s : State) (c : Nat) : State :=
  match codecRun s c with
  | none => { s with lastRead := 0 }
  | some j =>
    if j.dead.isSome ∨ 3 ≤ cjOp j then { s with lastRead := 0 }
    else
      let st := match j.intern with
        | some x => x.2
        | none => (stSlot s (cjSlot j)).st
      let (n, t) := draw s
      let run (k : Nat) : CodecOut := notLess j (codecRunOut t j k st (Config.freeWord j.key))
      let most := (run (blocksOf j.w j.h)).outs.length
      let o := run (seenBlocks j + Config.freeNat n % (most - seenBlocks j + 1))
      { setCodecRun (hbmPut t (codecWrites o)) c (some { j with seen := some o }) with lastRead := BitVec.ofNat 32 o.blocks }

/-- The work of a running job, at most `limit` blocks of it but no less than it has shown, from the stream state `st`: what it came to, its
writes made. -/
def codecDo (s : State) (j : CodecJob) (limit : Nat) (aborted : Bool) (st : StreamSt) : CodecOut × State :=
  let s := if s.ecc.isEmpty then s else eccTouchAll s (codecSpans j)
  let (n, s) := draw s
  let o := notLess j (codecRunOut s j (max limit (seenBlocks j)) st (Config.freeWord j.key))
  let o := if aborted && decide (o.status = 0) then { o with status := 9 } else o
  let w := codecWrites o
  (o, { hbmPut s (if o.status = 6 then scramble n w else w) with free := s.free + writeBytes w })

/-- The buffer of a job that ends: its summary is written and READY sent with `seq` where the job is done, and it is freed where the job, or
the write of its summary, has failed (R285). The job's status follows. -/
def jobBuffer (s : State) (c : Nat) (j : CodecJob) (status : Nat) (seq : Word) : Nat × State :=
  match j.buf with
  | none => (status, s)
  | some b =>
    if !ownedBy s b ownCodec c then (status, s)
    else if status ≠ 0 then (status, freeFor s b)
    else match j.summary with
      | none => (0, producerReady s b seq)
      | some a =>
        let w := codecSummary j a (surfaceBlocks s j)
        if hbmOk s w.1 w.2.length then (0, producerReady (hbmPut s [w]) b seq) else (5, freeFor s b)

/-- The running job of the queue ends after at most `limit` blocks. -/
def codecEnd (s : State) (c : Nat) (j : CodecJob) (limit : Nat) (aborted : Bool) : State :=
  match j.dead with
  | some st => codecFinish s c j ⟨st, 0, 0, [], [], StreamSt.empty⟩
  | none =>
    let sl := stSlot s (cjSlot j)
    let (o, s) := codecDo s j limit aborted sl.st
    let s := if cjUse j then setStSlot s (cjSlot j) { sl with st := if o.status = 6 ∨ o.status = 7 then StreamSt.empty else o.st } else s
    let (status, s) := jobBuffer s c j o.status (j.desc.getD 11 0)
    codecFinish s c j { o with status := status }

/-! ## Internal jobs (R468, R494) -/

/-- The internal jobs that wait on a channel. -/
def intQueue (s : State) (c : Nat) : List (Nat × List Word × Option Nat) := mapGet (fun _ => []) s.codec.queued c
def setIntQueue (s : State) (c : Nat) (l : List (Nat × List Word × Option Nat)) : State :=
  setCodec s { s.codec with queued := mapSet (fun _ => []) s.codec.queued c l }

/-- Queues an internal DECODE of `len` bytes at `src`, with state slot `slot`, into buffer `b`. -/
def intPush (s : State) (c req slot src len b : Nat) : State :=
  let d : List Word := [BitVec.ofNat 32 (5 * 16 + slot * 2 ^ 16 + 2 ^ 22 + 2 ^ 24), 0, BitVec.ofNat 32 src
    , BitVec.ofNat 32 (src / 2 ^ 32), 0, BitVec.ofNat 32 len, BitVec.ofNat 32 b]
  setIntQueue s c (intQueue s c ++ [(req, d, some b)])

/-- A channel may start an internal job: it comes ahead of the queue's next job, but for one that waits for its slot (R289). -/
def intMayStart (s : State) (c : Nat) : Bool :=
  islandRuns s islMedia && (codecRun s c).isNone && bitOf (reg s (codecPage c) Off.CODEC_CTRL) 0 && !(intQueue s c).isEmpty
  && decide (slotWait s c ≠ 1)

/-- Starts the first internal job that waits; the slot of a stream's or a flow's must be its owner's: 2 a stream, 3 a flow. -/
def intStart (s : State) (c : Nat) : State :=
  match intQueue s c with
  | [] => s
  | (req, d, b) :: rest =>
    let j0 := jobOfDesc d 0
    let j := match b with
      | some b => jobWithBuf s j0 b
      | none => j0
    let k := cjSlot j
    if cjUse j && slotBusy s c k then setSlotWait s c 2
    else
      let s := setIntQueue (setSlotWait s c 0) c rest
      let dead := if codecWordsBad j0 || codecSizesBad s j then some 2
        else if cjUse j && decide ((stSlot s k).owner ≠ (if req % 64 < 32 then 2 else 3)) then some 11 else none
      jobRuns s c { j with dead := dead, intern := some (req, (stSlot s k).st) }

/-- An internal job ends: its work, and its buffer where the frame is complete or has failed. A frame that waits for more
input keeps its buffer. -/
def intEnd (s : State) (c : Nat) (j : CodecJob) (st : StreamSt) (limit : Nat) (aborted : Bool) : CodecOut × State :=
  let (o, s) : CodecOut × State := match j.dead with
    | some x => (⟨x, 0, 0, [], [], st⟩, s)
    | none => codecDo s j limit aborted st
  let s := setCodecRun s c none
  let (status, s) := if o.status = 10 then (10, s) else jobBuffer s c j o.status o.st.seq
  ({ o with status := status }, codecLevels s c)

/-! ## State slots (R289) -/

/-- STATE_RESULT and STATE_REFUSED. -/
def stateResult (s : State) (refused : Bool) : State :=
  raiseIf refused (.codec 0) 4 (setReg s (.codec 0) Off.CODEC_STATE_RESULT (BitVec.ofNat 32 (b2n refused)))

/-- A claim by an owner; false where the slot is not free. -/
def slotClaim (s : State) (k owner : Nat) : Bool × State :=
  if (stSlot s k).owner = 0 then (true, setStSlot s k ⟨owner, StreamSt.empty⟩) else (false, s)

/-- A release empties the slot. -/
def slotRelease (s : State) (k : Nat) : State := setStSlot s k StSlot.initial

/-- STATE_CMD op 1. -/
def stateClaim (s : State) (k : Nat) : State :=
  let r := slotClaim s k 1
  stateResult r.2 (!r.1)

/-- STATE_CMD op 2: the host releases its own slot; one it does not own is refused. -/
def stateRelease (s : State) (k : Nat) : State :=
  if (stSlot s k).owner = 1 then stateResult (slotRelease s k) false else stateResult s true

/-- R289. -/
def execCodecStateClaim (slot : Fin 64) (s : State) : Res := done (if pageUp s (.codec 0) then stateClaim s slot.val else s)

/-- R289. -/
def execCodecStateRelease (slot : Fin 64) (s : State) : Res :=
  done (if pageUp s (.codec 0) then stateRelease s slot.val else s)

end Sys2Proof.Machine
end

