-- ==== Sys2Proof/Machine/Image.lean ====
section
/-!
DEFINITION. What every producer of surfaces shares: the choice of a buffer from a set, and the bytes and the opacity
summary of an image in a buffer's entry (R162, R164, R176, R266, R274, R468, R492).
-/
namespace Sys2Proof.Machine

/-! ## Buffers from a set (R468, R492) -/

/-- The older of two READY buffers. -/
def olderOf (s : State) (acc : Option Nat) (b : Nat) : Option Nat :=
  match acc with
  | none => some b
  | some a => if seqAfter (bufAt s a).seq (bufAt s b).seq then some b else acc

/-- The buffer a producer takes from `cnt` buffers from `first`: the first FREE one, else the READY one with no holder and
the oldest seq; none where no claim would be accepted. -/
def pickBuf (s : State) (first cnt : Nat) : Option Nat :=
  if !pageUp s .layr then none
  else
    let set := ((List.range cnt).map (fun k => first + k)).filter (fun b => decide (b < 16384) && decide (claimCode s b = 0))
    match set.find? (fun b => decide ((bufAt s b).st = 0)) with
    | some b => some b
    | none => set.foldl (olderOf s) none

/-! ## Images -/

/-- The writes of 8-row block row `byy` of an image with pixels `px`, in the storage of its entry: rows of a pitched copy, or
Bamler blocks encoded after edge fill. -/
def blockRow (d : Surf) (px : Nat → Nat → Pixel) (byy : Nat) : List (Nat × List Byte) :=
  if d.st = 0 then
    (List.range (min 8 (d.h - 8 * byy))).map (fun r =>
      (d.base + (8 * byy + r) * d.pitch,
       (List.range d.w).flatMap (fun x => leBytes (fmtBytes d.fmt) (pixelVal d.fmt (px x (8 * byy + r))))))
  else
    (List.range (ceilDiv d.w 8)).map (fun bx =>
      fixedWrite d.base d.pitch d.fmt d.st d.w (byy * ceilDiv d.w 8 + bx) (blockOf px d.w d.h bx byy))

/-- The writes of a whole image. -/
def imageWrites (d : Surf) (px : Nat → Nat → Pixel) : List (Nat × List Byte) :=
  (List.range (ceilDiv d.h 8)).flatMap (blockRow d px)

/-- A pixel's alpha is full. -/
def fullAlpha (fmt : Nat) (p : Pixel) : Bool :=
  match (fmtDepths fmt)[3]? with
  | some n => if fmt = 3 then decide (halfOf (p.getD 3 0) = .fin 1) else decide (p.getD 3 0 = 2 ^ n - 1)
  | none => true

/-- The opacity summary of an image (R176). -/
def imageSummary (d : Surf) (px : Nat → Nat → Pixel) : List (Nat × List Byte) :=
  if d.sumValid then
    [(d.sumBase, summaryBytes d.w d.h (fun c r => (List.range 256).all (fun i =>
      let x := 16 * c + i % 16
      let y := 16 * r + i / 16
      decide (d.w ≤ x) || decide (d.h ≤ y) || fullAlpha d.fmt (px x y))))]
  else []

/-- A summary whose every bit is set. -/
def fullSummary (d : Surf) : List (Nat × List Byte) :=
  if d.sumValid then [(d.sumBase, summaryBytes d.w d.h (fun _ _ => true))] else []

/-- A list of writes all reach HBM. -/
def writesOk (s : State) (l : List (Nat × List Byte)) : Bool := l.all (fun x => hbmOk s x.1 x.2.length)

end Sys2Proof.Machine
end

