-- ==== Sys2Proof/Machine/Camera.lean ====
section
/-!
DEFINITION. The camera pipelines: receiver, frames, taps, triggers, settings sets, statistics and lamp spots
(spec/18_camera_pipelines.md R503 to R524).
-/
namespace Sys2Proof.Machine

def camAt (s : State) (c : Nat) : Cam := mapGet (fun _ => Cam.initial) s.cam c
def setCam (s : State) (c : Nat) (v : Cam) : State := { s with cam := mapSet (fun _ => Cam.initial) s.cam c v }
def camPage (c : Nat) : Page := .cam (Fin.ofNat 4 c)
/-- A field of camera c in force. -/
def camF (s : State) (c off lo len : Nat) : Nat := forceF s (camPage c) off lo len

/-- The camera processes what it has begun: CAM is in RUN. It begins nothing more once it is on its way to IDLE (R45). -/
def camRuns (s : State) (c : Nat) : Bool := pageUp s (camPage c) && decide (islState s islCam = .run)

/-! ## Registers as a frame took them (R504) -/

/-- A field of a snapshot of the CAM page. -/
def cfF (rd : Nat → Word) (off lo len : Nat) : Nat := fld (rd off) lo len

/-- The reader of a frame's snapshot. -/
def cfRead (c : Nat) (v : CamFrame) (off : Nat) : Word := mapGet regDefault v.regs (regKey (camPage c) off 0)

/-- The snapshot of the page's values in force. -/
def camSnap (s : State) (c : Nat) : AMap Word := mapKeep (fun k => decide (k / 4096 = pageSlot (camPage c))) s.inForce

def cfW (rd : Nat → Word) : Nat := cfF rd Off.CAM_FR_SIZE 0 14 + 1
def cfH (rd : Nat → Word) : Nat := cfF rd Off.CAM_FR_SIZE 16 14 + 1
def cfX0 (rd : Nat → Word) : Nat := cfF rd Off.CAM_CROP_XY 0 14
def cfY0 (rd : Nat → Word) : Nat := cfF rd Off.CAM_CROP_XY 16 14
def cfWc (rd : Nat → Word) : Nat := cfF rd Off.CAM_CROP_WH 0 14 + 1
def cfHc (rd : Nat → Word) : Nat := cfF rd Off.CAM_CROP_WH 16 14 + 1
def cfB (rd : Nat → Word) : Nat := 2 ^ cfF rd Off.CAM_BIN 0 2
def cfWb (rd : Nat → Word) : Nat := cfWc rd / cfB rd
def cfHb (rd : Nat → Word) : Nat := cfHc rd / cfB rd
def cfCfa (rd : Nat → Word) : Bool := decide (cfF rd Off.CAM_CSI_CFG 12 1 = 1)

/-- The depth of a data type (R503). -/
def dtDepth (dt : Nat) : Option Nat := [8, 10, 12, 14, 16][dt - 0x2A]?.bind (fun n => if 0x2A ≤ dt then some n else none)

/-! ## Stages (R507, R508) -/

/-- The channel of sample (x, y) of the received frame. -/
def cfChan (rd : Nat → Word) (x y : Nat) : Nat := if cfCfa rd then y % 2 * 2 + x % 2 else 0

/-- Black and gain. -/
def cfGain (rd : Nat → Word) (h v : Nat) : Nat :=
  let w := rd (Off.CAM_BLACK_GAIN + 4 * h)
  (sat (halfEven (((v : Int) - fld w 0 16) * fld w 16 16) 4096) 0 65535).toNat

/-- An unpacked sample of the frame. -/
def cfSample (v : CamFrame) (x y : Nat) : Nat := (v.rows.reverse.getD y []).getD x 0

/-- A sample after black and gain. -/
def cfGained (rd : Nat → Word) (v : CamFrame) (x y : Nat) : Nat := cfGain rd (cfChan rd x y) (cfSample v x y)

/-- A binned sample. -/
def cfBinned (rd : Nat → Word) (v : CamFrame) (x y : Nat) : Nat :=
  let b := cfB rd
  let sum := ((List.range (b * b)).map (fun i => cfGained rd v (cfX0 rd + x * b + i % b) (cfY0 rd + y * b + i / b))).foldl (· + ·) 0
  (halfEven (sum : Nat) (b * b)).toNat

/-- A binned sample is clipped. -/
def cfClipped (rd : Nat → Word) (v : CamFrame) (x y : Nat) : Bool :=
  let b := cfB rd
  (List.range (b * b)).any (fun i => decide (cfF rd Off.CAM_CLIP 0 16 ≤ cfSample v (cfX0 rd + x * b + i % b) (cfY0 rd + y * b + i / b)))

/-- The channel of a binned sample: with a CFA, b is 1 (R523). -/
def cfBinChan (rd : Nat → Word) (x y : Nat) : Nat := cfChan rd (cfX0 rd + x) (cfY0 rd + y)

/-- Rows of the binned image that the lines processed complete. -/
def cfRows (rd : Nat → Word) (v : CamFrame) : Nat := min (cfHb rd) ((v.rows.length - cfY0 rd) / cfB rd)

/-! ## Taps (R509) -/

def cfPoint (rd : Nat → Word) : Nat := cfF rd Off.CAM_TAP_CFG 1 2

/-- The size of the tap point's image. -/
def tapSize (rd : Nat → Word) : Nat × Nat :=
  match cfPoint rd with
  | 0 | 1 => (cfW rd, cfH rd)
  | 2 => (cfWc rd, cfHc rd)
  | _ => (cfWb rd, cfHb rd)

/-- The tap image's row that line y of the frame completes, and its samples. -/
def tapRow (rd : Nat → Word) (v : CamFrame) (y : Nat) : Option (Nat × List Nat) :=
  let r := y - cfY0 rd
  let b := cfB rd
  match cfPoint rd with
  | 0 => some (y, (List.range (cfW rd)).map (fun x => cfSample v x y))
  | 1 => some (y, (List.range (cfW rd)).map (fun x => cfGained rd v x y))
  | 2 => if cfY0 rd ≤ y ∧ r < cfHc rd then some (r, (List.range (cfWc rd)).map (fun x => cfGained rd v (cfX0 rd + x) y)) else none
  | _ => if cfY0 rd ≤ y ∧ (r + 1) % b = 0 ∧ r / b < cfHb rd then
      some (r / b, (List.range (cfWb rd)).map (fun x => cfBinned rd v x (r / b))) else none

/-- The writes of a tap row: each sample to R, G and B alike. -/
def tapWrites (rd : Nat → Word) (v : CamFrame) (y : Nat) : List (Nat × List Byte) :=
  match v.tap, tapRow rd v y with
  | some (_, e), some (r, xs) =>
    let d := surfOf e
    [(d.base + r * d.pitch, xs.flatMap (fun k => leBytes 6 (k * (1 + 2 ^ 16 + 2 ^ 32))))]
  | _, _ => []

/-- A tapped frame claims its buffer at its Frame Start. -/
def tapClaim (s : State) (c : Nat) (rd : Nat → Word) (seq : Word) : State × Option (Nat × List Word) :=
  if cfF rd Off.CAM_TAP_CFG 0 1 = 0 ∨ seq.toNat % (cfF rd Off.CAM_TAP_CFG 4 4 + 1) ≠ 0 then (s, none)
  else match pickBuf s (cfF rd Off.CAM_TAP_CFG 8 14) (cfF rd Off.CAM_TAP_CFG 22 3 + 1) with
    | none => (raise s (camPage c) 16, none)
    | some b =>
      let s := claimFor s b ownCam c
      let d := surfOf (bufEntry s b)
      if d.fmt = 4 ∧ d.st = 0 ∧ (d.w, d.h) = tapSize rd then (s, some (b, bufEntry s b))
      else (raise (freeFor s b) (camPage c) 16, none)

/-! ## Triggers (R510, R511) -/

def trigMode (s : State) (c : Nat) : Nat := camF s c Off.CAM_TRIG_CFG 0 2

/-- R514: sets that targeted this trigger and completed within its guard time are late. -/
def setsLateAt (s : State) (c : Nat) (n : Word) (t : Nat) : State :=
  let guard_ := camF s c Off.CAM_I2C_CFG 16 16 * 1000 * 2 ^ 32
  raiseIf ((camAt s c).ended.any (fun e => e.ok && decide (e.target = n) && decide (t < e.ended + guard_))) (camPage c) 11 s

/-- A trigger emitted at `t` (2^-32 ns) is queued; a fifth discards the oldest. -/
def trigQueue (s : State) (c : Nat) (n : Word) (t : Nat) : State :=
  let v := camAt s c
  let q := v.queue ++ [(n, t)]
  let s := setCam s c { v with trigSeq := n, queue := q.drop (q.length - 4) }
  setsLateAt (raiseIf (decide (4 < q.length)) (camPage c) 7 s) c n t

/-- A pulse of phase k of frame f on CTRIGc, where R510 places one. -/
def camTrigger (s : State) (c k : Nat) (f : Word) : State :=
  let g := camF s c Off.CAM_TRIG_CFG 2 4
  let mode := trigMode s c
  let v := camAt s c
  match planOf (tgen s g) f with
  | none => s
  | some p =>
    let t0 : Rat := p.latch + (phaseOfs p k : Rat) + ((signed 32 (force s (camPage c) Off.CAM_TRIG_DLY).toNat : Int) : Rat)
    let t1 : Rat := t0 + (camF s c Off.CAM_TRIG_WID 0 24 : Rat)
    let gs := (tgen s g).gen
    let inRun := match v.seqRun with
      | some (t, n) => decide (0 < n) && decide ((mkRat t (2 ^ 32) : Rat) + 2000 ≤ t0)
      | none => false
    let clash := s.camPulses.any (fun x => decide (x.1 = c) && decide (t0 < x.2.2.1))
    if camRuns s c && islandRuns s islCam && (decide (mode = 1) || (decide (mode = 2) && inRun)) && (decide (gs = .run) || decide (gs = .slack))
       && decide (k < p.phases) && bitOf (force s (camPage c) Off.CAM_TRIG_CFG) (6 + k)
       && decide (f.toNat % (camF s c Off.CAM_TRIG_CFG 16 8 + 1) = 0) && !clash then
      let live := s.camPulses.filter (fun x => decide (nowNs s ≤ x.2.2.1))
      let s := { s with camPulses := (c, t0, t1, decide (camF s c Off.CAM_TRIG_CFG 10 1 = 0)) :: live }
      let s := match mode, v.seqRun with
        | 2, some (t, n) =>
          raiseIf (decide (n = 1)) (camPage c) 8 (setCam s c { v with seqRun := if n = 1 then none else some (t, n - 1) })
        | _, _ => s
      trigQueue s c (v.trigSeq + 1) (t0 * 2 ^ 32).floor.toNat
    else s

/-- R510. -/
def execCamTrigger (c : Fin 4) (k : Fin 4) (frame : Word) (s : State) : Res := done (camTrigger s c.val k.val frame)

/-- A start of a sequence run, by TRIG_CMD or by a slot (R116, R510). -/
def trigStart (s : State) (c : Nat) : State :=
  if camRuns s c && decide (trigMode s c = 2) then
    setCam s c { camAt s c with seqRun := some (s.time.now, camF s c Off.CAM_TRIG_COUNT 0 16) }
  else s

/-- A stop ends the run in progress. -/
def trigStop (s : State) (c : Nat) : State := setCam s c { camAt s c with seqRun := none }

def execTrigStart (c : Fin 4) (s : State) : Res := done (if pageUp s (.cam c) then trigStart s c.val else s)
def execTrigStop (c : Fin 4) (s : State) : Res := done (if pageUp s (.cam c) then trigStop s c.val else s)

/-- The level of CTRIGc at a time: that of the pulse that covers it, which is driven only while the group is in RUN or SLACK; else the
inactive level (R510, R520). -/
def camPin (s : State) (c : Nat) (t : Rat) : Bool :=
  let gs := (tgen s (camF s c Off.CAM_TRIG_CFG 2 4)).gen
  let rest := decide (camF s c Off.CAM_TRIG_CFG 10 1 = 1)
  if gs = .run ∨ gs = .slack then
    match s.camPulses.find? (fun x => decide (x.1 = c) && decide (x.2.1 ≤ t) && decide (t < x.2.2.1)) with
    | some x => x.2.2.2
    | none => rest
  else rest

/-! ## Which set governs a frame (R514) -/

/-- The ID that tags frame n whose trigger came at t, and its set_late and set_fail flags. -/
def setFor (s : State) (c : Nat) (n : Word) (t : Nat) : Nat × Bool × Bool :=
  let v := camAt s c
  let guard_ := camF s c Off.CAM_I2C_CFG 16 16 * 1000 * 2 ^ 32
  let fit := v.ended.filter (fun e => e.ok && frameGe n e.target && decide (e.ended + guard_ ≤ t))
  let best := fit.foldl (fun (acc : Option CamSetEnd) e => match acc with
    | none => some e
    | some a => if frameGe a.target e.target then some a else some e) none
  let during := v.ended.any (fun e => frameGe n e.target && decide (e.started ≤ t) && decide (t < e.ended))
    || (match v.writing with
      | some w => frameGe n w.target && decide (w.started ≤ t)
      | none => false)
  let last := v.ended.find? (fun e => decide (e.ended ≤ t))
  ((match best with
    | some e => e.id
    | none => 0), during, (match last with
    | some e => !e.ok
    | none => false))

/-! ## Frames (R504 to R506) -/

/-- RX_SIGNAL: RX_STAT.state is not 0 (R524). -/
def camLevel (s : State) (c : Nat) : State := setLevel s (camPage c) 17 ((camAt s c).signal || (camAt s c).frame.isSome)

/-- Sets a flag bit. -/
def orBit (f b : Nat) : Nat := if f.testBit b then f else f + 2 ^ b

/-- A frame is valid: closed without short, overflow, crc or badline. -/
def camValid (flags : Nat) : Bool := !(flags.testBit 1 || flags.testBit 3 || flags.testBit 4 || flags.testBit 5)

/-- The frame in progress closes; `short` where its lines are too few or its time is over. -/
def camClose (s : State) (c : Nat) (expired : Bool) : State :=
  let v := camAt s c
  match v.frame with
  | none => s
  | some f =>
    let s := camLevel (setCam s c { v with frame := none }) c
    if f.discard then s
    else
      let rd := cfRead c f
      let short := expired || decide (f.lines < cfH rd)
      let long := !short && f.flags.testBit 2
      let flags := if short then orBit f.flags 1 else f.flags
      let flags := if camValid flags then orBit flags 0 else flags
      let f := { f with flags := flags }
      let pg := camPage c
      let s := raise s pg (if short then 1 else if long then 2 else 0)
      let s := setReg s pg Off.CAM_FR_SEQ f.seq
      let s := setReg s pg Off.CAM_FR_FLAGS (BitVec.ofNat 32 flags)
      let s := setReg s pg Off.CAM_FR_SET (BitVec.ofNat 32 f.setId)
      let s := match f.tap with
        | some (b, _) =>
          if ownedBy s b ownCam c then (if camValid flags then producerReady s b f.seq else freeFor s b) else s
        | none => s
      let v := camAt s c
      let v := if cfF rd Off.CAM_STATS_CFG 0 1 = 1 then { v with statsQ := v.statsQ ++ [f] } else v
      let v := if cfF rd Off.CAM_SPOT_CFG 0 1 = 1 ∧ camValid flags = true then { v with spotQ := v.spotQ ++ [f] } else v
      setCam s c v

/-- The oldest queued trigger no older than MATCH_MAX, the triggers after it, and whether older ones were there (R511). -/
def trigTake (s : State) (c : Nat) : Option (Word × Nat) × List (Word × Nat) × Bool :=
  let lim := camF s c Off.CAM_MATCH_MAX 0 20 * 1000 * 2 ^ 32
  let q := (camAt s c).queue
  let ok := q.filter (fun x => decide (s.time.now - x.2 ≤ lim))
  (ok.head?, ok.drop 1, decide (ok.length < q.length))

/-- The frame in progress is of virtual channel `vc`. -/
def camOnVc (s : State) (c vc : Nat) : Bool :=
  match (camAt s c).frame with
  | some f => decide (cfF (cfRead c f) Off.CAM_CSI_CFG 2 2 = vc)
  | none => false

/-- A Frame Start of the selected virtual channel (R504, R511): it ends a frame in progress, and starts the next unless CAM is on its way
to IDLE (R45). -/
def camStart (s : State) (c vc : Nat) : State :=
  let mine := decide (camF s c Off.CAM_CSI_CFG 2 2 = vc)
  if camRuns s c = false ∨ (mine = false ∧ camOnVc s c vc = false) then s
  else if mine = false ∨ islandRuns s islCam = false then camClose s c false
  else
    let s := camClose s c false
    let s := camLevel (setCam s c { camAt s c with signal := true }) c
    let free := decide (trigMode s c = 0)
    let v := camAt s c
    let s := if free then setsLateAt (setCam s c { v with trigSeq := v.trigSeq + 1 }) c (v.trigSeq + 1) s.time.now else s
    let r : Option (Word × Nat) × List (Word × Nat) × Bool :=
      if free then (some (v.trigSeq + 1, s.time.now), v.queue, false) else trigTake s c
    let s := raiseIf r.2.2 (camPage c) 7 (setCam s c { camAt s c with queue := r.2.1 })
    let regs := camSnap s c
    let stamp := now16 s
    match r.1 with
    | none =>
      let s := raise s (camPage c) 6
      let f : CamFrame := ⟨true, 0, stamp, regs, 0, [], 0, 0, none⟩
      setCam s c { camAt s c with frame := some f }
    | some (n, t) =>
      let rd (off : Nat) : Word := mapGet regDefault regs (regKey (camPage c) off 0)
      let (id, late, fail) := setFor s c n t
      let (s, tap) := tapClaim s c rd n
      let flags := b2n late * 64 + b2n fail * 128 + b2n free * 256
      let f : CamFrame := ⟨false, n, stamp, regs, 0, [], flags, id, tap⟩
      setCam s c { camAt s c with frame := some f }

def execCsiFrameStart (c : Fin 4) (vc : Fin 4) (s : State) : Res := done (camStart s c.val vc.val)

/-- The frame overflows (R506). -/
def camOverflow (s : State) (c : Nat) (f : CamFrame) : State :=
  raise (setCam s c { camAt s c with frame := some { f with flags := orBit f.flags 3 } }) (camPage c) 5

/-- A long packet: its raw samples, whether its header was correctable and its CRC good, and whether the write path is full as
its samples enter it, where the tap has any enter (R503, R505, R506; log 46: a line that overflows writes nothing). -/
def camLine (s : State) (c vc dt : Nat) (raw : List Nat) (hdr crc full : Bool) : State :=
  match (camAt s c).frame with
  | none => s
  | some f =>
    let rd := cfRead c f
    if f.discard || !hdr || decide (cfF rd Off.CAM_CSI_CFG 2 2 ≠ vc) || decide (cfF rd Off.CAM_CSI_CFG 4 6 ≠ dt) then s
    else if cfH rd ≤ f.lines then setCam s c { camAt s c with frame := some { f with flags := orBit f.flags 2 } }
    else
      let n := (dtDepth dt).getD 16
      let w := cfW rd
      let few := decide (raw.length < w)
      let row := (List.range w).map (fun x => if crc then raw.getD x 0 % 2 ^ n * 2 ^ (16 - n) else 0)
      let flags := if crc then f.flags else orBit f.flags 4
      let flags := if few then orBit flags 5 else flags
      let s := raiseIf few (camPage c) 3 (raiseIf (!crc) (camPage c) 4 s)
      let isOver := flags.testBit 3
      let f := { f with lines := f.lines + 1, flags := flags, rows := if isOver then f.rows else row :: f.rows }
      let ws := tapWrites rd f (f.lines - 1)
      if isOver then setCam s c { camAt s c with frame := some f }
      else if full && !ws.isEmpty then camOverflow s c f
      else
        if writesOk s ws then setCam (hbmPut s ws) c { camAt s c with frame := some f } else camOverflow s c f

def execCsiLine (c : Fin 4) (vc : Fin 4) (dt : Fin 64) (raw : List (BitVec 16)) (hdr crc full : Bool) (s : State) : Res :=
  done (if camRuns s c.val then camLine s c.val vc.val dt.val (raw.map (fun x => x.toNat)) hdr crc full else s)

/-- R504, R505. -/
def execCsiFrameEnd (c : Fin 4) (vc : Fin 4) (s : State) : Res :=
  done (if camOnVc s c.val vc.val then camClose s c.val false else s)

/-- R505: FR_TMO has passed since the Frame Start. -/
def execCamFrameTimeout (c : Fin 4) (s : State) : Res := done (camClose s c.val true)

/-- R521: a read of FR_SEQ captures FR_FLAGS and FR_SET. -/
def frSeqRead (s : State) (c : Nat) : State :=
  let pg := camPage c
  let s := capture s pg Off.CAM_FR_FLAGS (reg s pg Off.CAM_FR_FLAGS).toNat
  let s := capture s pg Off.CAM_FR_SET (reg s pg Off.CAM_FR_SET).toNat
  { s with lastRead := reg s pg Off.CAM_FR_SEQ }

def execCamFrSeqRead (c : Fin 4) (s : State) : Res := done (if pageUp s (.cam c) then frSeqRead s c.val else s)

/-- R503, R522: the lanes' signal and ULPS change; RX_SIGNAL follows. -/
def execCsiLaneSignalChange (c : Fin 4) (signal ulps : Bool) (s : State) : Res :=
  done (if pageUp s (.cam c) then camLevel (setCam s c.val { camAt s c.val with signal := signal, ulps := ulps }) c.val else s)

/-! ## Statistics (R515, R516) -/

/-- What a histogram bin counts. -/
structure ZoneSum where
  sums : List Nat
  clips : List Nat
  n : Nat
deriving DecidableEq, Repr

/-- The histogram counts of the binned image, by channel * 256 + bin. -/
def camHist (rd : Nat → Word) (v : CamFrame) : AMap Nat :=
  (List.range (cfRows rd v * cfWb rd)).foldl (fun (m : AMap Nat) i =>
    let x := i % cfWb rd
    let y := i / cfWb rd
    let k := cfBinChan rd x y * 256 + cfBinned rd v x y / 256
    mapSet (fun _ => 0) m k (mapGet (fun _ => 0) m k + 1)) []

/-- The sums of zone (i, j). -/
def camZone (rd : Nat → Word) (v : CamFrame) (nx ny i j : Nat) : ZoneSum :=
  let wb := cfWb rd
  let hb := cfHb rd
  let xs := (List.range ((i + 1) * wb / nx - i * wb / nx)).map (fun a => i * wb / nx + a)
  let ys := ((List.range ((j + 1) * hb / ny - j * hb / ny)).map (fun b => j * hb / ny + b)).filter (fun y => decide (y < cfRows rd v))
  let px := ys.flatMap (fun y => xs.map (fun x => (x, y)))
  let of (h : Nat) : List (Nat × Nat) := px.filter (fun p => decide (cfBinChan rd p.1 p.2 = h))
  { sums := (List.range 4).map (fun h => ((of h).map (fun p => cfBinned rd v p.1 p.2)).foldl (· + ·) 0)
    clips := (List.range 4).map (fun h => ((of h).filter (fun p => cfClipped rd v p.1 p.2)).length)
    n := px.length }

/-- A zone's 64 bytes. -/
def zoneBytes (z : ZoneSum) : List Byte :=
  z.sums.flatMap (leBytes 8) ++ z.clips.flatMap (leBytes 4) ++ leBytes 4 z.n ++ List.replicate 12 0

/-- The stats block of a closed frame. -/
def statsBlock (rd : Nat → Word) (v : CamFrame) : List Byte :=
  let nx := cfF rd Off.CAM_STATS_CFG 8 5 + 1
  let ny := cfF rd Off.CAM_STATS_CFG 16 5 + 1
  let head := leBytes 4 v.seq.toNat ++ leBytes 4 v.setId ++ leBytes 4 v.flags ++ leBytes 4 (min v.lines 65535)
    ++ leBytes 4 (cfWb rd + cfHb rd * 65536) ++ leBytes 4 (stampNs v.stamp) ++ leBytes 4 (stampSec v.stamp)
  let hist := camHist rd v
  (head ++ List.replicate (256 - head.length) 0)
    ++ (List.range 1024).flatMap (fun k => leBytes 4 (mapGet (fun _ => 0) hist k))
    ++ (List.range 1024).flatMap (fun z =>
      if z % 32 < nx ∧ z / 32 < ny then zoneBytes (camZone rd v nx ny (z % 32) (z / 32)) else List.replicate 64 0)

/-- R515: the block of the oldest closed frame is written. -/
def statsWritten (s : State) (c : Nat) : State :=
  let v := camAt s c
  match v.statsQ with
  | [] => s
  | f :: rest =>
    let rd := cfRead c f
    let s := setCam s c { v with statsQ := rest }
    let base := (rd Off.CAM_STATS_LO).toNat + cfF rd Off.CAM_STATS_HI 0 3 * 2 ^ 32
    let a := base + f.seq.toNat % 2 ^ cfF rd Off.CAM_STATS_CFG 24 3 * 69888
    if hbmOk s a 69888 then raise (memPut s a (statsBlock rd f)) (camPage c) 13 else s

def execStatsWritten (c : Fin 4) (s : State) : Res := done (statsWritten s c.val)

/-! ## Lamp spots (R517 to R519) -/

/-- m16 of a record at (x, y), both u16.8, with radius r (R518). -/
def spotMeasure (rd : Nat → Word) (v : CamFrame) (r x y : Nat) : Nat :=
  let cx := x / 256
  let cy := y / 256
  let k := r + 1
  let side := 2 * k + 1
  if cx < k ∨ cy < k ∨ cfWb rd ≤ cx + k ∨ cfHb rd ≤ cy + k then 0
  else
    let cells := (List.range (side * side)).map (fun i => (i % side, i / side))
    let core := cells.filter (fun p => decide (1 ≤ p.1) && decide (p.1 < side - 1) && decide (1 ≤ p.2) && decide (p.2 < side - 1))
    let val (p : Nat × Nat) : Nat := cfBinned rd v (cx - k + p.1) (cy - k + p.2)
    let cs : Nat := (core.map val).foldl (· + ·) 0
    let all : Nat := (cells.map val).foldl (· + ·) 0
    let m : Rat := (cs : Rat) - ((2 * r + 1) ^ 2 : Nat) * mkRat (all - cs : Nat) (8 * (r + 1))
    if core.any (fun p => cfClipped rd v (cx - k + p.1) (cy - k + p.2)) ∨ m ≤ 0 then 0
    else (sat (ratHalfEven (m * (cfF rd Off.CAM_SPOT_CFG 16 16 : Nat) / 256)) 1 65535).toNat

/-- The measurement record of a spot record; the row of the record before it; whether one was out of order or reserved. -/
def spotRecord (rd : Nat → Word) (v : CamFrame) (acc : List Word × Nat × Bool) (w : List Word) : List Word × Nat × Bool :=
  let w0 := w.getD 0 0
  let row := fld (w.getD 2 0) 0 24 / 256
  let bad := outside w0 0x07FFFFFF || outside (w.getD 1 0) 0xFFFFFF || outside (w.getD 2 0) 0xFFFFFF || decide (fld w0 24 3 = 7)
    || decide (row < acc.2.1)
  let m := if bad then 0 else spotMeasure rd v (fld w0 24 3) (fld (w.getD 1 0) 0 24) (fld (w.getD 2 0) 0 24)
  let col := cfF rd Off.CAM_SPOT_CFG 4 2
  let rec_ : List Word := [BitVec.ofNat 32 (fld w0 0 24), BitVec.ofNat 32 (if col = 0 then m else if col = 1 then m * 65536 else 0)
    , BitVec.ofNat 32 (if col = 2 then m else 0)]
  (acc.1 ++ rec_, row, acc.2.2 || bad)

/-- Records of a spot list, at most 65,536 (R517; DESIGN CHOICE log 46: a larger SPOT_CNT counts as 65,536). -/
def spotCount (rd : Nat → Word) : Nat := min (cfF rd Off.CAM_SPOT_CNT 0 17) 65536

/-- R519: the measurement list of the oldest valid frame is written. -/
def spotsDone (s : State) (c : Nat) : State :=
  let v := camAt s c
  match v.spotQ with
  | [] => s
  | f :: rest =>
    let rd := cfRead c f
    let s := setCam s c { v with spotQ := rest }
    let a := (rd Off.CAM_SPOT_IN_LO).toNat + cfF rd Off.CAM_SPOT_IN_HI 0 3 * 2 ^ 32
    let o := (rd Off.CAM_SPOT_OUT_LO).toNat + cfF rd Off.CAM_SPOT_OUT_HI 0 3 * 2 ^ 32
    let n := spotCount rd
    let (st, _, s) := hbmRead s a (12 * n)
    if st ≠ .ok ∨ hbmOk s o (12 * n) = false then s
    else
      let recs := (List.range n).map (fun i => memWords s (a + 12 * i) 3)
      let r := recs.foldl (spotRecord rd f) ([], 0, false)
      raise (raiseIf r.2.2 (camPage c) 15 (memPut s o (bytesOfWords r.1))) (camPage c) 14

def execSpotListDone (c : Fin 4) (s : State) : Res := done (spotsDone s c.val)

/-! ## Settings sets (R512 to R514) -/

/-- SET_CMD.go: arms a set for its target trigger (R513). -/
def setArm (s : State) (c : Nat) (next : Bool) : State :=
  let v := camAt s c
  let pg := camPage c
  let t := if next then v.trigSeq + 1 else reg s pg Off.CAM_SET_TRIG
  let a := addrPair s pg Off.CAM_SET_ADDR_LO Off.CAM_SET_ADDR_HI
  raiseIf v.queued.isSome pg 12 (setCam s c { v with queued := some ⟨t, a, 0, [], 0, 0⟩ })

def execSetArm (c : Fin 4) (next : Bool) (s : State) : Res := done (if pageUp s (.cam c) then setArm s c.val next else s)

/-- An entry of R512 holds no reserved bit. -/
def setEntryOk (e : List Byte) : Bool :=
  let b0 := (e.getD 0 0).toNat
  let b1 := (e.getD 1 0).toNat
  decide (b0 < 128) && decide (b1 < 16) && decide (1 ≤ b1 / 2) && decide (b1 / 2 ≤ 4)

/-- The set as it is read from HBM: its ID, its entries, and its fail code. -/
def setRead (s : State) (w : CamSet) : CamSet × State :=
  let (st, h, s) := hbmRead s w.addr 8
  if st ≠ .ok then ({ w with bad := 4 }, s)
  else
    let n := (h.getD 2 0).toNat
    let (st, bs, s) := hbmRead s (w.addr + 8) (8 * n)
    if st ≠ .ok then ({ w with bad := 4 }, s)
    else
      let es := (List.range n).map (fun i => (bs.drop (8 * i)).take 8)
      let bad := decide (n = 0) || decide (leVal (h.drop 3) ≠ 0) || decide (w.addr % 8 ≠ 0) || es.any (fun e => !setEntryOk e)
      ({ w with id := leVal (h.take 2), todo := es, bad := if bad then 3 else 0 }, s)

/-- R513: the queued set's target is at most one trigger away, no set is being written, and CAM takes new work (R45). -/
def setStart (s : State) (c : Nat) : State :=
  let v := camAt s c
  match v.queued with
  | none => s
  | some w =>
    if v.writing.isSome ∨ islandRuns s islCam = false ∨ frameGe v.trigSeq (w.target - 1) = false then s
    else
      let (x, s) := setRead s w
      let bad := if hlpRun s 22 = false then 2 else x.bad
      setCam s c { camAt s c with queued := none, writing := some { x with started := s.time.now, bad := bad } }

def execSetWriteStart (c : Fin 4) (s : State) : Res := done (setStart s c.val)

/-- A set ends in the helper; CAM learns of it where its Weirs are open (R79, R520). -/
def setEnded (s : State) (c : Nat) (w : CamSet) (ok : Bool) : State :=
  let v := { camAt s c with writing := none }
  setCam s c (if islandUp s islCam then { v with ended := ⟨w.target, w.id, w.started, s.time.now, ok⟩ :: v.ended } else v)

/-- A set fails (R512); writes already made stay. -/
def setFailed (s : State) (c code : Nat) (w : CamSet) : State :=
  let s := setEnded s c w false
  raise (setCam s c { camAt s c with failCode := if islandUp s islCam then code else (camAt s c).failCode }) (camPage c) 10

/-- R512: one entry is written; `nack` where the camera does not acknowledge. A set that cannot be written fails here. -/
def i2cStep (s : State) (c : Nat) (nack : Bool) : State :=
  let v := camAt s c
  match v.writing with
  | none => s
  | some w =>
    if w.bad ≠ 0 then setFailed s c w.bad w
    else match w.todo with
      | [] => s
      | e :: rest =>
        if nack then setFailed s c 1 w
        else
          let b1 := (e.getD 1 0).toNat
          let x := ((e.getD 0 0).toNat, 1 + b1 % 2, leVal ((e.drop 2).take (1 + b1 % 2)), (e.drop 4).take (b1 / 2))
          setCam s c { v with writing := some { w with todo := rest }, i2c := x :: v.i2c }

def execI2cTransaction (c : Fin 4) (nack : Bool) (s : State) : Res := done (i2cStep s c.val nack)

/-- R512: the bus is held low for 10 ms. -/
def execI2cBusStuckTimeout (c : Fin 4) (s : State) : Res :=
  done (match (camAt s c.val).writing with
    | some w => setFailed s c.val 2 w
    | none => s)

/-- R512 to R514: every entry is written. -/
def setComplete (s : State) (c : Nat) : State :=
  let v := camAt s c
  match v.writing with
  | some w =>
    if w.bad ≠ 0 ∨ w.todo ≠ [] then s
    else
      let late := frameGe v.trigSeq w.target
      let s := setEnded s c w true
      let s := setCam s c { camAt s c with setId := if islandUp s islCam then w.id else v.setId }
      raiseIf late (camPage c) 11 (raise s (camPage c) 9)
  | none => s

def execSetComplete (c : Fin 4) (s : State) : Res := done (setComplete s c.val)

/-! ## Loss (R520) -/

/-- CAM leaves IDLE or RUN; a set being written completes. -/
def camLost (s : State) : State :=
  let s := (List.range 4).foldl (fun (t : State) c =>
    let v := camAt t c
    setCam t c { Cam.initial with writing := v.writing, i2c := v.i2c, signal := v.signal, ulps := v.ulps, ended := v.ended
                                  setId := v.setId, failCode := v.failCode }) s
  { s with camPulses := [] }

/-- What RESET and OFF also take of CAM; a set being written in the helper goes on (R41, R520). -/
def camWipe (s : State) : State :=
  (List.range 4).foldl (fun (t : State) c =>
    setCam t c { Cam.initial with writing := (camAt t c).writing, i2c := (camAt t c).i2c }) s

/-- The camera helper leaves RUN: the set being written fails with code 2, queued sets are lost. -/
def camHelperLost (s : State) : State :=
  (List.range 4).foldl (fun (t : State) c =>
    let t := setCam t c { camAt t c with queued := none }
    match (camAt t c).writing with
    | some w => setFailed t c 2 w
    | none => t) s

end Sys2Proof.Machine
end

