-- ==== Sys2Proof/Machine/Store.lean ====
section
/-!
DEFINITION. The scene store: drives, clips, streams and host requests (spec/16_host_and_scene_store.md R458 to R471, R476
to R479).
-/
namespace Sys2Proof.Machine

def setStore (s : State) (v : StoreUnit) : State := { s with store := v }
def drvAt (s : State) (d : Nat) : Drive := mapGet (fun _ => Drive.initial) s.store.drives d
def setDrv (s : State) (d : Nat) (v : Drive) : State :=
  setStore s { s.store with drives := mapSet (fun _ => Drive.initial) s.store.drives d v }
def cmdAt (s : State) (k : Nat) : Option NvmeCmd := mapGet (fun _ => none) s.store.cmds k
def setCmd (s : State) (k : Nat) (v : Option NvmeCmd) : State :=
  setStore s { s.store with cmds := mapSet (fun _ => none) s.store.cmds k v }
def strAt (s : State) (i : Nat) : Stream := mapGet (fun _ => Stream.initial) s.store.streams i
def setStr (s : State) (i : Nat) (v : Stream) : State :=
  setStore s { s.store with streams := mapSet (fun _ => Stream.initial) s.store.streams i v }

/-- A register of stream `i`. -/
def strReg (s : State) (i off : Nat) : Word := reg s .nvme (off + 64 * i)

/-- DRV_READY d (R479). -/
def drvLevel (s : State) (d : Nat) : State := setLevel s .nvme d (decide ((drvAt s d).st = 2))
def setDrvState (s : State) (d : Nat) (v : Drive) : State := drvLevel (setDrv s d v) d

/-- Drive d exists in the arrangement of lanes in force (R458). -/
def drvPresent (s : State) (d : Nat) : Bool := decide (d < 2) || decide (forceF s .nvme Off.NVME_RP_CFG 0 1 = 1)

/-! ## Clips (R463 to R465) -/

/-- A clip as a stream uses it. -/
structure Clip where
  mask : Nat
  stripe : Nat
  start : Nat
  len : Nat
deriving DecidableEq, Repr

/-- The drives of a mask, in ascending order. -/
def maskDrives (mask : Nat) : List Nat := (List.range 4).filter (fun d => mask.testBit d)

/-- CLIP_BASE is valid (R469, R476). -/
def clipBaseOk (s : State) : Bool :=
  let a := addrPair s .nvme Off.NVME_CLIP_BASE_LO Off.NVME_CLIP_BASE_HI
  bitOf (reg s .nvme Off.NVME_CLIP_BASE_HI) 31 && decide (a % 32 = 0)
  && decide (a + 32 * regF s .nvme Off.NVME_CLIP_CNT 0 13 ≤ hbmBytes s)

/-- Bytes of capacity used of a drive. -/
def drvBytes (v : Drive) : Nat := v.cap * 2 ^ v.lbaLog2

/-- Clip `k`, where it passes the check of R465. -/
def clipOf (s : State) (k : Nat) : Option Clip :=
  let a := addrPair s .nvme Off.NVME_CLIP_BASE_LO Off.NVME_CLIP_BASE_HI + 32 * k
  if !clipBaseOk s || decide (regF s .nvme Off.NVME_CLIP_CNT 0 13 ≤ k) || !hbmReadOk s a 32 then none
  else
    let w := memWords s a 8
    let w0 := w.getD 0 0
    let ds := maskDrives (fld w0 0 4)
    let c : Clip := { mask := fld w0 0 4, stripe := 2 ^ (16 + fld w0 4 3)
                      start := (w.getD 1 0).toNat + fld (w.getD 2 0) 0 12 * 2 ^ 32
                      len := (w.getD 3 0).toNat + fld (w.getD 4 0) 0 14 * 2 ^ 32 }
    let bad := outside w0 0x17F || outside (w.getD 2 0) 0xFFF || outside (w.getD 4 0) 0x3FFF
      || [5, 6, 7].any (fun i => decide (w.getD i 0 ≠ 0)) || !bitOf w0 8 || decide (fld w0 4 3 = 7) || ds.isEmpty
      || ds.any (fun d => decide ((drvAt s d).st ≠ 2)) || decide (c.start % 4096 ≠ 0) || decide (c.len = 0)
      || ds.any (fun d => decide (drvBytes (drvAt s d) < c.start + ceilDiv c.len (c.stripe * ds.length) * c.stripe))
    if bad then none else some c

/-- Where byte `b` of a clip lies: drive and drive byte (R464). -/
def clipPlace (c : Clip) (b : Nat) : Nat × Nat :=
  let ds := maskDrives c.mask
  let n := b / c.stripe
  (ds.getD (n % ds.length) 0, c.start + n / ds.length * c.stripe + b % c.stripe)

/-- The commands that move `len` clip bytes from `b` to `addr`: each within one stripe and one drive's largest transfer
(R459). -/
def clipCut (s : State) (c : Clip) : Nat → Nat → Nat → Nat → List (Nat × Nat × Nat × Nat)
  | 0, _, _, _ => []
  | n + 1, b, len, addr =>
    if len = 0 then []
    else
      let (d, db) := clipPlace c b
      let k := min len (min (c.stripe - b % c.stripe) (max 4096 (drvAt s d).most))
      (d, db, k, addr) :: clipCut s c n (b + k) (len - k) (addr + k)

/-! ## Commands and tags (R459, R462) -/

/-- The commands in flight on drive d. -/
def drvCmds (s : State) (d : Nat) : List (Nat × NvmeCmd) :=
  s.store.cmds.filterMap (fun e => if e.1 / 256 = d then e.2.map (fun c => (e.1, c)) else none)

/-- The lowest free tag of drive d. -/
def freeTag (s : State) (d : Nat) : Option Nat := (List.range 256).find? (fun t => (cmdAt s (d * 256 + t)).isNone)

/-- Sends one command of a list, if its drive is READY and tags remain: at most `most` of the drive's for its kind. -/
def sendCmd (s : State) (d : Nat) (room : Nat → Bool) (c : NvmeCmd) : Option State :=
  if (drvAt s d).st ≠ 2 ∨ room d = false then none
  else (freeTag s d).map (fun t => setCmd s (d * 256 + t) (some c))

/-- The blocks of a transfer. -/
def lbaOf (s : State) (d db : Nat) : Nat := db / 2 ^ (drvAt s d).lbaLog2
def lbaCount (s : State) (d n : Nat) : Nat := ceilDiv n (2 ^ (drvAt s d).lbaLog2)

/-! ## Streams (R466 to R469) -/

def strChunkBytes (v : Stream) : Nat := 2 ^ (16 + fld v.cfg 24 3)
def strDepth (v : Stream) : Nat := fld v.cfg 16 5
def strDecodes (v : Stream) : Bool := bitOf v.cfg 12
def strLoops (v : Stream) : Bool := bitOf v.cfg 13
def strClip (v : Stream) : Clip := ⟨v.mask, v.stripe, v.start, v.len⟩

/-- A slot of a stream holds an issued chunk, or a command of an earlier run is still out in it. -/
def strSlotBusy (s : State) (i : Nat) (v : Stream) (j : Nat) : Bool :=
  v.chunks.any (fun c => decide (c.slot = j)) || s.store.cmds.any (fun e => match e.2 with
    | some c => decide (c.who = i) && decide (c.slot = j)
    | none => false)

/-- Issues the next chunk into the next slot in rotation, where it is free (R466). -/
def strIssue (s : State) (i : Nat) : State :=
  let v := strAt s i
  match v.next with
  | none => s
  | some p =>
    let j := v.issued % max 1 (strDepth v)
    if v.st ≠ 1 ∨ strSlotBusy s i v j = true then s
    else
      let n := min (strChunkBytes v) (v.len - p)
      let e := p + n
      let nx := if e < v.len then some e else if strLoops v then some 0 else none
      let c : StrChunk := { pos := p, len := n, slot := j, out := 0, prom := false
                            todo := clipCut s (strClip v) (n / 4096 + 2) p n (v.stage + j * strChunkBytes v) }
      setStr s i { v with next := nx, issued := v.issued + 1, chunks := v.chunks ++ [c] }

/-- Streams together hold at most 192 tags of a drive (R462). -/
def strRoom (s : State) (d : Nat) : Bool := decide (((drvCmds s d).filter (fun c => decide (c.2.who < 32))).length < 192)

/-- Sends the commands of one chunk while tags remain. -/
def sendChunk (i run : Nat) : Nat → State → StrChunk → State × StrChunk
  | 0, s, c => (s, c)
  | n + 1, s, c =>
    match c.todo with
    | [] => (s, c)
    | (d, db, k, a) :: rest =>
      match sendCmd s d (strRoom s) { who := i, run := run, slot := c.slot, addr := a, bytes := k, write := false, flush := false
                                      lba := lbaOf s d db, blocks := lbaCount s d k } with
      | none => (s, c)
      | some t => sendChunk i run n t { c with todo := rest, out := c.out + 1 }

/-- Sends what a stream's chunks have to send, oldest first. -/
def strSend (s : State) (i : Nat) : State :=
  let v := strAt s i
  let r := v.chunks.foldl (fun (acc : State × List StrChunk) c =>
    let x := sendChunk i v.run c.todo.length acc.1 c
    (x.1, acc.2 ++ [x.2])) (s, [])
  setStr r.1 i { v with chunks := r.2 }

/-- The next pace tick of a decode stream (R462, R468). -/
def strTickTime (s : State) (v : Stream) : Option Rat :=
  let g := fld v.dec 18 4
  let t := tgen s g
  let k := fld v.dec 22 2 + 1
  let f := t.closed.toNat + 1
  (closeTime s g).map (fun c => c + t.period * (ceilDiv f k * k - f : Nat))

/-- Decode streams by their next tick, then raw streams (R462). -/
def strOrder (s : State) : List Nat :=
  let live := (s.store.streams.filter (fun e => decide (e.2.st = 1))).map (fun e => e.1)
  let dec := live.filter (fun i => strDecodes (strAt s i))
  let due (i : Nat) : Option Rat := strTickTime s (strAt s i)
  let before (a b : Nat) : Bool := match due a, due b with
    | some x, some y => decide (x ≤ y)
    | some _, none => true
    | none, some _ => false
    | none, none => true
  dec.mergeSort before ++ live.filter (fun i => !strDecodes (strAt s i))

/-- A host request keeps at most 64 commands in flight (R471). -/
def reqRoom (s : State) (d : Nat) : Bool := decide (((drvCmds s d).filter (fun c => decide (c.2.who = 32))).length < 64)

/-- Sends the commands of the host request while tags remain. -/
def sendReq : Nat → State → State
  | 0, s => s
  | n + 1, s =>
    match s.store.req with
    | none => s
    | some q =>
      match q.todo with
      | [] => s
      | (lba, blocks, k, a) :: rest =>
        match sendCmd s q.drive (reqRoom s) { who := 32, run := 0, slot := 0, addr := a, bytes := k, write := decide (q.op = 1)
                                              flush := decide (q.op = 2), lba := lba, blocks := blocks } with
        | none => s
        | some t => sendReq n (setStore t { t.store with req := some { q with todo := rest, out := q.out + 1 } })

/-- Sends the commands of the wear checkpoint while tags remain (R310, R462). -/
def sendCkpt : Nat → State → State
  | 0, s => s
  | n + 1, s =>
    match s.trim.ckpt with
    | none => s
    | some q =>
      match q.todo with
      | [] => s
      | (lba, blocks, k, o) :: rest =>
        match sendCmd s q.drive (fun _ => true) { who := 33, run := 0, slot := 0, addr := o, bytes := k, write := true, flush := false
                                                  lba := lba, blocks := blocks } with
        | none => s
        | some t => sendCkpt n (setTrim t { t.trim with ckpt := some { q with todo := rest, out := q.out + 1 } })

/-- The engine issues what it may: next chunks into free slots, then commands in the order of R462. -/
def storePump (s : State) : State :=
  if islandRuns s islHost = false ∨ hlpRun s 16 = false then s
  else
    let order := strOrder s
    let s := order.foldl (fun (t : State) i => (List.range 16).foldl (fun (u : State) _ => strIssue u i) t) s
    let s := order.foldl strSend s
    sendReq 64 (sendCkpt 256 s)

/-! ### Ends of a run (R467, R469) -/

/-- The codec's requester word of a stream's run. -/
def strReq (i : Nat) (v : Stream) : Nat := i + 64 * v.run

/-- Takes a requester's jobs out of every channel's queue. -/
def dropIntern (s : State) (req : Nat) : State :=
  (List.range 4).foldl (fun (t : State) c => setIntQueue t c ((intQueue t c).filter (fun x => decide (x.1 ≠ req)))) s

/-- A requester's job runs on some channel. -/
def internRuns (s : State) (req : Nat) : Bool :=
  s.codec.run.any (fun e => match e.2 with
    | some j => decide (j.intern.map (fun x => x.1) = some req)
    | none => false)

/-- Cancels the run of stream `i`: every chunk is dropped; a decode that has started still completes (R467, DESIGN CHOICE
log 24). -/
def strCancel (s : State) (i : Nat) : State :=
  let v := strAt s i
  let s := dropIntern s (strReq i v)
  let s := match v.buf with
    | some b => if internRuns s (strReq i v) then s else
        if ownedBy s b ownCodec (fld v.dec 16 2) then freeFor s b else s
    | none => s
  setStr s i { v with next := none, chunks := [], used := 0, buf := none, busy := false, owed := false, run := v.run + 1 }

/-- Cancels and gives up the codec state slot. -/
def strLeave (s : State) (i : Nat) : State :=
  let s := strCancel s i
  let v := strAt s i
  match v.slot with
  | some k => setStr (slotRelease s k) i { v with slot := none }
  | none => s

/-- A stream enters ERROR (R469). -/
def strError (s : State) (i code : Nat) : State :=
  let s := strLeave s i
  raise (setStr s i { strAt s i with st := 3, err := code }) .nvme 8

/-- A stream whose every chunk is consumed after its last promotion raises STR_END (R466). -/
def strEndCheck (s : State) (i : Nat) : State :=
  let v := strAt s i
  let v := if v.st = 1 ∧ v.next = none ∧ v.chunks.all (fun c => c.prom) = true then { v with st := 2 } else v
  if v.st = 2 ∧ v.chunks = [] ∧ v.ended = false then raise (setStr s i { v with ended := true }) .nvme 7 else setStr s i v

/-- The first free state slot, where MEDIA holds slots. -/
def freeSlot (s : State) : Option Nat :=
  if islandUp s islMedia then (List.range 64).find? (fun k => decide ((stSlot s k).owner = 0)) else none

/-- The clip of a start or seek, where R465 and R477 allow it. -/
def strClipFor (s : State) (i : Nat) : Option Clip :=
  let cfg := strReg s i Off.NVME_STR_CFG
  let stage := (strReg s i Off.NVME_STR_STAGE_LO).toNat + fld (strReg s i Off.NVME_STR_STAGE_HI) 0 3 * 2 ^ 32
  let depth := fld cfg 16 5
  let en := regF s .nvme Off.NVME_CTRL 0 4
  if depth < 2 ∨ 16 < depth ∨ fld cfg 24 3 = 7 ∨ stage % 65536 ≠ 0 ∨ hbmBytes s < stage + depth * 2 ^ (16 + fld cfg 24 3) then none
  else match clipOf s (fld cfg 0 12) with
    | some c => if (maskDrives c.mask).all (fun d => en.testBit d) then some c else none
    | none => none

/-- Starts a run at STR_SEEK (R466 to R468, R477). -/
def strBegin (s : State) (i : Nat) : State :=
  let s := strCancel s i
  if hlpRun s 16 = false then strError s i 1
  else match strClipFor s i with
  | none => strError s i 7
  | some c =>
    let v := strAt s i
    let cfg := strReg s i Off.NVME_STR_CFG
    let dec := bitOf cfg 12
    let s := if dec then s else strLeave s i
    let slot := if !dec then none else match v.slot with
      | some k => some k
      | none => freeSlot s
    if dec && slot.isNone then strError s i 6
    else
      let s := match slot with
        | some k => setStSlot s k ⟨2, StreamSt.empty⟩
        | none => s
      let v := strAt s i
      let ch := 2 ^ (16 + fld cfg 24 3)
      let at_ := (strReg s i Off.NVME_STR_SEEK_LO).toNat + fld (strReg s i Off.NVME_STR_SEEK_HI) 0 14 * 2 ^ 32
      let p0 := at_ / ch * ch
      let nx := if p0 < c.len then some p0 else if bitOf cfg 13 then some 0 else none
      let s := setStr s i { v with
        st := 1, err := 0, slot := slot, mask := c.mask, stripe := c.stripe, start := c.start, len := c.len, cfg := cfg
        stage := (strReg s i Off.NVME_STR_STAGE_LO).toNat + fld (strReg s i Off.NVME_STR_STAGE_HI) 0 3 * 2 ^ 32
        dec := strReg s i Off.NVME_STR_DEC, next := nx, issued := 0, proms := 0, ended := false, used := at_ - p0 }
      storePump (strEndCheck s i)

/-- A command to a stream is taken while the HOST island runs. -/
def storeUp (s : State) : Bool := pageUp s .nvme && islandRuns s islHost

/-- STR_CMD.start: one of a stream that runs is discarded (DESIGN CHOICE log 24). -/
def strStart (s : State) (i : Nat) : State := if (strAt s i).st = 1 then s else strBegin s i

/-- STR_CMD.stop. -/
def strStop (s : State) (i : Nat) : State :=
  let s := strLeave s i
  storePump (setStr s i { strAt s i with st := 0 })

/-- R466. -/
def execStrStart (i : Fin 32) (s : State) : Res := done (if storeUp s then strStart s i.val else s)

/-- R467. -/
def execStrStop (i : Fin 32) (s : State) : Res := done (if pageUp s .nvme then strStop s i.val else s)

/-- R467: STR_CMD.seek. -/
def execStrSeek (i : Fin 32) (s : State) : Res := done (if storeUp s then strBegin s i.val else s)

/-- R466: STR_CMD.consume releases the oldest promoted chunk of a raw stream. -/
def strConsume (s : State) (i : Nat) : State :=
  let v := strAt s i
  match v.chunks with
  | c :: rest =>
    if c.prom && !strDecodes v then storePump (strEndCheck (setStr s i { v with chunks := rest }) i) else s
  | [] => s

def execStrConsume (i : Fin 32) (s : State) : Res := done (if pageUp s .nvme then strConsume s i.val else s)

/-! ### Decoding (R468) -/

/-- The frame in progress goes on: a job on the oldest chunk, where it is promoted. -/
def strGo (s : State) (i : Nat) : State :=
  let v := strAt s i
  match v.buf, v.slot, v.chunks with
  | some b, some k, c :: _ =>
    if v.busy ∨ c.prom = false then s
    else
      let s := intPush s (fld v.dec 16 2) (strReq i v) k (v.stage + c.slot * strChunkBytes v + v.used) (c.len - v.used) b
      setStr s i { v with busy := true }
  | _, _, _ => s

/-- A frame starts: its buffer is claimed, or the tick is owed. -/
def strFrame (s : State) (i : Nat) (late : Bool) : State :=
  let v := strAt s i
  match pickBuf s (fld v.dec 0 14) (fld v.dec 14 2 + 1) with
  | some b => strGo (setStr (claimFor s b ownCodec (fld v.dec 16 2)) i { v with buf := some b, owed := false }) i
  | none => raiseIf late .nvme 9 (setStr s i { v with owed := true })

/-- An owed tick is made good as soon as the frame before it is done and a buffer can be claimed. -/
def strOwed (s : State) (i : Nat) : State :=
  let v := strAt s i
  if v.owed && v.buf.isNone && !v.busy then strFrame s i false else s

/-- The owed ticks of every stream. -/
def storeOwed (s : State) : State :=
  s.store.streams.foldl (fun (t : State) (e : Nat × Stream) => if e.2.owed then strOwed t e.1 else t) s

/-- A stream still has frames to give. -/
def strActive (v : Stream) : Bool := strDecodes v && (decide (v.st = 1) || (decide (v.st = 2) && (!v.chunks.isEmpty || v.buf.isSome)))

/-- A pace tick. -/
def strTick (s : State) (i : Nat) : State :=
  let v := strAt s i
  let s := if v.buf.isSome ∨ v.busy ∨ v.owed then raise (setStr s i { v with owed := true }) .nvme 9 else strFrame s i true
  let w := strAt s i
  raiseIf (w.buf.isSome && !w.busy) .nvme 10 s

/-- The commit close of frame F of group g is a pace tick of the streams it paces (R468). -/
def storeClose (s : State) (g : Nat) (f : Word) : State :=
  s.store.streams.foldl (fun (t : State) (e : Nat × Stream) =>
    if strActive e.2 && decide (fld e.2.dec 18 4 = g) && decide (f.toNat % (fld e.2.dec 22 2 + 1) = 0) then strTick t e.1 else t) s

/-- Chunks whose bytes the decode position has passed are consumed. -/
def strPass : Nat → List StrChunk → List StrChunk × Nat
  | used, c :: rest => if c.prom ∧ c.len ≤ used then strPass (used - c.len) rest else (c :: rest, used)
  | used, [] => ([], used)

/-- A stream's internal job has ended with `status`, `n` bytes taken and frame `seq` (R468, R469). -/
def strJobEnd (s : State) (req status n : Nat) (seq : Word) : State :=
  let i := req % 64
  let v := strAt s i
  if strReq i v ≠ req then s
  else if status ≠ 0 ∧ status ≠ 10 then storePump (strError s i 5)
  else
    let r := strPass (v.used + n) v.chunks
    let v := { v with chunks := r.1, used := r.2, busy := false }
    let s := if status = 0 then strOwed (setStr s i { v with buf := none, frame := seq }) i else strGo (setStr s i v) i
    storePump (strEndCheck s i)

/-! ### Completions (R461, R466, R471) -/

/-- Promotes every chunk that may be (R466). -/
def strPromote (i : Nat) : Nat → State → State
  | 0, s => s
  | n + 1, s =>
    let v := strAt s i
    match v.chunks.find? (fun c => !c.prom) with
    | some c =>
      if c.todo = [] ∧ c.out = 0 then
        let v := { v with proms := v.proms + 1, pos := c.pos + c.len
                          chunks := v.chunks.map (fun x => if x.slot = c.slot then { x with prom := true } else x) }
        let s := setStr s i v
        strPromote i n (if strDecodes v then strGo s i else raise s .nvme 6)
      else s
    | none => s

/-- A stream's command has completed. -/
def strCmdEnd (s : State) (c : NvmeCmd) (field : Nat) (stored : Bool) : State :=
  let i := c.who
  let v := strAt s i
  if v.run ≠ c.run ∨ v.st ≠ 1 then s
  else if field ≠ 0 then strError s i 2
  else if !stored then strError s i 4
  else
    let s := setStr s i { v with chunks := v.chunks.map (fun x => if x.slot = c.slot then { x with out := x.out - 1 } else x) }
    strEndCheck (strPromote i 16 s) i

/-- A command of the host request has ended with a status of R471; a failure ends the rest. -/
def reqCmdEnd (s : State) (status field : Nat) : State :=
  match s.store.req with
  | none => s
  | some q =>
    let q := { q with out := q.out - 1 }
    let q := if status ≠ 0 ∧ q.status = 0 then { q with status := status, field := field, todo := [] } else q
    setStore s { s.store with req := some q }

/-- A command of the wear checkpoint has ended; a failure ends the rest (R310). -/
def ckptCmdEnd (s : State) (ok : Bool) : State :=
  match s.trim.ckpt with
  | none => s
  | some q => setTrim s { s.trim with ckpt := some { q with out := q.out - 1, bad := q.bad || !ok, todo := if ok then q.todo else [] } }

/-- A command fails: a stream's run with error `sc`, the host request with status `rc`, the checkpoint as a whole. -/
def cmdFail (s : State) (c : NvmeCmd) (sc rc field : Nat) : State :=
  if c.who < 32 then (if (strAt s c.who).run = c.run ∧ (strAt s c.who).st = 1 then strError s c.who sc else s)
  else if c.who = 32 then reqCmdEnd s rc field
  else ckptCmdEnd s false

/-- The bytes of a checkpoint image from offset `o` (R310): the header's 4 KiB, the accumulators, and zeros to the end of a block. -/
def ckptData (s : State) (hdr : List Word) (o n : Nat) : List Byte :=
  let h := ((bytesOfWords hdr ++ List.replicate (4096 - 4 * hdr.length) 0).drop o).take n
  let a := max o 4096 - 4096
  let acc := memBytes s (waccAt s 0 + a) (min (n - h.length) (12 * (hdr.getD 1 0).toNat - a))
  h ++ acc ++ List.replicate (n - h.length - acc.length) 0

/-- The accumulators that bytes `o` to `o + n` of an image take can be read. -/
def ckptReadOk (s : State) (hdr : List Word) (o n : Nat) : Bool :=
  let a := max o 4096 - 4096
  let k := min (o + n - max o 4096) (12 * (hdr.getD 1 0).toNat - a)
  decide (k = 0) || hbmReadOk s (waccAt s 0 + a) k

/-- A block of the drive is written. -/
def drvWrite (s : State) (d lba : Nat) (bs : List Byte) : State := setStore s { s.store with written := (d, lba, bs) :: s.store.written }

/-- A Write of the checkpoint completes (R310). -/
def ckptWrite (s : State) (d : Nat) (c : NvmeCmd) : State :=
  match s.trim.ckpt with
  | none => s
  | some q =>
    if ckptReadOk s q.hdr c.addr c.bytes then ckptCmdEnd (drvWrite s d c.lba (ckptData s q.hdr c.addr c.bytes)) true else ckptCmdEnd s false

/-- R461: a command completes; `data` is what a Read moved to HBM. -/
def nvmeCompletion (s : State) (d tag field : Nat) (data : List Byte) : State :=
  match cmdAt s (d * 256 + tag) with
  | none => s
  | some c =>
    let s := setCmd s (d * 256 + tag) none
    let bs := data.take (c.blocks * 2 ^ (drvAt s d).lbaLog2)
    let reads := !c.write && !c.flush && decide (field = 0)
    let stored := !reads || hbmOk s c.addr bs.length
    let s := if reads then hbmPut s [(c.addr, bs)] else s
    storePump (if c.who < 32 then strCmdEnd s c field stored
      else if field ≠ 0 then cmdFail s c 2 3 field
      else if c.who = 33 then ckptWrite s d c
      else if c.write then
        let r := hbmRead s c.addr c.bytes
        if r.1 = .ok then reqCmdEnd (drvWrite r.2.2 d c.lba r.2.1) 0 0
        else reqCmdEnd r.2.2 5 0
      else reqCmdEnd s (if stored then 0 else 5) 0)

def execNvmeCompletion (d : Fin 4) (tag : Fin 256) (field : BitVec 15) (data : List Byte) (s : State) : Res :=
  done (nvmeCompletion s d.val tag.val field.toNat data)

/-! ## Drives (R460, R461) -/

/-- Every command in flight on drive d ends with an error: streams with code `sc`, the host request with `rc`. -/
def endCmds (s : State) (d sc rc field : Nat) : State :=
  (drvCmds s d).foldl (fun (t : State) (x : Nat × NvmeCmd) => cmdFail (setCmd t x.1 none) x.2 sc rc field) s

/-- What is left of a checkpoint on drive d fails (R310). -/
def ckptGone (s : State) (d : Nat) : State :=
  match s.trim.ckpt with
  | some q => if q.drive = d ∧ q.todo ≠ [] then setTrim s { s.trim with ckpt := some { q with bad := true, todo := [] } } else s
  | none => s

/-- Drive d has left READY: the streams on it enter ERROR, and a request or a checkpoint on it ends (R310, R469, R471). -/
def drvGone (s : State) (d : Nat) : State :=
  let s := ckptGone s d
  let s := s.store.streams.foldl (fun (t : State) (e : Nat × Stream) =>
    if (strAt t e.1).st = 1 ∧ e.2.mask.testBit d = true then strError t e.1 1 else t) s
  match s.store.req with
  | some q => if q.drive = d ∧ q.status = 0 ∧ q.todo ≠ [] then setStore s { s.store with req := some { q with status := 2, todo := [] } } else s
  | none => s

/-- Drive d becomes ABSENT. -/
def drvAbsent (s : State) (d : Nat) : State :=
  storePump (drvGone (endCmds (setDrvState s d Drive.initial) d 1 2 0) d)

/-- The scene store is in use: drive_en and RP_CFG are fixed (R477). -/
def storeBusy (s : State) : Bool := s.store.streams.any (fun e => decide (e.2.st = 1)) || s.store.req.isSome

/-- A write of NVME.CTRL: a cleared bit makes its drive ABSENT (R460, R477). RPERSTd_N is released while drive d is enabled
(DESIGN CHOICE, log 24). -/
def driveEnable (s : State) (v : Word) : State :=
  if storeBusy s then s
  else
    let s := writePlain s .nvme Off.NVME_CTRL v
    let s := setStore s { s.store with rperst := (List.range 4).filter (fun d => !bitOf v d) }
    (List.range 4).foldl (fun (t : State) d => if bitOf v d then t else drvAbsent t d) s

/-- R460. -/
def execDriveEnableWrite (v : Word) (s : State) : Res := done (if pageUp s .nvme then driveEnable s v else s)

/-- The port's link trains: ABSENT to INIT (R460). -/
def execDriveLinkUp (d : Fin 4) (speed : Fin 6) (width : Fin 5) (s : State) : Res :=
  done (if islandUp s islHost && hlpRun s 16 && bitOf (reg s .nvme Off.NVME_CTRL) d.val && drvPresent s d.val && decide ((drvAt s d.val).st = 0)
      && !s.store.rperst.contains d.val then
      setDrvState s d.val { Drive.initial with st := 1, speed := speed.val, width := width.val }
    else s)

/-- R460. -/
def execDriveLinkDown (d : Fin 4) (s : State) : Res :=
  done (if (drvAt s d.val).st = 0 then s else drvAbsent s d.val)

/-- Initialisation ends: the drive's logical block size, namespace size, MDTS (pages of 4 KiB as a power of two, 0 for no
limit) and MQES, where no admin command failed (R459, R460). -/
def driveInit (s : State) (d : Nat) (ok : Bool) (lbaLog2 blocks mdts mqes : Nat) : State :=
  let v := drvAt s d
  if v.st ≠ 1 then s
  else if ok && (decide (lbaLog2 = 9) || decide (lbaLog2 = 12)) && decide (256 ≤ mqes) then
    setDrvState s d { v with st := 2, lbaLog2 := lbaLog2, cap := min blocks (2 ^ (44 - lbaLog2))
                             most := if mdts = 0 then 2 ^ 19 else min (2 ^ (12 + mdts)) (2 ^ 19) }
  else raise (setDrvState s d { v with st := 3 }) .nvme 4

def execDriveInitDone (d : Fin 4) (ok : Bool) (lbaLog2 : Fin 64) (blocks : BitVec 64) (mdts : Fin 256) (mqes : BitVec 16)
    (s : State) : Res := done (driveInit s d.val ok lbaLog2.val blocks.toNat mdts.val mqes.toNat)

/-- R461: a command is not completed in time; its drive's controller is reset. A second reset within 10 s ends in FAILED. -/
def nvmeTimeout (s : State) (d tag : Nat) : State :=
  match cmdAt s (d * 256 + tag) with
  | none => s
  | some c =>
    let s := raise (setCmd s (d * 256 + tag) none) .nvme 5
    let s := cmdFail s c 3 4 0
    let (n, s) := draw s
    let v := drvAt s d
    let again := match v.lastReset with
      | some t => decide (s.time.now - t ≤ 10 * baseSec)
      | none => false
    let s := setDrvState s d { v with st := if again then 3 else 1, lastReset := some s.time.now }
    let s := raiseIf again .nvme 4 s
    storePump (drvGone (endCmds s d 2 3 (Config.freeNat n % 2 ^ 15)) d)

def execNvmeCmdTimeout (d : Fin 4) (tag : Fin 256) (s : State) : Res := done (nvmeTimeout s d.val tag.val)

/-! ## Host requests (R471) -/

/-- The commands of a request of `n` blocks from `lba`: (first block, blocks, bytes, HBM address). -/
def reqCut (size most : Nat) : Nat → Nat → Nat → Nat → List (Nat × Nat × Nat × Nat)
  | 0, _, _, _ => []
  | f + 1, lba, n, a =>
    if n = 0 then []
    else
      let k := min n (max 1 (most / size))
      (lba, k, k * size, a) :: reqCut size most f (lba + k) (n - k) (a + k * size)

/-- REQ_CMD.go. A request that is refused ends at once with its status; one while a request runs is discarded (DESIGN CHOICE
log 24). -/
def reqStart (s : State) (op d : Nat) : State :=
  if s.store.req.isSome then s
  else
    let v := drvAt s d
    let lba := (reg s .nvme Off.NVME_REQ_LBA_LO).toNat + regF s .nvme Off.NVME_REQ_LBA_HI 0 16 * 2 ^ 32
    let n := regF s .nvme Off.NVME_REQ_CNT 0 16
    let a := addrPair s .nvme Off.NVME_REQ_HBM_LO Off.NVME_REQ_HBM_HI
    let size := 2 ^ v.lbaLog2
    let status :=
      if op = 3 ∨ (op < 2 ∧ n = 0) then 1
      else if v.st ≠ 2 then 2
      else if op < 2 ∧ (v.cap < lba + n ∨ hbmBytes s < a + n * size ∨ a % 4 ≠ 0) then 1
      else 0
    let todo := if status ≠ 0 then [] else if op = 2 then [(0, 0, 0, 0)] else reqCut size v.most (n + 1) lba n a
    storePump (setStore s { s.store with req := some { op := op, drive := d, todo := todo, out := 0, status := status, field := 0 } })

/-- R471. -/
def execNvmeReqRead (d : Fin 4) (s : State) : Res := done (if storeUp s then reqStart s 0 d.val else s)
/-- R471. -/
def execNvmeReqWrite (d : Fin 4) (s : State) : Res := done (if storeUp s then reqStart s 1 d.val else s)
/-- R471. -/
def execNvmeReqFlush (d : Fin 4) (s : State) : Res := done (if storeUp s then reqStart s 2 d.val else s)

/-- R471: every command of the request has ended. -/
def execNvmeReqDone (s : State) : Res :=
  done (match s.store.req with
    | some q =>
      if q.todo = [] ∧ q.out = 0 then
        raise (setStore s { s.store with req := none, reqStatus := q.status, reqField := q.field }) .nvme 11
      else s
    | none => s)

/-! ## Leaving RUN (R449) -/

/-- HOST leaves RUN: every stream stops, every command is abandoned, every drive is gone. -/
def storeLost (s : State) : State :=
  let s := s.store.streams.foldl (fun (t : State) (e : Nat × Stream) => strLeave t e.1) s
  let runs := s.store.streams
  let s := setStore s { StoreUnit.initial with written := s.store.written }
  let s := runs.foldl (fun (t : State) (e : Nat × Stream) => setStr t e.1 { Stream.initial with run := e.2.run }) s
  (List.range 4).foldl drvLevel s

/-- The scene-store engine leaves RUN: drives read ABSENT, streams enter ERROR with code 1, a request ends with status 2
(R551). -/
def storeHelperLost (s : State) : State :=
  let s := s.store.streams.foldl (fun (t : State) (e : Nat × Stream) => if e.2.st = 1 then strError t e.1 1 else t) s
  let s := setStore s { s.store with drives := [], cmds := [], req := s.store.req.map (fun q => { q with todo := [], out := 0, status := 2 }) }
  (List.range 4).foldl drvLevel s

/-- MEDIA leaves IDLE or RUN: a decode in progress is lost with its slot (R290, R469; DESIGN CHOICE log 24). -/
def storeMediaLost (s : State) : State :=
  s.store.streams.foldl (fun (t : State) (e : Nat × Stream) =>
    if e.2.buf.isSome ∨ e.2.busy then strError t e.1 5 else setStr t e.1 { e.2 with slot := none }) s

end Sys2Proof.Machine
end

