-- ==== Sys2Proof/Machine/Net.lean ====
section
/-!
DEFINITION. The network ports and the video flows (spec/17_network_ingest.md R480 to R502). Frame, IP, UDP, RTP and ST 2110-20
packet layouts are those of their own standards (log 26).
-/
namespace Sys2Proof.Machine

def setNet (s : State) (v : NetUnit) : State := { s with net := v }
def netPage (n : Nat) : Page := .net (Fin.ofNat 16 n)
def portAt (s : State) (n : Nat) : NetPort := mapGet (fun _ => NetPort.initial) s.net.ports n
def setPort (s : State) (n : Nat) (v : NetPort) : State :=
  setNet s { s.net with ports := mapSet (fun _ => NetPort.initial) s.net.ports n v }
def flowAt (s : State) (f : Nat) : Flow := mapGet (fun _ => Flow.initial) s.net.flows f
def setFlow (s : State) (f : Nat) (v : Flow) : State :=
  setNet s { s.net with flows := mapSet (fun _ => Flow.initial) s.net.flows f v }

/-- The twelve settings of flow `f` in force, FL_CFG to FL_STAGE_HI. -/
def flowForce (s : State) (f : Nat) : List Word := (List.range 12).map (fun i => force s .flow (Off.FLOW_FL_CFG + 64 * f + 4 * i))

/-- A setting that flow `f` works by: a start takes what is in force, and a flow that is not STOPPED keeps it (R485, R486). -/
def flF (s : State) (f off lo len : Nat) : Nat :=
  fld (((if (flowAt s f).st = 0 then flowForce s f else (flowAt s f).cfg)[(off - Off.FLOW_FL_CFG) / 4]?).getD 0) lo len

/-- The bits of setting `i` that a commit may change on a flow that is not STOPPED: policy and frame_tmo, payload type, the legs
(R486). -/
def flowFree (i : Nat) : Word := ([0xFFFF0800, 0, 0xFF00, 0, 0xFFFFFFFF, 0xFFFFFFFF, 0xFFFFFFFF, 0xFFFFFFFF, 0xFFFFFFFF, 0xFFFFFFFF][i]?).getD 0

/-! ## Ports (R480 to R484) -/

/-- The link of a port changes: LINK_UP follows, and LINK_CHANGE is raised (R500). -/
def portLink (s : State) (n : Nat) (v : NetPort) : State :=
  let ch := decide ((portAt s n).link ≠ v.link)
  raiseIf ch (netPage n) 1 (setLevel (setPort s n v) (netPage n) 0 v.link)

/-- A link comes up only on an enabled port. -/
def execNetLinkChange (n : Fin 16) (up align anDone : Bool) (fec : Fin 3) (s : State) : Res :=
  done (if pageUp s (.net n) = false then s
    else if up && decide (forceF s (.net n) Off.NET_PORT_CFG 0 1 = 0) then s
    else portLink s n.val ⟨up, align, anDone, fec.val⟩)

/-- A commit has changed PORT_CFG from `old`: a change of fec or an_en takes a link that is up down (R484); a port turned off
has no link. -/
def netApply (s : State) (n : Nat) (old : Word) : State :=
  let new := force s (netPage n) Off.NET_PORT_CFG
  if (portAt s n).link ∧ (fld old 1 3 ≠ fld new 1 3 ∨ bitOf new 0 = false) then
    portLink s n { portAt s n with link := false, align := false, anDone := false }
  else s

/-- R104: TX and RX corrections of a port mode and FEC, tenths of a nanosecond. -/
def ptpFigure (mode4 : Bool) (fec : Nat) : Nat × Nat :=
  if mode4 then (if fec = 0 then (248, 412) else (384, 1126))
  else if fec = 0 then (310, 465) else if fec = 1 then (440, 1786) else (522, 2364)

/-- The receive stamp of port n now, 2^-16 ns (R483). -/
def rxStamp (s : State) (n : Nat) : Int :=
  (now16 s : Int) - halfEven ((ptpFigure s.netMode4 (portAt s n).fec).2 * 2 ^ 16 : Nat) 10
    - signed 24 (forceF s (netPage n) Off.NET_PTP_LAT_RX 0 24) * 256

/-- The transmit stamp of port n now, 2^-16 ns (R483). -/
def txStamp (s : State) (n : Nat) : Int :=
  (now16 s : Int) + halfEven ((ptpFigure s.netMode4 (portAt s n).fec).1 * 2 ^ 16 : Nat) 10
    + signed 24 (forceF s (netPage n) Off.NET_PTP_LAT_TX 0 24) * 256

/-! ## Packets -/

/-- A big-endian value of `n` bytes from `o`. -/
def beVal (bs : List Byte) (o n : Nat) : Nat := ((bs.drop o).take n).foldl (fun a b => a * 256 + b.toNat) 0

/-- A received frame's headers: destination MAC, VLAN, Ethertype, and the rest. -/
structure EthFrame where
  dst : Nat
  vlan : Option Nat
  ethertype : Nat
  body : List Byte
deriving DecidableEq, Repr

/-- Reads an Ethernet frame, its FCS taken off. -/
def ethOf (bs : List Byte) : EthFrame :=
  let b := bs.take (bs.length - 4)
  if beVal b 12 2 = 0x8100 then ⟨beVal b 0 6, some (beVal b 14 2 % 4096), beVal b 16 2, b.drop 18⟩
  else ⟨beVal b 0 6, none, beVal b 12 2, b.drop 14⟩

/-- An IPv4 UDP datagram. -/
structure UdpPkt where
  src : Nat
  dst : Nat
  port : Nat
  payload : List Byte
deriving DecidableEq, Repr

/-- IPv4's protocol field; 0 for a frame that is not IPv4. -/
def ipProto (e : EthFrame) : Nat := if e.ethertype = 0x0800 then beVal e.body 9 1 else 0

/-- Reads UDP over IPv4. -/
def udpOf (e : EthFrame) : Option UdpPkt :=
  if e.ethertype ≠ 0x0800 ∨ ipProto e ≠ 17 ∨ beVal e.body 6 2 % 2 ^ 14 % 2 ^ 13 ≠ 0 then none
  else
    let u := (e.body.take (beVal e.body 2 2)).drop (beVal e.body 0 1 % 16 * 4)
    some ⟨beVal e.body 12 4, beVal e.body 16 4, beVal u 2 2, (u.take (beVal u 4 2)).drop 8⟩

/-- UDP's destination port over IPv4 or IPv6, 0 for none. -/
def udpPort (e : EthFrame) : Nat :=
  if e.ethertype = 0x86DD ∧ beVal e.body 6 1 = 17 then beVal e.body 42 2
  else match udpOf e with
    | some u => u.port
    | none => 0

/-- An RTP packet: marker, payload type, sequence number, timestamp, payload. -/
structure RtpPkt where
  marker : Bool
  pt : Nat
  seq : Nat
  ts : Word
  payload : List Byte
deriving DecidableEq, Repr

/-- Reads RTP version 2. -/
def rtpOf (bs : List Byte) : Option RtpPkt :=
  let b0 := beVal bs 0 1
  let b1 := beVal bs 1 1
  if bs.length < 12 ∨ b0 / 64 ≠ 2 then none
  else
    let h := 12 + 4 * (b0 % 16)
    let h := if b0 / 16 % 2 = 1 then h + 4 + 4 * beVal bs (h + 2) 2 else h
    let pad := if b0 / 32 % 2 = 1 then beVal bs (bs.length - 1) 1 else 0
    some ⟨decide (b1 / 128 = 1), b1 % 128, beVal bs 2 2, BitVec.ofNat 32 (beVal bs 4 4), (bs.take (bs.length - pad)).drop h⟩

/-- The packet matches a leg's address, port, source and VLAN (R485, R501). -/
def legMatch (s : State) (f ip src udp : Nat) (e : EthFrame) (u : UdpPkt) : Bool :=
  decide (flF s f ip 0 32 = u.dst) && decide (flF s f udp 0 16 = u.port)
  && (decide (flF s f src 0 32 = 0) || decide (flF s f src 0 32 = u.src))
  && (decide (flF s f udp 28 1 = 0) || decide (e.vlan = some (flF s f udp 16 12)))

def flKind (s : State) (f : Nat) : Nat := flF s f Off.FLOW_FL_CFG 0 2
def flDual (s : State) (f : Nat) : Bool := decide (flF s f Off.FLOW_FL_CFG 6 1 = 1)

/-- The legs of flow f that a packet on port n matches. -/
def flowMatch (s : State) (f n : Nat) (e : EthFrame) (u : UdpPkt) (r : RtpPkt) : Bool × Bool :=
  if (flowAt s f).st = 0 ∨ (flF s f Off.FLOW_FL_FMT 15 1 = 0 ∧ flF s f Off.FLOW_FL_FMT 8 7 ≠ r.pt) then (false, false)
  else
    (decide (flF s f Off.FLOW_FL_CFG 2 4 = n) && legMatch s f Off.FLOW_FL_A_IP Off.FLOW_FL_A_SRC Off.FLOW_FL_A_UDP e u,
     flDual s f && decide (flF s f Off.FLOW_FL_CFG 7 4 = n) && legMatch s f Off.FLOW_FL_B_IP Off.FLOW_FL_B_SRC Off.FLOW_FL_B_UDP e u)

/-! ## ST 2110-20 (R487 to R492) -/

def flWidth (s : State) (f : Nat) : Nat := flF s f Off.FLOW_FL_SIZE 0 13 + 1
def flHeight (s : State) (f : Nat) : Nat := flF s f Off.FLOW_FL_SIZE 16 13 + 1
def flSampling (s : State) (f : Nat) : Nat := flF s f Off.FLOW_FL_FMT 0 2
def flDepth (s : State) (f : Nat) : Nat := [8, 10, 12, 16].getD (flF s f Off.FLOW_FL_FMT 2 2) 8
/-- Output pixel format and component depth (R488). -/
def flFmt (s : State) (f : Nat) : Nat × Nat := if flDepth s f = 8 then (0, 8) else if flDepth s f = 10 then (1, 10) else (4, 16)

/-- The samples of a run of pixels from (x, y): pgroups of the sampling, most significant bit first; 4:2:2 carries Cb Y Cr Y
for two pixels, 4:4:4 Cb Y Cr, RGB R G B. Each sample is (x, component, code): component 0 Y or G, 1 Cb or B, 2 Cr or R. -/
def srdSamples (sampling depth x : Nat) (bs : List Byte) : List (Nat × Nat × Nat) :=
  let v := bs.foldl (fun a b => a * 256 + b.toNat) 0
  let bits := 8 * bs.length
  let n := bits / depth
  (List.range n).map (fun i =>
    let c := v / 2 ^ (bits - depth * (i + 1)) % 2 ^ depth
    if sampling = 0 then
      let p := x + i / 4 * 2
      match i % 4 with
      | 0 => (p, 1, c)
      | 1 => (p, 0, c)
      | 2 => (p, 2, c)
      | _ => (p + 1, 0, c)
    else (x + i / 3, [1, 0, 2].getD (if sampling = 1 then i % 3 else 2 - i % 3) 0, c))

/-- A sample row data segment: row, first pixel, bytes, and whether its field bit is set. -/
structure Srd where
  row : Nat
  x : Nat
  field : Bool
  bytes : List Byte
deriving DecidableEq, Repr

/-- The headers of a payload after its extended sequence number, at most three: (length, row, field, offset), and the place of
the data. -/
def srdHeads (bs : List Byte) : Nat → Nat → List (Nat × Nat × Bool × Nat) × Nat
  | 0, o => ([], o)
  | n + 1, o =>
    let h := (beVal bs o 2, beVal bs (o + 2) 2 % 32768, decide (32768 ≤ beVal bs (o + 2) 2), beVal bs (o + 4) 2 % 32768)
    if 32768 ≤ beVal bs (o + 4) 2 then
      let t := srdHeads bs n (o + 6)
      (h :: t.1, t.2)
    else ([h], o + 6)

/-- The segments of a payload. -/
def srdsOf (bs : List Byte) : List Srd :=
  let r := srdHeads bs 3 2
  (r.1.foldl (fun (acc : List Srd × Nat) h =>
    (⟨h.2.1, h.2.2.2, h.2.2.1, (bs.drop acc.2).take h.1⟩ :: acc.1, acc.2 + h.1)) ([], r.2)).1.reverse

/-- A held sample. -/
def flSampleAt (v : FlowFrame) (x y c : Nat) : Option Nat :=
  let k := mapGet (fun _ => 0) v.samples ((y * 8192 + x) * 4 + c)
  if k = 0 then none else some (k - 1)

/-- A sample or a chroma value of pixel (x, y), exact; chroma of 4:2:2 at odd x by R489. -/
def compAt (s : State) (f : Nat) (v : FlowFrame) (x y c : Nat) : Option Nat :=
  if flSampling s f ≠ 0 ∨ c = 0 then flSampleAt v x y c
  else if x % 2 = 0 then flSampleAt v x y c
  else if flWidth s f ≤ x + 1 then flSampleAt v (x - 1) y c
  else match flSampleAt v (x - 1) y c, flSampleAt v (x + 1) y c with
    | some a, some b => some (halfEven (a + b : Nat) 2).toNat
    | _, _ => none

/-- Luma and chroma as R489 normalises them. -/
def normLuma (n : Nat) (narrow : Bool) (k : Nat) : Rat :=
  if narrow then mkRat ((k : Int) - 16 * 2 ^ (n - 8)) (219 * 2 ^ (n - 8)) else mkRat k (2 ^ n - 1)
def normChroma (n : Nat) (narrow : Bool) (k : Nat) : Rat :=
  if narrow then mkRat ((k : Int) - 128 * 2 ^ (n - 8)) (224 * 2 ^ (n - 8)) else mkRat ((k : Int) - 2 ^ (n - 1)) (2 ^ n - 1)

/-- The output code of a value. -/
def outCode (m : Nat) (v : Rat) : Nat :=
  (ratHalfEven ((if v < 0 then 0 else if 1 < v then 1 else v) * ((2 ^ m - 1 : Nat) : Rat))).toNat

/-- R, G and B of a pixel from its three components (R489). -/
def toRgb (n sampling colour : Nat) (narrow : Bool) (k0 k1 k2 : Nat) : Rat × Rat × Rat :=
  if sampling = 2 then (normLuma n narrow k2, normLuma n narrow k0, normLuma n narrow k1)
  else
    let kr : Rat := if colour = 0 then mkRat 2126 10000 else mkRat 2627 10000
    let kb : Rat := if colour = 0 then mkRat 722 10000 else mkRat 593 10000
    let kg := 1 - kr - kb
    let y := normLuma n narrow k0
    let cb := normChroma n narrow k1
    let cr := normChroma n narrow k2
    (y + 2 * (1 - kr) * cr, y - (2 * kb * (1 - kb) * cb + 2 * kr * (1 - kr) * cr) / kg, y + 2 * (1 - kb) * cb)

/-- An output pixel; none where a sample is missing. -/
def flowPixel? (s : State) (f : Nat) (v : FlowFrame) (x y : Nat) : Option Pixel :=
  match compAt s f v x y 0, compAt s f v x y 1, compAt s f v x y 2 with
  | some a, some b, some c =>
    let n := flDepth s f
    let m := (flFmt s f).2
    let rgb := toRgb n (flSampling s f) (flF s f Off.FLOW_FL_FMT 4 2) (decide (flF s f Off.FLOW_FL_FMT 6 2 = 0)) a b c
    some ([outCode m rgb.1, outCode m rgb.2.1, outCode m rgb.2.2] ++
      (match (fmtDepths (flFmt s f).1)[3]? with
       | some k => [2 ^ k - 1]
       | none => []))
  | _, _, _ => none

/-- A missing pixel: 0 in every colour and full alpha. -/
def missingPixel (fmt : Nat) : Pixel := [0, 0, 0] ++ (match (fmtDepths fmt)[3]? with
  | some k => [2 ^ k - 1]
  | none => [])

/-- Closes block row k of a frame: it is converted and written, and its samples are let go (R490, R491). -/
def closeRow (s : State) (f : Nat) (v : FlowFrame) (k : Nat) : State × FlowFrame :=
  let h := flHeight s f
  let w := flWidth s f
  let bad := (List.range (min 8 (h - 8 * k))).any (fun r => (List.range w).any (fun x => (flowPixel? s f v x (8 * k + r)).isNone))
  let v' := { v with damaged := v.damaged || bad, samples := mapKeep (fun key => decide (8 * k + 8 ≤ key / 32768)) v.samples }
  if v.buf.isNone then (s, v')
  else
    let d := surfOf v.entry
    let ws := blockRow d (fun x y => (flowPixel? s f v x y).getD (missingPixel d.fmt)) k
    if writesOk s ws then (hbmPut s ws, v') else (hbmPut s ws, { v' with cause := 3 })

/-- Closes the rows from w up to `n`, not itself. -/
def closeRows (f : Nat) : Nat → State × FlowFrame → Nat → State × FlowFrame
  | 0, x, _ => x
  | fuel + 1, x, n =>
    if n ≤ x.2.w then x
    else
      let y := closeRow x.1 f x.2 x.2.w
      closeRows f fuel (y.1, { y.2 with w := x.2.w + 1 }) n

/-- The frame in progress closes (R490): its rows are closed, its summary is written, and it is on its way to READY or its drop
(R491). -/
def flowClose (s : State) (f : Nat) : State :=
  let fl := flowAt s f
  match fl.frame with
  | none => s
  | some v =>
    let rows := ceilDiv (flHeight s f) 8
    let (s, v) := closeRows f (rows + 1) (s, v) rows
    let sum := if v.buf.isSome && decide (v.cause = 0) then fullSummary (surfOf v.entry) else []
    let cause := if v.cause ≠ 0 ∨ writesOk s sum = false then 3 else if v.damaged && decide (flF s f Off.FLOW_FL_CFG 11 1 = 0) then 1 else 0
    let s := hbmPut s sum
    let done_ := match v.buf with
      | some b => [⟨b, v.ts, cause, v.damaged⟩]
      | none => []
    setFlow s f { fl with frame := none, lastTs := some v.ts, lastSeqs := v.seqs, closing := fl.closing ++ done_ }

/-- A frame starts: its buffer is claimed and its entry judged; a frame without a buffer has its packets discarded (R492). -/
def flowBegin (s : State) (f : Nat) (ts : Word) (seq : Nat) : State :=
  let fl := flowAt s f
  let v : FlowFrame := { ts := ts, buf := none, entry := [], cause := 0, seqs := [], first := seq, marker := none, w := 0
                         samples := [], damaged := false }
  match pickBuf s (flF s f Off.FLOW_FL_BUF 0 14) (flF s f Off.FLOW_FL_BUF 16 3 + 1) with
  | none => raise (setFlow s f { fl with frame := some v }) .flow 3
  | some b =>
    let s := claimFor s b ownNet f
    let e := bufEntry s b
    let d := surfOf e
    let bad := decide (d.fmt ≠ (flFmt s f).1) || decide (d.w ≠ flWidth s f) || decide (d.h ≠ flHeight s f) || decide (4 ≤ d.st)
    if bad then raise (setFlow (freeFor s b) f { fl with frame := some v, dropCause := 2 }) .flow 2
    else setFlow s f { fl with frame := some { v with buf := some b, entry := e } }

/-- One segment of an accepted packet (R490). -/
def flowSegment (f : Nat) (s : State) (g : Srd) : State :=
  let fl := flowAt s f
  match fl.frame with
  | none => s
  | some v =>
    let k := g.row / 8
    if g.field then s
    else if flHeight s f ≤ g.row then s
    else if k < v.w then raise s .flow 4
    else
      let (s, v) := if v.w + 1 < k then closeRows f (k + 1) (s, v) (k - 1) else (s, v)
      let put (m : AMap Nat) (x : Nat × Nat × Nat) : AMap Nat :=
        if flWidth s f ≤ x.1 then m else mapSet (fun _ => 0) m ((g.row * 8192 + x.1) * 4 + x.2.1) (x.2.2 + 1)
      let v := { v with samples := (srdSamples (flSampling s f) (flDepth s f) g.x g.bytes).foldl put v.samples }
      setFlow s f { flowAt s f with frame := some v }

/-- How far extended sequence number `b` stands past `a`, of 32 bits. -/
def seqPast (a b : Nat) : Nat := (b + 2 ^ 32 - a) % 2 ^ 32

/-- The frame is whole: its marker and every sequence number up to it have been accepted. -/
def flowWhole (v : FlowFrame) : Bool :=
  match v.marker with
  | some m => decide (seqPast v.first m < 2 ^ 31) && (List.range (seqPast v.first m + 1)).all (fun i => v.seqs.contains ((v.first + i) % 2 ^ 32))
  | none => false

/-- A segment is of a row that is closed. -/
def segLate (s : State) (f : Nat) (v : FlowFrame) (g : Srd) : Bool := decide (g.row < flHeight s f) && decide (g.row / 8 < v.w)

/-- A packet of an ST 2110-20 flow (R485, R490). A packet of the frame closed last, or of a closed row, is late and discarded (log
45); a new frame is not begun while NET leaves RUN (R45). -/
def flowPacket (s : State) (f : Nat) (r : RtpPkt) : State :=
  let fl := flowAt s f
  let seq := beVal r.payload 0 2 * 65536 + r.seq
  let seen := fl.lastSeqs.contains seq || (match fl.frame with
    | some v => v.seqs.contains seq
    | none => false)
  let srds := srdsOf r.payload
  let mine := fl.frame.bind (fun v => if v.ts = r.ts then some v else none)
  if seen ∨ srds.any (fun g => g.field) = true then s
  else if fl.lastTs = some r.ts ∧ mine = none then raise s .flow 4
  else if (match mine with
      | some v => srds.any (segLate s f v)
      | none => false) = true then raise s .flow 4
  else if mine = none ∧ islandRuns s islNet = false then flowClose s f
  else
    let s := if mine.isSome then s else flowBegin (flowClose s f) f r.ts seq
    let fl := flowAt s f
    match fl.frame with
    | none => s
    | some v =>
      let v := { v with seqs := seq :: v.seqs, first := if seqPast seq v.first < 2 ^ 31 then seq else v.first, marker := if r.marker then some seq else v.marker }
      let s := setFlow s f { fl with frame := some v, signal := true }
      let s := if v.buf.isNone then s else srds.foldl (flowSegment f) s
      match (flowAt s f).frame with
      | some v => if flowWhole v then flowClose s f else s
      | none => s

/-- R492: the writes of the oldest closed frame are visible: READY, or its drop (R491). -/
def flowReady (s : State) (f : Nat) : State :=
  let fl := flowAt s f
  match fl.closing with
  | [] => s
  | d :: rest =>
    let s := setFlow s f { fl with closing := rest }
    let fl := flowAt s f
    if d.cause ≠ 0 then
      let s := if ownedBy s d.buf ownNet f then freeFor s d.buf else s
      raise (setFlow s f { fl with dropCause := d.cause }) .flow 2
    else if ownedBy s d.buf ownNet f then
      let s := producerReady s d.buf (fl.sent + 1)
      let s := setFlow s f { fl with seq := fl.sent + 1, sent := fl.sent + 1, rtp := d.ts }
      raise (raiseIf d.damaged .flow 1 s) .flow 0
    else s

def execFlowFrameReady (f : Fin 8) (s : State) : Res := done (flowReady s f.val)

/-! ## Bamler flows (R493 to R496) -/

def flHalf (v : Flow) (h : Nat) : FlowHalf := if h = 0 then v.half0 else v.half1
def setHalf (v : Flow) (h : Nat) (x : FlowHalf) : Flow := if h = 0 then { v with half0 := x } else { v with half1 := x }
def flStage (s : State) (f : Nat) : Nat := flF s f Off.FLOW_FL_STAGE_LO 0 32 + flF s f Off.FLOW_FL_STAGE_HI 0 3 * 2 ^ 32
def flHalfBytes (s : State) (f : Nat) : Nat := flF s f Off.FLOW_FL_STAGE_HI 16 16 * 2 ^ 19
def flowReq (f : Nat) (v : Flow) : Nat := 32 + f + 64 * v.run

/-- The half in which a frame is being assembled. -/
def flAssembling (v : Flow) : Option Nat := if v.half0.st = 1 then some 0 else if v.half1.st = 1 then some 1 else none

/-- The stream's history is emptied in its slot. -/
def flowForget (s : State) (f : Nat) : State :=
  match (flowAt s f).slot with
  | some k => setStSlot s k { stSlot s k with st := StreamSt.empty }
  | none => s

/-- A frame is lost (R496). -/
def flowLostFrame (s : State) (f : Nat) : State :=
  let s := flowForget s f
  raise (setFlow s f { flowAt s f with st := 2, dropCause := 4 }) .flow 2

/-- The frame being assembled, if there is one, is lost. -/
def flowDropAssembly (s : State) (f : Nat) : State :=
  match flAssembling (flowAt s f) with
  | some h => flowLostFrame (setFlow s f (setHalf (flowAt s f) h .initial)) f
  | none => s

/-- Decodes half `h`, which holds a complete frame of `len` bytes (R494, R496); without a state slot, which MEDIA has lost (R290), no
decode is made (log 72). -/
def flowDecode (s : State) (f h len : Nat) : State :=
  let v := flowAt s f
  let a := flStage s f + h * flHalfBytes s f
  let rst := hbmReadOk s a 16 && bitOf (memWord s a) 12
  if v.st = 2 ∧ rst = false then setFlow s f (setHalf v h .initial)
  else
    let s := if v.st = 2 then raise (setFlow s f { v with st := 1 }) .flow 5 else s
    match v.slot, pickBuf s (flF s f Off.FLOW_FL_BUF 0 14) (flF s f Off.FLOW_FL_BUF 16 3 + 1) with
    | some k, some b =>
      let c := flF s f Off.FLOW_FL_CFG 12 2
      let s := intPush (claimFor s b ownCodec c) c (flowReq f v) k a len b
      setFlow s f { flowAt s f with dec := some h }
    | some _, none => flowLostFrame (raise (setFlow s f (setHalf (flowAt s f) h .initial)) .flow 3) f
    | none, _ => flowLostFrame (raise (setFlow s f (setHalf (flowAt s f) h .initial)) .flow 6) f

/-- The next complete frame is decoded when none is. -/
def flowNext (s : State) (f : Nat) : State :=
  let v := flowAt s f
  if v.dec.isSome then s
  else if v.half0.st = 2 then flowDecode s f 0 (v.half0.len.getD 0)
  else if v.half1.st = 2 then flowDecode s f 1 (v.half1.len.getD 0)
  else s

/-- Every byte from 0 to `n` is present. -/
def covers (got : List (Nat × Nat)) : Nat → Nat → Nat → Bool
  | 0, o, n => decide (n ≤ o)
  | fuel + 1, o, n =>
    decide (n ≤ o) || (match got.find? (fun x => decide (x.1 ≤ o) && decide (o < x.1 + x.2)) with
      | some x => covers got fuel (x.1 + x.2) n
      | none => false)

/-- A packet of a Bamler flow (R493 to R495): of two with one sequence number the first is accepted. -/
def bflowPacket (s : State) (f : Nat) (r : RtpPkt) : State :=
  let w := beVal r.payload 2 2
  let fs := decide (w % 2 = 1)
  let fe := decide (w / 2 % 2 = 1)
  let off := beVal r.payload 4 4
  let data := r.payload.drop 8
  let half := flHalfBytes s f
  let seq := beVal r.payload 0 2 * 65536 + r.seq
  let seen := (flowAt s f).seqs.contains seq || (flowAt s f).lastSeqs.contains seq
  if 4 ≤ w ∨ r.payload.length < 8 ∨ seen = true then s
  else if fs && decide ((flowAt s f).began ≠ some r.ts) && !islandRuns s islNet then flowDropAssembly s f
  else
    let s := setFlow s f { flowAt s f with signal := true, seqs := seq :: (flowAt s f).seqs }
    let v := flowAt s f
    let s :=
      if fs && decide (v.began ≠ some r.ts) then
        let s := flowDropAssembly s f
        let v : Flow := { flowAt s f with began := some r.ts, lastSeqs := (flowAt s f).seqs.drop 1, seqs := [seq] }
        if v.half0.st = 0 then setFlow s f (setHalf v 0 ⟨1, r.ts, [], none⟩)
        else if v.half1.st = 0 then setFlow s f (setHalf v 1 ⟨1, r.ts, [], none⟩)
        else flowLostFrame (setFlow s f v) f
      else s
    let v := flowAt s f
    match flAssembling v with
    | none => s
    | some h =>
      let x := flHalf v h
      if x.ts ≠ r.ts then s
      else if half < off + data.length then flowDropAssembly s f
      else
        let a := flStage s f + h * half + off
        if !hbmOk s a data.length then s
        else
          let s := hbmPut s [(a, data)]
          let x := { x with got := (off, data.length) :: x.got, len := if fe then some (off + data.length) else x.len }
          let whole := match x.len with
            | some n => covers x.got (x.got.length + 1) 0 n
            | none => false
          let s := setFlow s f (setHalf (flowAt s f) h { x with st := if whole then 2 else 1 })
          if whole then flowNext s f else s

/-- A flow's internal job has ended (R494, R495). -/
def flowJobEnd (s : State) (req status : Nat) (buf : Option Nat) (c : Nat) (seq : Word) : State :=
  let f := req % 64 - 32
  let s := match buf with
    | some b => if status = 10 ∧ ownedBy s b ownCodec c = true then freeFor s b else s
    | none => s
  let v := flowAt s f
  if flowReq f v ≠ req then s
  else
    let v := match v.dec with
      | some h => setHalf { v with dec := none } h .initial
      | none => v
    if status = 0 then flowNext (raise (setFlow s f { v with seq := seq }) .flow 0) f
    else flowNext (flowLostFrame (raise (setFlow s f v) .flow 6) f) f

/-! ## Received frames (R482) -/

/-- SIGNAL f (R502). -/
def flowLevel (s : State) (f : Nat) : State := setLevel s .flow (8 + f) (flowAt s f).signal

/-- A packet for flow f on legs `a` and `b`. -/
def flowTake (s : State) (f : Nat) (a b : Bool) (r : RtpPkt) : State :=
  let v := flowAt s f
  let s := setFlow s f { v with legA := v.legA || a, legB := v.legB || b }
  flowLevel (if flKind s f = 1 then flowPacket s f r else bflowPacket s f r) f

/-- The one unicast address of port n (R481). -/
def netMac (s : State) (n : Nat) : Nat := (reg s (netPage n) Off.NET_MAC_LO).toNat + fld (reg s (netPage n) Off.NET_MAC_HI) 0 16 * 2 ^ 32

/-- The frame is for the control processor: PTP; ARP, ICMP, IGMP or MLD; IP to the port's own MAC address. -/
def isPtp (e : EthFrame) : Bool := decide (e.ethertype = 0x88F7) || decide (udpPort e = 319) || decide (udpPort e = 320)
def forCtl (s : State) (n : Nat) (e : EthFrame) : Bool :=
  decide (e.ethertype = 0x0806) || decide (ipProto e = 1) || decide (ipProto e = 2)
  || (decide (e.ethertype = 0x86DD) && (decide (beVal e.body 6 1 = 58) || (decide (beVal e.body 6 1 = 0) && decide (beVal e.body 40 1 = 58))))
  || ((decide (e.ethertype = 0x0800) || decide (e.ethertype = 0x86DD))
      && decide (e.dst = netMac s n))

/-- The running flow that takes a packet, with its legs. -/
def flowFor (s : State) (n : Nat) (e : EthFrame) : Option (Nat × Bool × Bool × RtpPkt) :=
  match udpOf e with
  | none => none
  | some u => match rtpOf u.payload with
    | none => none
    | some r => ((List.range 8).map (fun f => (f, flowMatch s f n e u r))).findSome? (fun x =>
        if x.2.1 || x.2.2 then some (x.1, x.2.1, x.2.2, r) else none)

/-- R482: a frame of `bytes`, FCS included, received on port n, which takes its own unicast address and groups (R481, log 45); `full`
where it finds the packet buffer full (R498). -/
def netFrameRx (s : State) (n : Nat) (bytes : List Byte) (full : Bool) : State :=
  let e := ethOf bytes
  if pageUp s (netPage n) = false ∨ islState s islNet ≠ .run ∨ (portAt s n).link = false ∨ bytes.length < 64
     ∨ forceF s (netPage n) Off.NET_MTU 0 14 < bytes.length ∨ (e.dst ≠ netMac s n ∧ e.dst / 2 ^ 40 % 2 = 0) then s
  else if full then raise s (netPage n) 2
  else match flowFor s n e with
    | some (f, a, b, r) => flowTake s f a b r
    | none =>
      if isPtp e then setNet s { s.net with toCtl := (n, some (rxStamp s n), bytes) :: s.net.toCtl }
      else if forCtl s n e then setNet s { s.net with toCtl := (n, none, bytes) :: s.net.toCtl }
      else s

def execNetFrameRx (n : Fin 16) (bytes : List Byte) (full : Bool) (s : State) : Res := done (netFrameRx s n.val bytes full)

/-- R490, R495: frame_tmo has passed without an accepted packet, on the flow (0) or on leg A (1) or B (2) alone. -/
def flowTimeout (s : State) (f which : Nat) : State :=
  let v := flowAt s f
  if v.st = 0 then s
  else match which with
    | 0 =>
      let s := setFlow s f { v with signal := false, legA := false, legB := false }
      flowLevel (if flKind s f = 1 then flowClose s f else flowDropAssembly s f) f
    | 1 => setFlow s f { v with legA := false }
    | _ => setFlow s f { v with legB := false }

def execFlowFrameTimeout (f : Fin 8) (which : Fin 3) (s : State) : Res := done (flowTimeout s f.val which.val)

/-! ## Start and stop (R485, R497) -/

/-- Line buffer bytes of a kind 1 flow (R497). -/
def flowLbuf (s : State) (f : Nat) : Nat :=
  let b := (if flSampling s f = 0 then 4 else 6) * flWidth s f * flDepth s f
  ceilDiv b 64 * 64

/-- LBUF_USED. -/
def lbufUsed (s : State) : Nat := (s.net.flows.map (fun e => e.2.lbuf)).foldl (· + ·) 0

/-- The port a flow names is on the part. -/
def portPresent (s : State) (n : Nat) : Bool := pagePresent s (netPage n)

/-- Why a start is refused; 0 where it is not (R497). -/
def flowStartCode (s : State) (f : Nat) : Nat :=
  let k := flKind s f
  if k = 0 ∨ k = 3 ∨ portPresent s (flF s f Off.FLOW_FL_CFG 2 4) = false
     ∨ (flDual s f = true ∧ portPresent s (flF s f Off.FLOW_FL_CFG 7 4) = false) then 1
  else if k = 1 ∧ 1572864 < lbufUsed s + flowLbuf s f then 2
  else if k = 2 ∧ (freeSlot s).isNone = true then 3
  else if k = 2 ∧ (flF s f Off.FLOW_FL_STAGE_HI 16 16 < 2 ∨ hbmBytes s < flStage s f + 2 * flHalfBytes s f) then 4
  else 0

/-- The legs of a flow: port, destination and source (R482, R485). -/
def flowLegs (s : State) (f : Nat) : List (Nat × Nat × Nat) :=
  (flF s f Off.FLOW_FL_CFG 2 4, flF s f Off.FLOW_FL_A_IP 0 32, flF s f Off.FLOW_FL_A_SRC 0 32) ::
    (if flDual s f then [(flF s f Off.FLOW_FL_CFG 7 4, flF s f Off.FLOW_FL_B_IP 0 32, flF s f Off.FLOW_FL_B_SRC 0 32)] else [])

/-- The control processor sends a membership report for each leg, or its leave (R482); it runs, and so does NET. -/
def igmpSend (s : State) (legs : List (Nat × Nat × Nat)) (join : Bool) : State :=
  if islState s islCtl ≠ .run ∨ islandUp s islNet = false then s
  else setNet s { s.net with igmp := (legs.map (fun l => (⟨l.1, l.2.1, l.2.2, join⟩ : Igmp))).reverse ++ s.net.igmp }

/-- FL_CMD.start. -/
def flowStart (s : State) (f : Nat) : State :=
  let v := flowAt s f
  if v.st ≠ 0 then s
  else
    let c := flowStartCode s f
    if c ≠ 0 then raise (setFlow s f { v with startErr := c }) .flow 7
    else
      let slot := if flKind s f = 2 then freeSlot s else none
      let s := match slot with
        | some k => setStSlot s k ⟨3, StreamSt.empty⟩
        | none => s
      let s := setFlow s f { Flow.initial with
        st := 1, cfg := flowForce s f, slot := slot, lbuf := if flKind s f = 1 then flowLbuf s f else 0
        seq := v.seq, rtp := v.rtp, dropCause := v.dropCause, run := v.run + 1 }
      igmpSend s (flowLegs s f) true

/-- What a flow loses at a stop and with its island (R485). A decode that has started still completes. -/
def flowEnd (s : State) (f : Nat) : State :=
  let v := flowAt s f
  if v.st = 0 then s
  else
    let s := (intQueue s (flF s f Off.FLOW_FL_CFG 12 2)).foldl (fun (t : State) x =>
      match x.2.2 with
      | some b => if x.1 = flowReq f v ∧ ownedBy t b ownCodec (flF t f Off.FLOW_FL_CFG 12 2) = true then freeFor t b else t
      | none => t) s
    let s := dropIntern s (flowReq f v)
    let bufs := (v.frame.bind (fun x => x.buf)).toList ++ v.closing.map (fun d => d.buf)
    let s := bufs.foldl (fun (t : State) b => if ownedBy t b ownNet f then freeFor t b else t) s
    let s := match v.slot with
      | some k => slotRelease s k
      | none => s
    flowLevel (setFlow s f { Flow.initial with seq := v.seq, rtp := v.rtp, dropCause := v.dropCause, run := v.run + 1 }) f

/-- FL_CMD.stop: the flow ends, and its groups are left (R482, R485). -/
def flowStop (s : State) (f : Nat) : State :=
  if (flowAt s f).st = 0 then s else flowEnd (igmpSend s (flowLegs s f) false) f

/-- R497. -/
def execFlowStart (f : Fin 8) (s : State) : Res := done (if pageUp s .flow && islandRuns s islNet then flowStart s f.val else s)

/-- R485. -/
def execFlowStop (f : Fin 8) (s : State) : Res := done (if pageUp s .flow then flowStop s f.val else s)

/-- A commit of FLOW has applied: where it changes what a flow that is not STOPPED may change, the frame in progress is closed under
the old settings, and the new ones follow; a leg whose port, address or source changes leaves its group and joins the new one (R482,
R486). -/
def flowRematch (s : State) (f : Nat) : State :=
  let v := flowAt s f
  let new := (v.cfg.zip (flowForce s f)).mapIdx (fun i x => (x.1 &&& ~~~flowFree i) ||| (x.2 &&& flowFree i))
  if v.st = 0 ∨ new = v.cfg then s
  else
    let legs := flowLegs s f
    let s := if flKind s f = 1 then flowClose s f else s
    let s := setFlow s f { flowAt s f with cfg := new, lastTs := none, lastSeqs := [] }
    let now := flowLegs s f
    igmpSend (igmpSend s (legs.filter (fun l => !now.contains l)) false) (now.filter (fun l => !legs.contains l)) true

/-- NET leaves IDLE or RUN (R485). -/
def netLost (s : State) : State :=
  let s := (List.range 8).foldl flowEnd s
  setNet s { s.net with ports := [] }

/-- What RESET and OFF also take of NET: what the flows' status registers show, and what calibration has trimmed (R41, R69, R485). -/
def netWipe (s : State) : State :=
  let s := (List.range 8).foldl (fun (t : State) f => setFlow t f { Flow.initial with run := (flowAt t f).run }) s
  setNet s { s.net with slicer := [], los := [] }

/-- MEDIA leaves IDLE or RUN: the state slots of the flows are gone, and a decode in progress with them (R290, R495). -/
def flowMediaLost (s : State) : State :=
  (List.range 8).foldl (fun (t : State) f =>
    let v := flowAt t f
    match v.dec with
    | some h => flowLostFrame (raise (setFlow t f (setHalf { v with dec := none, slot := none } h .initial)) .flow 6) f
    | none => setFlow t f { v with slot := none }) s

end Sys2Proof.Machine
end

