-- ==== Sys2Proof/Machine/Wear.lean ====
section
/-!
DEFINITION. Wear accumulation, gains and checkpoints, and the region updates of the trim table
(spec/11_lamp_correction.md R306 to R310, R318 to R326).
-/
namespace Sys2Proof.Machine

/-! ## Wear (R306 to R309) -/

/-- WEAR_CTRL.en as it acts: every table aligned to 4 KiB and below the installed capacity (R306). -/
def wearEn (s : State) : Bool :=
  let ok (a n : Nat) : Bool := decide (a % 4096 = 0) && decide (a + n ≤ hbmBytes s)
  bitOf (reg s .trim Off.TRIM_WEAR_CTRL) 0 && ok (waccAt s 0) (12 * wearBlocks s)
  && ok (wgainAt s false 0) (2 ^ 26 + 4 * wearBlocks s) && ok (wrateAt s 0) (4 * wearBlocks s)

def wearHeld (s : State) : Bool := bitOf (reg s .trim Off.TRIM_WEAR_CTRL) 1 || s.trim.ckpt.isSome

/-- The wear blocks of a group's modules, each with the module's type (R305). -/
def groupBlocks (s : State) (g : Nat) : List (Nat × Nat) :=
  ((validCtxs s).filter (fun c => decide (ctxGroup c = g))).flatMap (fun c =>
    let x := ctxWords s.geom.ctx c
    let tc := typeCfg s (cType x)
    if bitOf tc 31 then
      (((List.range (ceilDiv (tHW tc * tVW tc) 8 * ceilDiv (tHH tc * tVH tc) 8)).map (fun i => (cWearBase x + i, cType x))).filter
        (fun b => decide (b.1 < wearBlocks s)))
    else [])

/-- X[j] of R308. -/
def wearX (j : Nat) : Nat := if j = 0 then 0 else 2 ^ (j + 15)

/-- The wear gain of an accumulator (R308). -/
def wearGain (m : AMap Word) (t k c acc wmax : Nat) : Nat :=
  let j := if acc < 65536 then 0 else bitlen acc - 16
  let kj : Int := (tKnot m t k c j : Int)
  let kn : Int := (tKnot m t k c (j + 1) : Int)
  let lu : Rat := (kj : Rat) + ((kn - kj : Int) : Rat) * mkRat (acc - wearX j : Nat) (wearX (j + 1) - wearX j)
  (sat (ratHalfEven lu) 0 wmax).toNat

/-- The mean output of a block's colour, times 64 and rounded: the increment (R307). -/
def wearInc (sum n : Nat) : Nat := if n = 0 then 0 else (halfEven (64 * sum : Nat) (n * 65536 * 8191)).toNat

/-- One block's update: increments per colour by `mult`, accumulators, gains into half `h`; true where an accumulator
has reached its maximum (R307, R308). `rate` is written to the rate entry. An accumulator that cannot be read gives a gain
of 0 and stays as it is (R427). -/
def wearBlockStep (s : State) (g : Nat) (h : Bool) (b t mult : Nat) (rate : List Nat) : State × Bool :=
  let k := tsetOf s g t
  let wmax := regF s .trim Off.TRIM_WEAR_CTRL 4 10
  let bad := !hbmReadOk s (waccAt s b) 12
  let s := eccTouchAll s [(waccAt s b, 12)]
  let accs := (List.range 3).map (fun c => min (memVal s (waccAt s b + 4 * c) 4 + rate.getD c 0 * mult) 0xFFFFFFFF)
  let gains := (List.range 3).map (fun c => wearGain s.trim.tsets t k c (accs.getD c 0) wmax)
  let word (l : List Nat) (n : Nat) : Nat := l.getD 0 0 + l.getD 1 0 * 2 ^ n + l.getD 2 0 * 2 ^ (2 * n)
  if bad then (hbmPut s [(wgainAt s h b, leBytes 4 0)], false)
  else (hbmPut s [(waccAt s b, accs.flatMap (leBytes 4)), (wrateAt s b, leBytes 4 (word rate 8)), (wgainAt s h b, leBytes 4 (word gains 10))]
   , accs.any (fun a => decide (a = 0xFFFFFFFF)))

/-- The rates stored for a block. -/
def wearRate (s : State) (b : Nat) : List Nat :=
  if hbmReadOk s (wrateAt s b) 4 then (List.range 3).map (fun c => memVal s (wrateAt s b + c) 1) else [0, 0, 0]

/-- An update over a group's blocks into the half not in force; `inc` gives each block's increments. -/
def wearPass (s : State) (g mult : Nat) (inc : State → Nat → List Nat) : State :=
  let h := !(mapGet (fun _ => false) s.trim.half g)
  let r := (groupBlocks s g).foldl (fun (acc : State × Bool) b =>
    let t := wearBlockStep acc.1 g h b.1 b.2 mult (inc acc.1 b.1)
    (t.1, acc.2 || t.2)) (s, false)
  let t := r.1
  raiseIf r.2 .trim 12 (setTrim t { t.trim with
    wearBusy := if t.trim.wearBusy.contains g then t.trim.wearBusy else g :: t.trim.wearBusy })

/-- The second of the time base. -/
def nowSec (s : State) : Nat := s.time.now / baseSec

/-- The second whose sampled frame a planned frame is: the first frame that latches at or after it (R307). -/
def sampledFor (s : State) (g : Nat) (pl : FramePlan) : Option Nat :=
  let sec := (ratFloor (pl.latch / (nsPerSec : Nat))).toNat
  let before := match planOf (tgen s g) (pl.frame - 1) with
    | some q => decide (q.latch < ((sec * nsPerSec : Nat) : Rat))
    | none => true
  if before then some sec else none

/-- The increments that a gain gives a block (R307). -/
def gainInc (x : WearGain) (s : State) (b : Nat) : List Nat :=
  match x with
  | .rate => wearRate s b
  | .zero => [0, 0, 0]
  | .sums m =>
    let v := mapGet (fun _ => ⟨0, 0, 0, 0⟩) m b
    [wearInc v.r v.n, wearInc v.g v.n, wearInc v.b v.n]

/-- A second is deferred (R309): counted once, up to 65,535. -/
def wearDefer (s : State) (sec : Nat) : State :=
  if s.trim.deferSec = some sec then s
  else
    let t := setTrim s { s.trim with deferSec := some sec, deferred := min 65535 (s.trim.deferred + 1) }
    raiseIf (decide (65535 ≤ s.trim.deferred)) .trim 11 t

/-- Group g's seconds that wait; its records. -/
def wearWait (s : State) (g : Nat) : List Nat := mapGet (fun _ => []) s.trim.wearNext g
def setWearWait (s : State) (g : Nat) (l : List Nat) : State :=
  setTrim s { s.trim with wearNext := mapSet (fun _ => []) s.trim.wearNext g l }
def wearRecs (s : State) (g : Nat) : List WearRec := mapGet (fun _ => []) s.trim.recs g

/-- What the update of a second adds: as its sampled frame says, once that is known; 0 for a group that has stopped without one (R307). -/
def wearGainOf (s : State) (g sec : Nat) : Option WearGain :=
  match (wearRecs s g).find? (fun r => decide (r.sec = sec)) with
  | some r => some r.gain
  | none => if (tgen s g).gen = .stopped then some .zero else none

/-- The oldest second that waits for group g is updated, where no update runs and its sampled frame is known; it is deferred while wear is
held (R307, R309). -/
def wearTry (s : State) (g : Nat) : State :=
  match wearWait s g with
  | [] => s
  | sec :: rest =>
    if wearEn s = false then setWearWait s g []
    else if s.trim.wearBusy.contains g then s
    else match wearGainOf s g sec with
      | none => s
      | some x =>
        let s := setWearWait s g rest
        if wearHeld s then wearDefer s sec
        else
          let t := wearPass s g 1 (gainInc x)
          setTrim t { t.trim with wearSec := BitVec.ofNat 32 sec }

/-- The sampled frame of a second is known; the first record of a second stands. -/
def wearRecord (s : State) (g : Nat) (r : WearRec) : State :=
  if (wearRecs s g).any (fun x => decide (x.sec = r.sec)) then s
  else
    let low := min ((wearWait s g).headD (nowSec s)) (nowSec s)
    let l := (wearRecs s g).filter (fun x => decide (low ≤ x.sec)) ++ [r]
    wearTry (setTrim s { s.trim with recs := mapSet (fun _ => []) s.trim.recs g l }) g

/-- R307, R309: the whole second's update of group g comes, once for each second; one before it that is not complete makes it late. -/
def wearSecond (s : State) (g : Nat) : State :=
  if pageUp s .trim = false ∨ wearEn s = false ∨ mapGet (fun _ => none) s.trim.wearLast g = some (nowSec s) then s
  else
    let late := s.trim.wearBusy.contains g || !(wearWait s g).isEmpty
    let s := setTrim s { s.trim with wearLast := mapSet (fun _ => none) s.trim.wearLast g (some (nowSec s)) }
    if wearHeld s then wearDefer s (nowSec s)
    else raiseIf late .trim 11 (wearTry (setWearWait s g (wearWait s g ++ [nowSec s])) g)

/-- R307. -/
def execWearSecondUpdate (g : Fin 16) (s : State) : Res := done (wearSecond s g.val)

/-- R307 step 6: the writes are visible; the half flips at the next close, and an update that waited follows. -/
def wearDone (s : State) (g : Nat) : State :=
  if s.trim.wearBusy.contains g = false ∨ hbmLive s = false then s
  else
    let t := setTrim s { s.trim with
      wearBusy := s.trim.wearBusy.filter (fun x => decide (x ≠ g))
      flip := if s.trim.flip.contains g then s.trim.flip else g :: s.trim.flip }
    wearTry (raise t .trim 10) g

/-- R307. -/
def execWearUpdateDone (g : Fin 16) (s : State) : Res := done (wearDone s g.val)

/-- The deferred seconds are applied in one pass (R309). -/
def wearRelease (s : State) : State :=
  let n := s.trim.deferred
  let t := setTrim s { s.trim with deferred := 0, deferSec := none }
  if n = 0 ∨ wearEn s = false then t
  else (List.range 16).foldl (fun u g => if groupBlocks u g = [] then u else wearPass u g n wearRate) t

/-- A write of WEAR_CTRL (R309, R328): hold cleared releases the deferred seconds. -/
def wearCtrlHold (s : State) (v : Word) : State :=
  let was := bitOf (reg s .trim Off.TRIM_WEAR_CTRL) 1
  let t := writePlain s .trim Off.TRIM_WEAR_CTRL v
  if was && !bitOf v 1 && s.trim.ckpt.isNone then wearRelease t else t

/-- R309. -/
def execWearHoldRelease (s : State) : Res :=
  done (if pageUp s .trim then wearCtrlHold s (putBit (reg s .trim Off.TRIM_WEAR_CTRL) 1 false) else s)

/-- The accumulators a checkpoint writes (R310). -/
def ckptBytes (s : State) : List Byte := memBytes s (waccAt s 0) (12 * wearBlocks s)

/-- The bytes of a checkpoint image (R310). -/
def ckptLen (s : State) : Nat := 4096 + 12 * wearBlocks s

/-- Starts a checkpoint: the image place alternates, the header is made, and the image is cut into commands for its drive; it fails where
the drive is not READY, the image lies beyond its capacity, or the accumulators cannot be read (R310). -/
def ckptStart (s : State) : State :=
  if s.trim.ckpt.isSome then s
  else
    let sec := nowSec s
    let w : List Word := [1, BitVec.ofNat 32 (wearBlocks s), BitVec.ofNat 32 sec, BitVec.ofNat 32 (sec / 2 ^ 32 % 65536)
      , s.trim.ckptSeq + 1, crc32c (ckptBytes s)]
    let hdr := w ++ [crc32c (bytesOfWords w)]
    let d := regF s .trim Off.TRIM_CKPT_LBA_HI 24 2
    let v := drvAt s d
    let n := lbaCount s d (ckptLen s)
    let img := !s.trim.ckptImg
    let lba := (reg s .trim Off.TRIM_CKPT_LBA_LO).toNat + regF s .trim Off.TRIM_CKPT_LBA_HI 0 16 * 2 ^ 32 + (if img then n else 0)
    let bad := decide (v.st ≠ 2) || decide (v.cap < lba + n) || !islandRuns s islHost
      || (decide (wearBlocks s ≠ 0) && !hbmReadOk s (waccAt s 0) (12 * wearBlocks s))
    storePump (setTrim s { s.trim with ckpt := some { img := img, hdr := hdr, drive := d, out := 0, bad := bad
                                                      todo := if bad then [] else reqCut (2 ^ v.lbaLog2) v.most (n + 1) lba n 0 } })

/-- R310: WEAR_CTRL.ckpt_now. -/
def execWearCkptNow (s : State) : Res := done (if pageUp s .trim then ckptStart s else s)

/-- R310: ckpt_min minutes have passed. -/
def execWearCkptTimer (s : State) : Res :=
  done (if pageUp s .trim ∧ regF s .trim Off.TRIM_WEAR_CTRL 16 16 ≠ 0 then ckptStart s else s)

/-- R310: the checkpoint ends, once every command of it has completed, or fails; a failed image counts for nothing. -/
def ckptEnd (s : State) (ok : Bool) : State :=
  match s.trim.ckpt with
  | none => s
  | some c =>
    if ok && !c.bad && (!c.todo.isEmpty || decide (c.out ≠ 0)) then s
    else
      let good := ok && !c.bad
      let t := if good then setTrim s { s.trim with ckpt := none, ckptImg := c.img, ckptSeq := s.trim.ckptSeq + 1 }
               else setTrim s { s.trim with ckpt := none }
      let t := raise t .trim (if good then 13 else 14)
      if bitOf (reg t .trim Off.TRIM_WEAR_CTRL) 1 then t else wearRelease t

/-- R310. -/
def execWearCkptEnd (ok : Bool) (s : State) : Res := done (ckptEnd s ok)

/-- A write of WEAR_CTRL, with its WO bit ckpt_now. -/
def writeWearCtrl (s : State) (v : Word) : State :=
  let t := wearCtrlHold s v
  if bitOf v 2 then ckptStart t else t

/-! ## Region slots (R318 to R325) -/

def rgn (s : State) (r : Nat) : Rgn := mapGet (fun _ => Rgn.initial) s.trim.rgns r
def setRgn (s : State) (r : Nat) (v : Rgn) : State :=
  setTrim s { s.trim with rgns := mapSet (fun _ => Rgn.initial) s.trim.rgns r v }

def rgnLo (s : State) (r : Nat) : Nat := regF s .trim (Off.TRIM_RGN_LO + 16 * r) 0 30
def rgnCnt (s : State) (r : Nat) : Nat := regF s .trim (Off.TRIM_RGN_CNT + 16 * r) 0 21
def rgnGroup (s : State) (r : Nat) : Nat := regF s .trim (Off.TRIM_RGN_CFG + 16 * r) 0 4
def stageAt (s : State) (r : Nat) : Nat := addrPair s .trim Off.TRIM_STAGE_BASE_LO Off.TRIM_STAGE_BASE_HI + r * 2 ^ 22

/-- STAGE_BASE is valid (R318, R327). -/
def stageValid (s : State) : Bool :=
  bitOf (reg s .trim Off.TRIM_STAGE_BASE_HI) 31 && decide (stageAt s 0 % 4096 = 0) && decide (stageAt s 64 ≤ hbmBytes s)

/-- Records a failure (R325). -/
def updFail (s : State) (r code : Nat) : State :=
  raise (setReg s .trim Off.TRIM_UPD_INFO (BitVec.ofNat 32 (code + r * 256))) .trim 8

/-- The register of a slot that a write names. -/
def rgnOff (which : Nat) : Nat :=
  match which with
  | 0 => Off.TRIM_RGN_LO
  | 1 => Off.TRIM_RGN_CNT
  | _ => Off.TRIM_RGN_CFG

/-- A write to a slot's registers (R318). -/
def rgnWrite (s : State) (r which : Nat) (v : Word) : State :=
  if (rgn s r).st ≠ 0 ∨ (rgn s r).queued.isSome = true then updFail s r 1
  else writePlain s .trim (rgnOff which + 16 * r) v

/-- R318. -/
def execRgnWrite (r : Fin 64) (which : Fin 3) (v : Word) (s : State) : Res :=
  done (if pageUp s .trim then rgnWrite s r.val which.val v else s)

/-- The snapshot a request takes (R319). -/
def updReq (s : State) (kind : Nat) (atTime : Bool) : RgnReq :=
  { kind := kind, atTime := atTime, src := addrPair s .trim Off.TRIM_UPD_SRC_LO Off.TRIM_UPD_SRC_HI
    len := (reg s .trim Off.TRIM_UPD_SRC_LEN).toNat, tr := regF s .trim Off.TRIM_UPD_TARGET_RG 0 16
    tg := regF s .trim Off.TRIM_UPD_TARGET_RG 16 16, tb := regF s .trim Off.TRIM_UPD_TARGET_B 0 16
    maxStep := regF s .trim Off.TRIM_UPD_TARGET_B 16 9, ns := regF s .trim Off.TRIM_UPD_TIME_LO 0 30
    sec := (reg s .trim Off.TRIM_UPD_TIME_HI).toNat }

/-- The bytes a request reads at its source. -/
def updSrcBytes (s : State) (r : Nat) (q : RgnReq) : Nat :=
  match q.kind with
  | 0 => 4 * rgnCnt s r
  | 1 => q.len
  | _ => 12 * q.len

/-- Codes 1 to 3 of R325, judged as a request starts; 0 where it may. -/
def updCode (s : State) (r : Nat) (q : RgnReq) : Nat :=
  let lo := rgnLo s r
  let n := rgnCnt s r
  let clash (k : Nat) : Bool := decide (k ≠ r) && decide ((rgn s k).st ≠ 0) && decide (rgnLo s k < lo + n) && decide (lo < rgnLo s k + rgnCnt s k)
  if n = 0 ∨ n % 64 ≠ 0 ∨ lo % 64 ≠ 0 ∨ 1048576 < n ∨ tblWords s < lo + n ∨ tblValid s = false ∨ stageValid s = false then 1
  else if (List.range 64).any clash then 2
  else if q.kind = 3 ∨ hbmBytes s < q.src + updSrcBytes s r q then 3
  else 0

/-- A request for a slot starts: FILL, or its failure, code 6 while the trim updater is not in RUN (R320, R321, R325, R551). -/
def updBegin (s : State) (r : Nat) (q : RgnReq) : State :=
  let c := updCode s r q
  if c ≠ 0 then updFail s r c
  else if hlpRun s 18 = false then updFail s r 6
  else
    let s := setRgn s r { rgn s r with st := 1, req := some q, missed := false, dec := 0, run := (rgn s r).run + 1 }
    setTrim s { s.trim with fills := s.trim.fills ++ [r] }

/-- A slot is IDLE again: a queued request starts (R320). -/
def updNext (s : State) (r : Nat) : State :=
  match (rgn s r).queued with
  | some q => if (rgn s r).st = 0 ∧ hlpRun s 18 = true then updBegin (setRgn s r { rgn s r with queued := none }) r q else s
  | none => s

/-- UPD_CMD with go = 1 (R319, R320). -/
def updCmd (s : State) (r kind : Nat) (atTime : Bool) : State :=
  let q := updReq s kind atTime
  let v := rgn s r
  if v.st = 0 then updBegin s r q
  else raiseIf v.queued.isSome .trim 9 (setRgn s r { v with queued := some q })

/-- R319. -/
def execUpdWords (slot : Fin 64) (atTime : Bool) (s : State) : Res :=
  done (if pageUp s .trim then updCmd s slot.val 0 atTime else s)

/-- R319. -/
def execUpdBamler (slot : Fin 64) (atTime : Bool) (s : State) : Res :=
  done (if pageUp s .trim then updCmd s slot.val 1 atTime else s)

/-- R324. -/
def execUpdMeasurements (slot : Fin 64) (atTime : Bool) (s : State) : Res :=
  done (if pageUp s .trim then updCmd s slot.val 2 atTime else s)

/-- R320. -/
def execUpdRequestStart (r : Fin 64) (s : State) : Res := done (updNext s r.val)

/-- round-half-even(128 * log2(t / m)) (R324). -/
def logStep (t m : Nat) : Int :=
  if t = m then 0 else ratHalfEven (mkRat (128 * fxLn (mkRat t m)) 1 / mkRat fxLn2 1)

/-- One measurement applied to a trim word (R324). -/
def applyMeas (q : RgnReq) (w : Word) (mr mg mb : Nat) : Word :=
  if bitOf w 31 then w
  else
    let one (i m t : Nat) (x : Nat) : Nat :=
      let old := nfld x (9 * i) 9
      if m = 0 ∨ t = 0 then x
      else
        let d := sat (logStep t m) (-(q.maxStep : Int)) q.maxStep
        let n := (sat ((old : Int) + d) 0 511).toNat
        x - old * 2 ^ (9 * i) + n * 2 ^ (9 * i)
    BitVec.ofNat 32 (one 2 mb q.tb (one 1 mg q.tg (one 0 mr q.tr w.toNat)))

/-- The words that FILL stages, or the code of its failure (R319, R324, R325); a kind 1 request's are decoded into staging by its codec
job. R324 marks bits [31:24] of word 0 and [31:16] of word 2 of a measurement record as reserved, and R13 calls a record that sets one
invalid, but R325 gives that no code: the model leaves the bits out of account and applies the record (DESIGN CHOICE, log 65). -/
def updFill (s : State) (r : Nat) (q : RgnReq) : Nat ⊕ List Word :=
  let n := rgnCnt s r
  let table := tblBase s + 4 * rgnLo s r
  if q.kind = 0 then (if hbmReadOk s q.src (4 * n) then .inr (memWords s q.src n) else .inl 5)
  else if !hbmReadOk s table (4 * n) || (decide (q.len ≠ 0) && !hbmReadOk s q.src (12 * q.len)) then .inl 5
  else
    let recs := (List.range q.len).map (fun i => memWords s (q.src + 12 * i) 3)
    if recs.any (fun x => decide (n ≤ fld (x.getD 0 0) 0 24)) then .inl 3
    else .inr (recs.foldl (fun (ws : List Word) x =>
      let o := fld (x.getD 0 0) 0 24
      ws.set o (applyMeas q (ws.getD o 0) (fld (x.getD 1 0) 0 16) (fld (x.getD 1 0) 16 16) (fld (x.getD 2 0) 0 16)))
      (memWords s table n))

/-- What FILL reads. -/
def updSpans (s : State) (r : Nat) (q : RgnReq) : List (Nat × Nat) :=
  if q.kind = 0 then [(q.src, 4 * rgnCnt s r)] else [(tblBase s + 4 * rgnLo s r, 4 * rgnCnt s r), (q.src, 12 * q.len)]

/-- Ends a slot's FILL. -/
def dropFill (s : State) (r : Nat) : State := setTrim s { s.trim with fills := s.trim.fills.filter (fun x => decide (x ≠ r)) }

/-- A request that fails in FILL (R325). -/
def fillFail (s : State) (r code : Nat) : State :=
  updNext (updFail (dropFill (setRgn s r { rgn s r with st := 0, req := none }) r) r code) r

/-- Windows of a group that slots hold (R321). -/
def windowsOf (s : State) (g : Nat) : List (Nat × Rgn) :=
  s.trim.rgns.filter (fun e => decide (rgnGroup s e.1 = g) && (decide (e.2.st = 3) || decide (e.2.st = 4) || decide (e.2.st = 5)))

/-- A window number that no slot of the group holds. -/
def freeWindow (s : State) (g : Nat) : Option Nat :=
  (List.range 4).find? (fun w => !((windowsOf s g).any (fun e => decide (e.2.window = w))))

/-- The window comes into force at frame T (R321). -/
def rgnApply (s : State) (r w : Nat) (t : Word) : State :=
  raise (setRgn s r { rgn s r with st := 3, window := w, frameT := t, past := false }) .trim 6

/-- The words are staged and visible: the slot is ARMED; in STOPPED its window comes into force at once (R321). -/
def fillArm (s : State) (r : Nat) : State :=
  let s := dropFill (setRgn s r { rgn s r with st := 2 }) r
  let g := rgnGroup s r
  if (tgen s g).gen = .stopped then
    match freeWindow s g with
    | some w => rgnApply s r w (nextClose (tgen s g))
    | none => s
  else s

/-- The end of FILL of a kind 0 or 2 request: its words go into staging, or it fails. -/
def fillWords (s : State) (r : Nat) (q : RgnReq) : State :=
  let t := eccTouchAll s (updSpans s r q)
  match updFill s r q with
  | .inl c => fillFail t r c
  | .inr ws =>
    if !hbmOk t (stageAt t r) (4 * ws.length) then fillFail t r 5 else fillArm (memPut t (stageAt t r) (bytesOfWords ws)) r

/-- FILL ends for the slot that is being filled. A kind 1 request ends it once its codec job is done, and fails while MEDIA does not run
(R319, R321, R325). -/
def fillDone (s : State) (r : Nat) : State :=
  match s.trim.fills.head?, (rgn s r).req with
  | some r0, some q =>
    if r0 ≠ r ∨ hlpRun s 18 = false ∨ bitOf (reg s .trim Off.TRIM_UPD_CTRL) 0 = false then s
    else if q.kind ≠ 1 then fillWords s r q
    else if (rgn s r).dec = 2 then fillArm s r
    else if islandRuns s islMedia then s else fillFail s r 4
  | _, _ => s

/-- R321. -/
def execUpdFillDone (r : Fin 64) (s : State) : Res := done (fillDone s r.val)

/-! ### The decode of a kind 1 request (R319) -/

/-- The codec's requester word of a slot's request. -/
def rgnAsk (s : State) (r : Nat) : Nat := 40 + 64 * (r + 64 * (rgn s r).run)

/-- The slot in FILL, where its request is of kind 1 and its decode has not ended. -/
def fillDecodes (s : State) : Option (Nat × RgnReq) :=
  match s.trim.fills.head? with
  | some r => match (rgn s r).req with
    | some q => if q.kind = 1 ∧ (rgn s r).dec ≠ 2 then some (r, q) else none
    | none => none
  | none => none

/-- The decode's descriptor: a lossless-capped RGBA8 surface 64 pixels wide, its rows at the least pitch of R276 that R155 allows, into
staging. -/
def fillDesc (s : State) (r : Nat) (q : RgnReq) : List Word :=
  let dst := stageAt s r
  let pitch := 256 * ceilDiv (8 * (rawBlock 0 + 16)) 256
  [BitVec.ofNat 32 (4 * 16), BitVec.ofNat 32 (63 + (rgnCnt s r / 64 - 1) * 65536), BitVec.ofNat 32 q.src, BitVec.ofNat 32 (q.src / 2 ^ 32)
    , BitVec.ofNat 32 pitch, BitVec.ofNat 32 q.len, BitVec.ofNat 32 dst, BitVec.ofNat 32 (dst / 2 ^ 32), 256]

/-- The updater puts the decode on channel c, where UPD_CTRL names that channel. -/
def fillOffer (s : State) (c : Nat) : State :=
  match fillDecodes s with
  | some (r, q) =>
    if (rgn s r).dec ≠ 0 ∨ hlpRun s 18 = false ∨ bitOf (reg s .trim Off.TRIM_UPD_CTRL) 0 = false ∨ regF s .trim Off.TRIM_UPD_CTRL 1 2 ≠ c
    then s
    else setRgn (setIntQueue s c (intQueue s c ++ [(rgnAsk s r, fillDesc s r q, none)])) r { rgn s r with dec := 1 }
  | none => s

/-- The decode of a slot's request has ended with `status`: only 0 completes it (R325). -/
def fillJobEnd (s : State) (req status : Nat) : State :=
  let r := req / 64 % 64
  if rgnAsk s r ≠ req ∨ (rgn s r).st ≠ 1 ∨ (rgn s r).dec ≠ 1 then s
  else if status = 0 then setRgn s r { rgn s r with dec := 2 } else fillFail s r 4

/-- MEDIA leaves RUN: the decode in FILL fails (R325). -/
def fillMediaLost (s : State) : State :=
  match fillDecodes s with
  | some (r, _) => fillFail (dropIntern s (rgnAsk s r)) r 4
  | none => s

/-- The trim updater leaves RUN: running fills fail with code 6 (R325). -/
def updaterLost (s : State) : State :=
  s.trim.fills.foldl (fun t r => updFail (dropFill (setRgn (dropIntern t (rgnAsk t r)) r { rgn t r with st := 0, req := none }) r) r 6) s

/-- The time condition of an ARMED slot at a close of the frame with latch `l` (R321): may apply, and was late. -/
def rgnDue (s : State) (q : RgnReq) (l : Rat) : Bool := !q.atTime || decide (genTimeNs s q.sec q.ns ≤ l)

/-- The close of frame f with latch `l` and previous latch `l0` for group g: windows are dropped, and ARMED slots that are
due take a free window, in slot order (R321). A slot whose own close has passed sets missed. -/
def rgnClose (s : State) (g : Nat) (f : Word) (l l0 : Rat) : State :=
  let mine := s.trim.rgns.filter (fun e => decide (rgnGroup s e.1 = g))
  let s := mine.foldl (fun (t : State) e =>
    if e.2.st = 5 then setRgn t e.1 { e.2 with st := 6, frameU := f, past := false } else t) s
  mine.foldl (fun (t : State) e =>
    match e.2.st, e.2.req, freeWindow t g with
    | 2, some q, some w =>
      if rgnDue t q l then
        let late := q.atTime && decide (genTimeNs t q.sec q.ns ≤ l0)
        rgnApply (setRgn t e.1 { e.2 with missed := e.2.missed || late }) e.1 w f
      else t
    | _, _, _ => t) s

/-- Region windows of a group that stops: they take effect at once (R321). -/
def rgnStopped (s : State) (g : Nat) (f : Word) : State :=
  (s.trim.rgns.filter (fun e => decide (rgnGroup s e.1 = g))).foldl (fun (t : State) e =>
    match e.2.st, freeWindow t g with
    | 5, _ => setRgn t e.1 { e.2 with st := 6, frameU := f, past := false }
    | 2, some w => rgnApply t e.1 w f
    | _, _ => t) s

/-- RAY g or PGRP g leaves IDLE or RUN: every frame of the group has finished (R162), so no slot waits for one any longer. -/
def rgnPast (s : State) (g : Nat) : State :=
  (s.trim.rgns.filter (fun e => decide (rgnGroup s e.1 = g) && (decide (e.2.st = 3) || decide (e.2.st = 6)))).foldl
    (fun (t : State) e => setRgn t e.1 { e.2 with past := true }) s

end Sys2Proof.Machine
end

