-- ==== Sys2Proof/Machine/Channels.lean ====
section
/-!
DEFINITION. The codec's channels as commands start and end their jobs: the host's queue, and the internal jobs of streams and
flows ahead of it (R281 to R290, R468, R494).
-/
namespace Sys2Proof.Machine

/-- Owed frames take their buffers, and the trim updater's decode is queued, before a channel looks for its next job (R319, R468). -/
def chanReady (s : State) (c : Nat) : State := if islandRuns s islMedia then fillOffer (storeOwed s) c else s

/-- Starts the job at the head of channel c's queue where its op satisfies `p`. -/
def chanStart (s : State) (c : Nat) (p : Nat → Bool) : State :=
  let s := chanReady s c
  if codecMayStart s c p then codecStart s c else s

/-- R283: op 0, and an internal DECODE ahead of it. A reserved op also starts here, and ends with status 2. -/
def chanDecode (s : State) (c : Nat) : State :=
  let s := chanReady s c
  if intMayStart s c then intStart s c else chanStart s c (fun o => decide (o = 0) || decide (5 ≤ o))

def execCodecDecode (c : Fin 4) (s : State) : Res := done (chanDecode s c.val)

/-- R283: op 1. -/
def execCodecEncode (c : Fin 4) (s : State) : Res := done (chanStart s c.val (fun o => decide (o = 1)))

/-- R283: op 2. -/
def execCodecTranscode (c : Fin 4) (s : State) : Res := done (chanStart s c.val (fun o => decide (o = 2)))

/-- R283: op 3. -/
def execCodecSaveState (c : Fin 4) (s : State) : Res := done (chanStart s c.val (fun o => decide (o = 3)))

/-- R283: op 4. -/
def execCodecLoadState (c : Fin 4) (s : State) : Res := done (chanStart s c.val (fun o => decide (o = 4)))

/-- The requester of an internal job still stands: its run has not ended. -/
def reqLive (s : State) (req : Nat) : Bool :=
  if req % 64 < 32 then decide (strReq (req % 64) (strAt s (req % 64)) = req)
  else if req % 64 = 40 then false
  else decide (flowReq (req % 64 - 32) (flowAt s (req % 64 - 32)) = req)

/-- The running job ends after at most `limit` blocks: the host's, or an internal one, whose requester goes on. -/
def chanEnd (s : State) (c : Nat) (j : CodecJob) (limit : Nat) (aborted : Bool) : State :=
  match j.intern with
  | none => codecEnd s c j limit aborted
  | some (req, st) =>
    let (o, s) := intEnd s c j st limit aborted
    let s := if reqLive s req then setStSlot s (cjSlot j) { stSlot s (cjSlot j) with st := o.st } else s
    let s := if o.status = 10 ∧ reqLive s req = false then
        (match j.buf with
         | some b => if ownedBy s b ownCodec c then freeFor s b else s
         | none => s)
      else s
    if req % 64 < 32 then strJobEnd s req o.status o.bytesIn o.st.seq
    else if req % 64 = 40 then fillJobEnd s req o.status
    else flowJobEnd s req o.status j.buf c o.st.seq

/-- R286: the running job ends. -/
def execCodecJobEnd (c : Fin 4) (s : State) : Res :=
  done (match codecRun s c.val with
    | none => s
    | some j => chanEnd s c.val j (blocksOf j.w j.h) false)

/-- CTRL.abort (R293): the running job ends at its next block, `blocks` blocks into it, and en clears. -/
def codecAbort (s : State) (c blocks : Nat) : State :=
  let s := setReg s (codecPage c) Off.CODEC_CTRL (reg s (codecPage c) Off.CODEC_CTRL &&& 0xFFFFFFFE)
  match codecRun s c with
  | none => s
  | some j => chanEnd s c j (min blocks (blocksOf j.w j.h)) true

/-- R293. -/
def execCodecAbort (c : Fin 4) (blocks : Nat) (s : State) : Res :=
  done (if pageUp s (.codec c) then codecAbort s c.val blocks else s)

/-- MEDIA leaves IDLE or RUN: jobs and queues are lost, every slot is emptied and freed (R290). -/
def codecLost (s : State) : State :=
  let s := setCodec s CodecUnit.initial
  fillMediaLost (flowMediaLost (storeMediaLost s))

end Sys2Proof.Machine
end

