-- ==== Sys2Proof/Machine/WeirPort.lean ====
section
/-!
DEFINITION. The Weirs as every unit sees them: which islands each joins, its depths and tags, its credits, and the way of a reply
through it (spec/03_islands_and_weirs.md R74 to R77, R80, R81).
-/
namespace Sys2Proof.Machine

def weirAt (s : State) (w : Nat) : Weir := mapGet (fun _ => Weir.initial) s.weirs w
def setWeir (s : State) (w : Nat) (v : Weir) : State := { s with weirs := mapSet (fun _ => Weir.initial) s.weirs w v }

/-! ## The table of R75 -/

/-- Source and target island of a Weir: memory paths 0 to 37, streams 38 to 53, PGRP to RAY 54 to 69, the register path 70 + k,
the control path 114 + k. -/
def weirEnds (w : Nat) : Nat × Nat :=
  if w < 16 then (islRay w, islFab) else if w = 16 then (islMedia, islFab) else if w = 17 then (islHost, islFab)
  else if w = 18 then (islNet, islFab) else if w = 19 then (islCam, islFab) else if w = 20 then (islCtl, islFab)
  else if w < 37 then (islPgrp (w - 21), islFab) else if w = 37 then (islFab, islHbm)
  else if w < 54 then (islRay (w - 38), islPgrp (w - 38)) else if w < 70 then (islPgrp (w - 54), islRay (w - 54))
  else if w < 114 then (islHost, w - 70) else (islCtl, w - 114)

/-- Outstanding tags. -/
def weirTags (w : Nat) : Nat :=
  if w < 16 then 96 else if w < 18 then 128 else if w < 21 then 64 else if w < 37 then 4 else if w = 37 then 2048
  else if w < 54 then 0 else if w < 70 then 8 else if w < 114 then 4 else 8

/-- Request entries. -/
def weirDepth (w : Nat) : Nat :=
  if w < 18 then 32 else if w < 21 then 16 else if w < 37 then 8 else if w < 54 then 64 else if w < 70 then 8
  else if w < 114 then 4 else 8

/-- Reply entries: as many as request entries; a stream has no reply direction. -/
def weirReplyDepth (w : Nat) : Nat := if 38 ≤ w ∧ w < 54 then 0 else weirDepth w

/-- The Weir joins two islands of the part. -/
def weirExists (s : State) (w : Nat) : Bool :=
  decide (w < 158) && islandPresent s.part (weirEnds w).1 && islandPresent s.part (weirEnds w).2
  && decide ((weirEnds w).1 ≠ (weirEnds w).2)

/-- The Weirs of island k. -/
def weirsOf (k : Nat) : List Nat := (List.range 158).filter (fun w => decide ((weirEnds w).1 = k) || decide ((weirEnds w).2 = k))

/-- The Weirs of island k are open on its side: it is IDLE or RUN and is not closing (R78). -/
def weirSide (s : State) (k : Nat) : Bool :=
  islandUp s k && (match (island s k).target with
    | none => true
    | some t => decide (t = .idle) || decide (t = .run))

/-- Every Weir of island k is open: both of its ends are (R88). -/
def weirsOpen (s : State) (k : Nat) : Bool :=
  (weirsOf k).all (fun w => !weirExists s w || (weirSide s (weirEnds w).1 && weirSide s (weirEnds w).2))

/-! ## Credits (R74)

A direction has one credit for each of its entries. A request holds its credit from its acceptance until the target takes it, and a reply
from its entry into the reply queue until the source takes it. -/

/-- The request credits that the source holds. -/
def weirCredit (s : State) (w : Nat) : Nat := weirDepth w - (weirAt s w).queue.length

/-- The reply credits that the target holds. -/
def replyCredit (w : Nat) (v : Weir) : Nat := weirReplyDepth w - v.replies.length

/-- Replies that the target holds enter the reply queue while it has credit. -/
def replyFill (w : Nat) (v : Weir) : Weir :=
  { v with replies := v.replies ++ v.due.take (replyCredit w v), due := v.due.drop (replyCredit w v) }

/-- Every tag that is out of its pool: requests queued or crossed, and those of a closed source that are still carried out. -/
def weirHeld (v : Weir) : List Nat := v.queue.map (·.1) ++ v.shadow ++ v.orphans

/-- The target answers a request. The reply of a closed source's request is discarded, and its tag returns to the pool (R81); any other
waits for the source in the reply direction. -/
def weirReply (s : State) (w tag : Nat) (st : ReplyStatus) (data : List Byte) : State :=
  let v := weirAt s w
  if v.orphans.contains tag then setWeir s w { v with orphans := v.orphans.filter (fun t => decide (t ≠ tag)) }
  else if v.shadow.contains tag && !(v.due ++ v.replies).any (fun r => decide (r.1 = tag)) then
    setWeir s w (replyFill w { v with due := v.due ++ [(tag, st, if st = .ok then data else [])] })
  else s

/-! ## Closing and opening (R78 to R82, R86) -/

/-- The target has closed: every request that has crossed ends ABSENT in tag order, then those still queued; the replies on their way are
discarded. -/
def weirTargetLost (v : Weir) : Weir :=
  let ts := v.shadow.mergeSort (fun a b => decide (a ≤ b)) ++ v.queue.map (·.1)
  { v with queue := [], shadow := [], orphans := [], due := [], replies := []
           lastReply := match ts.getLast? with
             | some t => some (t, .absent, [])
             | none => v.lastReply
           absents := v.absents + ts.length }

/-- The source has closed: its queue and its shadow list are cleared with it; the tags of the requests that the target still carries out
stay out of their pool. -/
def weirSourceLost (v : Weir) : Weir :=
  let answered (t : Nat) : Bool := (v.due ++ v.replies).any (fun r => decide (r.1 = t))
  { Weir.initial with orphans := v.orphans ++ v.shadow.filter (fun t => !answered t) }

/-- Weir w closes as island k does. -/
def closeWeir (k : Nat) (s : State) (w : Nat) : State :=
  setWeir s w (if (weirEnds w).1 = k then weirSourceLost (weirAt s w) else weirTargetLost (weirAt s w))

def closeWeirs (s : State) (k : Nat) : State := (weirsOf k).foldl (closeWeir k) s

/-- On opening, every queue and shadow tag list is empty and every credit is back (R86). -/
def openWeirs (s : State) (k : Nat) : State :=
  (weirsOf k).foldl (fun (t : State) w =>
    setWeir t w { weirAt t w with queue := [], shadow := [], due := [], replies := [], absents := 0 }) s

end Sys2Proof.Machine
end

