-- ==== Sys2Proof/Machine/Header.lean ====
section
/-!
DEFINITION. The words that AON answers for every page, and the words of the fuses and policy that other units also show
(spec/00_scope.md R7, R8, spec/02_register_pages.md R42, spec/03_islands_and_weirs.md R88, R89,
spec/21_firmware_and_update.md R578).
-/
namespace Sys2Proof.Machine

def word (n : Nat) : Word := BitVec.ofNat 32 n

/-- PSTATE.state. -/
def stCode : IslState → Nat
  | .off => 0
  | .reset => 1
  | .idle => 2
  | .run => 3
  | .update => 4
  | .dead => 5

/-- PID; the GLB page's instance field carries the stepping, B0 (R7). -/
def pidOf (p : Page) : Word :=
  word (blockType (kindOf p) * 2 ^ 16 + (if p = .glb then 0x2000 else instOf p * 2 ^ 8) + 1)

/-- PCAP: of GLB (R8), ISL (R89) and HBM (R441); every other page defines no field there. -/
def pcapOf (s : State) : Page → Word
  | .glb =>
    let n := groupCount s.part
    word (b2n (decide (s.part ≠ .af128x16)) * 2 ^ 25 + b2n s.extTemp * 2 ^ 24 + hbmGib s.part * 2 ^ 16 + n * 2 ^ 8 + n)
  | .isl => 0x2C
  | .hbm => word (hbmGib s.part + (if hbmGib s.part = 24 then 12 else 8) * 2 ^ 8)
  | _ => 0

/-- The island's clock runs: in every state but OFF, holdover or not (R42, R88; log 56). -/
def clkOn (s : State) (k : Nat) : Bool := islandPresent s.part k && decide ((island s k).st ≠ .off)

/-- The island's power switch is closed. -/
def pwrOn (s : State) (k : Nat) : Bool := islandPresent s.part k && decide ((island s k).st ≠ .off)

/-- PISL. -/
def pislOf (s : State) (p : Page) : Word :=
  let k := islandOf p
  word (k + b2n (clkOn s k) * 2 ^ 8 + b2n (pwrOn s k) * 2 ^ 9)

/-- A transition of the island is in progress (R42). -/
def movingOf (s : State) (k : Nat) : Bool := islandPresent s.part k && (island s k).target.isSome

/-- PSTATE. -/
def pstateOf (s : State) (k : Nat) : Word := word (stCode (islState s k) + b2n (movingOf s k) * 2 ^ 4)

/-- PCTRL: resume (R42). -/
def pctrlOf (s : State) (k : Nat) : Word := word (b2n (island s k).resume * 2 ^ 8)

/-- IMG_VER. -/
def imgVerOf (s : State) (k : Nat) : Word := if islandPresent s.part k then (island s k).imgVer else 0

/-- ISTAT k (R88). -/
def istatOf (s : State) (k : Nat) : Word :=
  if islandPresent s.part k then
    word (stCode (island s k).st + b2n (movingOf s k) * 2 ^ 4 + b2n (clkOn s k) * 2 ^ 8 + b2n (pwrOn s k) * 2 ^ 9 + 2 ^ 10
      + b2n (weirsOpen s k) * 2 ^ 11 + b2n (island s k).holdover * 2 ^ 12)
  else 0

/-- KEY_STAT: root-key slot 0 is programmed at manufacture (R559). -/
def keyStat (s : State) : Word :=
  let prog (k : Nat) : Bool := decide (k = 0) || (mapGet (fun _ => (none : Option (List Byte))) s.last.keys k).isSome
  let rev (k : Nat) : Bool := s.last.revoked.contains k
  word ((List.range 4).foldl (fun n k =>
    n + b2n (prog k) * 2 ^ k + b2n (rev k) * 2 ^ (8 + k) + b2n (prog k && !rev k) * 2 ^ (16 + k)) 0)

/-- MIN_SVN. -/
def minSvnWord (s : State) : Word :=
  word ((List.range 4).foldl (fun n k => n + mapGet (fun _ => 0) s.last.svn (k + 1) % 256 * 2 ^ (8 * k)) 0)

/-- SYNC.SDN as the device reports it (R118). -/
def sdnOf (s : State) : Nat := let w := reg s .sync Off.SYNC_SDN
  if bitOf w 31 then fld w 0 18 else 0x3FFFF

/-- The SEC.NONCE words in force (R561): a free value. -/
def nonceWord (s : State) (k : Nat) : Word := Config.freeWord (s.cpm.nonce + k)

end Sys2Proof.Machine
end

