-- ==== Sys2Proof/Machine/Sample.lean ====
section
/-!
DEFINITION. Intersection, sampling and accumulation of layers as functions of the frame's snapshots
(spec/08_ray_compositing.md R208 to R224, spec/06_layers_and_surfaces.md R158, R177).
-/
namespace Sys2Proof.Machine

/-! ## Angles in fixed point (R212) -/

/-- Square root of a fixed-point value. -/
def fxSqrt (x : Int) : Int := (isqrt (x.toNat * fxOne) : Nat)

/-- The arctangent series of a small value. -/
def fxAtanSum (z2 : Int) : Nat → Nat → Int → Int
  | 0, _, _ => 0
  | n + 1, k, zp => zp / ((2 * k + 1 : Nat) : Int) - fxAtanSum z2 n (k + 1) (fxMul zp z2)

/-- atan of a value in [0, 1], its argument halved four times. -/
def fxAtan (z : Int) : Int :=
  let half (x : Int) : Int := x * (fxOne : Int) / ((fxOne : Int) + fxSqrt ((fxOne : Int) + fxMul x x))
  let y := half (half (half (half z)))
  16 * fxAtanSum (fxMul y y) 64 0 y

/-- π in fixed point. -/
def fxPi : Int := 4 * fxAtan (fxOne : Int)

/-- atan2(y, x) of fixed-point or integer arguments of one scale, in (-π, π], fixed point; 0 at (0, 0). -/
def fxAtan2 (y x : Int) : Int :=
  if y = 0 ∧ x = 0 then 0
  else
    let ay : Int := y.natAbs
    let ax : Int := x.natAbs
    let q := if ay ≤ ax then fxAtan (ay * (fxOne : Int) / ax) else fxPi / 2 - fxAtan (ax * (fxOne : Int) / ay)
    let r := if x < 0 then fxPi - q else q
    if y < 0 then -r else r

/-! ## Sample positions (R210 to R213) -/

/-- Where taps may fall and how they are brought inside: a corner, a size, and the mapping (R212, R216). -/
inductive TapMap where
  /-- Surface and Plane layers: the edge code. -/
  | edge (e : Nat)
  /-- Equirectangular: columns wrap, rows clamp. -/
  | wrap
  /-- One cube face from column `x0`. -/
  | face (x0 : Int)
deriving DecidableEq, Repr

/-- A sample position in s18.6, with the tap mapping. -/
structure SamplePos where
  sx : Int
  sy : Int
  map : TapMap
deriving DecidableEq, Repr

/-- sat and round to s18.6 (R213). -/
def toS18 (x : Rat) : Int :=
  let lim : Rat := mkRat 8388607 64
  ratHalfEven (ratSat x (-lim) lim * 64)

/-- The width and height a layer's parameters address (R213, R244), and the scale to the sampled surface. -/
def layerDims (v : LayerView) : (Nat × Nat) × (Rat × Rat) :=
  let f := surfOf v.entry
  match v.ratio with
  | some (w, h) => ((w, h), (mkRat f.w w, mkRat f.h h))
  | none => ((f.w, f.h), (1, 1))

/-- A Plane layer's position (R211); none on a miss. -/
def planePos (d : List Word) (g : RayGeo) (w h : Nat) : Option (Rat × Rat) :=
  let o := dVec d 7
  let u := dVec d 10
  let v := dVec d 13
  let nrm := cross v u
  let den := vdot g.dir nrm
  if den = 0 ∨ (bitOf (d.getD 0 0) 8 = false ∧ den < 0) then none
  else
    let t : Rat := mkRat (vdot (vsub o g.org) nrm * (if den < 0 then -1 else 1)) den.natAbs
    let p (f : Vec3 → Int) : Rat := ((f g.org - f o : Int) : Rat) + t * ((f g.dir : Int) : Rat)
    let rdot (v : Vec3) : Rat := p (fun x => x.1) * ((v.1 : Int) : Rat) + p (fun x => x.2.1) * ((v.2.1 : Int) : Rat)
      + p (fun x => x.2.2) * ((v.2.2 : Int) : Rat)
    let cv := cross v nrm
    let cn := cross nrm u
    let a : Rat := rdot cv / ((vdot u cv : Int) : Rat)
    let b : Rat := rdot cn / ((vdot v cn : Int) : Rat)
    some (a * (w : Rat), b * (h : Rat))

/-- Matrix element (i, j) of a Far layer, s2.14 (R168). -/
def farMat (d : List Word) (k : Nat) : Int := signed 16 (fld (d.getD (7 + k / 2) 0) (16 * (k % 2)) 16)

/-- d = M x (-dir) of R212, up to scale. -/
def farDir (d : List Word) (g : RayGeo) : Vec3 :=
  let row (i : Nat) : Int := -(farMat d (3 * i) * g.dir.1 + farMat d (3 * i + 1) * g.dir.2.1 + farMat d (3 * i + 2) * g.dir.2.2)
  (row 0, row 1, row 2)

/-- A Far layer's position (R212). -/
def farPos (d : List Word) (g : RayGeo) (w h : Nat) : Rat × Rat × TapMap :=
  let v := farDir d g
  let dx := v.1
  let dy := v.2.1
  let dz := v.2.2
  if bitOf (d.getD 0 0) 9 = false then
    let pi : Rat := (fxPi : Int)
    let r : Int := fxSqrt ((dx * dx + dz * dz) * (fxOne : Int))
    let a : Rat := ((fxAtan2 dx (-dz) : Int) : Rat) / (2 * pi)
    let b : Rat := ((fxAtan2 (dy * (fxOne : Int)) r : Int) : Rat) / pi
    ((1 / 2 + a) * (w : Rat), (1 / 2 - b) * (h : Rat), .wrap)
  else
    let ax := dx.natAbs
    let ay := dy.natAbs
    let az := dz.natAbs
    let (mj, face, sc, tc) : Nat × Nat × Int × Int :=
      if ay ≤ ax ∧ az ≤ ax then (ax, if dx < 0 then 1 else 0, if dx < 0 then dz else -dz, -dy)
      else if az ≤ ay then (ay, if dy < 0 then 3 else 2, dx, if dy < 0 then -dz else dz)
      else (az, if dz < 0 then 5 else 4, if dz < 0 then -dx else dx, -dy)
    let fr (x : Int) : Rat := if mj = 0 then 1 / 2 else (mkRat x mj + 1) / 2
    (((face : Nat) + fr sc) * (h : Rat), fr tc * (h : Rat), .face ((face * h : Nat) : Int))

/-- The sample position of a layer for a ray; none where it is missed (R210 to R213). -/
def layerPos (v : LayerView) (g : RayGeo) : Option SamplePos :=
  let d := v.desc
  let ((w, h), (kx, ky)) := layerDims v
  match dKind d with
  | 0 =>
    let sx : Rat := mkRat (g.cx - dInt d 7) 256 * mkRat (dScale d 9) 65536
    let sy : Rat := mkRat (g.cy - dInt d 8) 256 * mkRat (dScale d 10) 65536
    some ⟨toS18 (sx * kx), toS18 (sy * ky), .edge (dEdge d)⟩
  | 1 => (planePos d g w h).map (fun p => ⟨toS18 (p.1 * kx), toS18 (p.2 * ky), .edge (dEdge d)⟩)
  | _ =>
    let (x, y, m) := farPos d g w h
    let f := surfOf v.entry
    let m := match m with
      | .face x0 => .face (x0 / (h : Int) * (f.h : Int))
      | m => m
    some ⟨toS18 (x * kx), toS18 (y * ky), m⟩

/-! ## Kernels (R215, R216) -/

/-- A position or a tap number in the width that R216 gives it, its low bits kept (R17). -/
def wrapS (n : Nat) (x : Int) : Int := signed n (code n x)

/-- The taps of a kernel along one axis: tap numbers and weights. -/
def axisTaps (k : Nat) (coef : Nat → Nat → Int) (p : Int) : List (Int × Rat) :=
  match k with
  | 0 => [(p / 64, 1)]
  | 1 =>
    let q := wrapS 24 (p - 32)
    [(q / 64, mkRat (64 - q % 64) 64), (q / 64 + 1, mkRat (q % 64) 64)]
  | _ =>
    let q := wrapS 24 (p - 32)
    (List.range 4).map (fun (j : Nat) => (wrapS 18 (q / 64 - 1) + Int.ofNat j, mkRat (coef (q % 64).toNat j) 16384))

/-- A tap brought inside its surface; none where it stays outside (R212, R216). -/
def mapTap (m : TapMap) (w h : Nat) (x y : Int) : Option (Nat × Nat) :=
  let cl (v : Int) (lo n : Int) : Nat := (sat v lo (lo + n - 1)).toNat
  match m with
  | .edge 0 => if 0 ≤ x ∧ x < w ∧ 0 ≤ y ∧ y < h then some (x.toNat, y.toNat) else none
  | .edge 1 => some (cl x 0 w, cl y 0 h)
  | .edge _ => some ((x % (w : Int)).toNat, (y % (h : Int)).toNat)
  | .wrap => some ((x % (w : Int)).toNat, cl y 0 h)
  | .face x0 => some (cl x x0 h, cl y 0 h)

/-! ## Texels (R158, R217) -/

/-- A texel component through its layer's slot (R158). A slot counts as linear by the curve read: R158 speaks of the slot, whose three
curves can be filled and written apart (DESIGN CHOICE, log 63). -/
def lutConv (s : State) (slot curve f k c : Nat) : Nat :=
  let cv := lutCurve s slot curve
  let through (x16 : Nat) : Nat :=
    let i := x16 / 64
    let e0 := l20Val (curveEntry cv i)
    let e1 := l20Val (curveEntry cv (i + 1))
    toL20 (e0 + (e1 - e0) * mkRat (x16 % 64) 64)
  if f = 3 then
    if cv.preset = 0 ∧ cv.written = false then
      match halfOf c with
      | .nan => 0
      | .inf n => if n then 0 else 0xFFFFF
      | .fin x => toL20 x
    else
      match halfOf c with
      | .nan => through 0
      | .inf n => through (if n then 0 else 65535)
      | .fin x => through (ratHalfEven (ratSat x 0 1 * 65535)).toNat
  else through (rep16 ((fmtDepths f).getD k 16) c)

/-- A texel's alpha, u1.16 (R217). -/
def texAlpha (f : Nat) (p : Pixel) : Nat :=
  let k := if f = 5 then 0 else 3
  match (fmtDepths f)[k]? with
  | none => 0x10000
  | some n =>
    let c := p.getD k 0
    if f = 3 then
      match halfOf c with
      | .nan => 0
      | .inf neg => if neg then 0 else 0x10000
      | .fin x => (ratHalfEven (ratSat x 0 1 * 65536)).toNat
    else
      let a := rep16 n c
      if a = 0xFFFF then 0x10000 else a

/-- A texel's colour codes (R158); an A8 layer's colour is its own. A texel of an invalid block is 0 in every component (R273). -/
def texColour (s : State) (d : List Word) (f : Nat) : Option Pixel → List Nat
  | none => [0, 0, 0]
  | some x =>
    if f = 5 then [fld (d.getD 4 0) 0 20, fld (d.getD 5 0) 0 20, fld (d.getD 6 0) 0 20]
    else (List.range 3).map (fun k => lutConv s (fld (d.getD 0 0) 16 6) k f k (x.getD k 0))

/-- The entry's storage is one that layers sample, and its pair is allowed; else every tap is 0, without a fetch (R156). -/
def surfSampled (f : Surf) : Bool := decide (f.st ≤ 3) && fmtStorageOk f.fmt f.st

/-- Alpha of a texel of a tile; 0 where its block is invalid (R217, R273). -/
def texAlphaOpt (f : Nat) : Option Pixel → Nat
  | some p => texAlpha f p
  | none => 0

/-- The cache key of a tile. -/
def tileKey (b tx ty : Nat) : Nat := b * 2 ^ 26 + ty * 2 ^ 13 + tx

/-- What the cache holds of a tile: nothing, its texels, or that its fetch failed. A failed fetch stands until the cache is next
invalidated, so that every tap of the tile sees one outcome (DESIGN CHOICE, log 64). -/
def cached (cache : AMap Tile) (b tx ty : Nat) : Option Tile :=
  match mapGet (fun _ => .pixels []) cache (tileKey b tx ty) with
  | .pixels [] => none
  | t => some t

/-- A tile of a buffer: from the engine's cache, else from HBM (R214, R219). -/
def tileOf (s : State) (cache : AMap Tile) (v : LayerView) (tx ty : Nat) : Tile :=
  match cached cache v.buf tx ty with
  | none => readTile s (surfOf v.entry) tx ty
  | some t => t

/-! ## Opacity (R177, R223) -/

/-- A 16 x 16 tile's summary bit; a read that ends ABSENT or POISON leaves it not opaque (R176, R219). -/
def summaryBit (s : State) (f : Surf) (tx ty : Nat) : Bool :=
  let a := f.sumBase + ty * sumStride f.w + tx / 64 * 8
  hbmReadOk s a 8 && (memVal s a 8).testBit (tx % 64)

/-- A tile of a layer counts as fully opaque (R177). -/
def tileOpaque (s : State) (v : LayerView) (tx ty : Nat) : Bool :=
  let f := surfOf v.entry
  decide (dAlpha v.desc = 0x8000) &&
    (decide (f.fmt = 4) || (bitOf (v.desc.getD 0 0) 11 && f.sumValid && summaryBit s f tx ty))

/-! ## One layer's sample (R216 to R219, R223) -/

/-- A sample: colours (L20), alpha (u1.16), opq, the tiles it read, and whether a fetch of them failed. -/
structure Sampled where
  col : List Nat
  al : Nat
  opq : Bool
  tiles : List (Nat × Nat)
  failed : Bool
deriving DecidableEq, Repr

/-- The taps of a position: coordinates after the mapping, and weights. -/
def tapsAt (k : Nat) (coef : Nat → Nat → Int) (f : Surf) (p : SamplePos) : List (Option (Nat × Nat) × Rat) :=
  (axisTaps k coef p.sy).flatMap (fun y =>
    (axisTaps k coef p.sx).map (fun x => (mapTap p.map f.w f.h x.1 y.1, x.2 * y.2)))

/-- A layer counts as not hit where every tap lies outside (R218). -/
def allOutside (ts : List (Option (Nat × Nat) × Rat)) : Bool := ts.all (fun t => t.1.isNone)

/-- Samples a layer at its taps. -/
def sampleAt (s : State) (cache : AMap Tile) (v : LayerView)
    (ts : List (Option (Nat × Nat) × Rat)) : Sampled :=
  let f := surfOf v.entry
  let got := ts.map (fun t => match t.1 with
    | none => (t.2, ([0, 0, 0] : List Nat), 0, false)
    | some (x, y) =>
      if surfSampled f = false then (t.2, [0, 0, 0], 0, false)
      else match tileOf s cache v (x / 8) (y / 8) with
      | .absent => (t.2, [0, 0, 0], 0, true)
      | .poison => (t.2, [0, 0, 0], 0, true)
      | .pixels ps =>
        let p := ps.getD (blockIndex x y) none
        (t.2, texColour s v.desc f.fmt p, texAlphaOpt f.fmt p, false))
  let colour (k : Nat) : Nat :=
    toL20 (got.foldl (fun (acc : Rat) g => acc + g.1 * l20Val (g.2.1.getD k 0)) 0)
  let a : Rat := got.foldl (fun (acc : Rat) g => acc + g.1 * mkRat g.2.2.1 65536) 0
  let xy := ts.filterMap (·.1)
  { col := [colour 0, colour 1, colour 2], al := (ratHalfEven (ratSat a 0 1 * 65536)).toNat
    opq := if dKind v.desc = 2 then decide (f.fmt = 4) && decide (dAlpha v.desc = 0x8000)
           else decide (xy.length = ts.length) && xy.all (fun t => tileOpaque s v (t.1 / 16) (t.2 / 16))
    tiles := if surfSampled f then (xy.map (fun t => (t.1 / 8, t.2 / 8))).eraseDups else []
    failed := got.any (fun g => g.2.2.2) }

/-! ## Accumulation (R221) -/

/-- What a march holds: transmittance, colours, samples taken, tiles read by buffer, faults by stack entry. -/
structure March where
  tr : Nat
  acc : List Rat
  n : Nat
  tiles : List (Nat × Nat × Nat)
  faults : List Nat
deriving DecidableEq, Repr

/-- The march over stack entries from index j (R221). -/
def march (s : State) (cache : AMap Tile) (coef : Nat → Nat → Nat → Int) (dcap tStop : Nat)
    (skip : Bool) (cull : Nat) (g : RayGeo) : List (Nat × Option LayerView) → March → March
  | [], m => m
  | (j, ov) :: r, m =>
    let go (m' : March) : March := march s cache coef dcap tStop skip cull g r m'
    if cull ≤ j then m
    else match ov with
      | none => go m
      | some v =>
        if v.shown = false ∨ dAlpha v.desc = 0 then go m
        else match layerPos v g with
          | none => go m
          | some p =>
            let ts := tapsAt (dKernel v.desc) (coef (dKernel v.desc - 2)) (surfOf v.entry) p
            if allOutside ts then go m
            else if m.n = dcap then m
            else
              let x := sampleAt s cache v ts
              let la := 2 * dAlpha v.desc
              let alpha := (halfEven (x.al * la : Nat) 65536).toNat
              let w : Rat := if bitOf (v.desc.getD 0 0) 7 then mkRat la 65536 else mkRat alpha 65536
              let acc := (m.acc.zip x.col).map (fun c => c.1 + mkRat m.tr 65536 * w * l20Val c.2)
              let tr := (halfEven (m.tr * (65536 - alpha) : Nat) 65536).toNat
              let tr := if skip && x.opq then 0 else tr
              let m' : March := { tr := tr, acc := acc, n := m.n + 1
                                  tiles := m.tiles ++ x.tiles.map (fun t => (v.buf, t.1, t.2))
                                  faults := if x.failed then j :: m.faults else m.faults }
              if tr ≤ tStop then m' else go m'

/-! ## Culling (R224) -/

/-- A footprint edge mapped into a layer's texels (R210, R213), s18.6. -/
def footEdge (c c0 scale : Int) (k : Rat) : Int := toS18 (mkRat (c - c0) 256 * mkRat scale 65536 * k)

/-- The entry can stop the module: it covers the widened footprint and every touched tile is opaque (R224). -/
def cullsAt (s : State) (v : LayerView) (ctx : List Word) (tc : Word) : Bool :=
  let d := v.desc
  let f := surfOf v.entry
  let (lw, lh) := layoutDims (cOrient ctx) (tHW tc) (tHH tc)
  let (_, (kx, ky)) := layerDims v
  let ex (n : Int) : Int := footEdge (cCanX ctx + n * cCanSx ctx) (dInt d 7) (dScale d 9) kx
  let ey (n : Int) : Int := footEdge (cCanY ctx + n * cCanSy ctx) (dInt d 8) (dScale d 10) ky
  let x0 := min (ex 0) (ex lw) - 128
  let x1 := max (ex 0) (ex lw) + 128
  let y0 := min (ey 0) (ey lh) - 128
  let y1 := max (ey 0) (ey lh) + 128
  if dKind d ≠ 0 ∨ v.shown = false ∨ dAlpha d ≠ 0x8000 then false
  else if x0 < 0 ∨ y0 < 0 ∨ (f.w * 64 : Nat) < x1 ∨ (f.h * 64 : Nat) < y1 then false
  else
    let span (a b : Int) : List Nat := (List.range (b.toNat / 1024 + 1)).filter (fun t =>
      decide (a < ((t + 1) * 1024 : Nat)) && decide (((t * 1024 : Nat) : Int) < b))
    let xs := span x0 x1
    let ys := span y0 y1
    if f.fmt = 4 then true
    else decide (xs.length * ys.length ≤ 64) && ys.all (fun y => xs.all (fun x => tileOpaque s v x y))

/-- A register of the RENG page as the frame's snapshot holds it. -/
def frReg (fr : EngFrame) (off : Nat) : Word := mapGet (regResetOf .reng) fr.regs off

/-- cull_from of a module (R224). -/
def cullFrom (s : State) (fr : EngFrame) (ph : Nat) (ctx : List Word) (tc : Word) : Nat :=
  let ids := fr.stackIds.getD ph []
  let views := (ids.zipIdx).map (fun x => (x.2, (fr.layers.find? (fun l => decide (l.1 = x.1))).map (·.2)))
  if bitOf (frReg fr Off.RENG_CTRL) 0 = false then ids.length
  else match views.find? (fun x => match x.2 with
      | some v => cullsAt s v ctx tc
      | none => false) with
    | some x => x.1 + 1
    | none => ids.length

end Sys2Proof.Machine
end

