-- ==== Sys2Proof/Machine/Compose.lean ====
section
/-!
DEFINITION. The ray engines: chunks of rays, composition, the output LUT, signatures, the write-back tap, the trim
unit's drive codes, and the life of a frame in an engine (spec/07_ray_generation.md R192, R193,
spec/08_ray_compositing.md R219 to R241, spec/11_lamp_correction.md R298, R314).
-/
namespace Sys2Proof.Machine

def eng (s : State) (e : Nat) : Engine := mapGet (fun _ => Engine.initial) s.eng e
def setEng (s : State) (e : Nat) (v : Engine) : State := { s with eng := mapSet (fun _ => Engine.initial) s.eng e v }
def engPage (e : Nat) : Page := .reng (Fin.ofNat 16 e)

/-! ## Rays of a frame (R192) -/

/-- The context words of ring `r`'s module `m` in a frame of group g. -/
def frCtx (fr : EngFrame) (g r m : Nat) : List Word := ctxWords fr.ctx (ctxNum (16 * g + r) m)

/-- The next served module of a ring at or after `m`. -/
def nextModule (fr : EngFrame) (g r m : Nat) : Option Nat :=
  (List.range 192).find? (fun k => decide (m ≤ k) && ctxServed fr.types (frCtx fr g r k))

/-- The next lamp of a ring at or after a position (module, lamp). -/
def ringNext (fr : EngFrame) (g r pos : Nat) : Option (Nat × Nat) :=
  match nextModule fr g r (pos / 65536) with
  | none => none
  | some m =>
    let l := if m = pos / 65536 then pos % 65536 else 0
    if l < tLamps (typeOf fr.types (cType (frCtx fr g r m))) then some (m, l)
    else (nextModule fr g r (m + 1)).map (fun k => (k, 0))

/-- The ring whose lamps come next in the phase, and the lamp (R192, R227). -/
def nextRing (v : Engine) (fr : EngFrame) (g : Nat) : Option (Nat × Nat × Nat) :=
  ((List.range 16).map (fun k => (v.nextRing + k) % 16)).findSome? (fun r =>
    if v.passed.contains r then none
    else (ringNext fr g r (mapGet (fun _ => 0) v.at_ r)).map (fun p => (r, p.1, p.2)))

/-- Every ray of the frame's present phase has been generated. -/
def phaseDone (v : Engine) (fr : EngFrame) (g : Nat) : Bool := (nextRing v fr g).isNone

/-- The engine has passed every ray of its frame to the trim unit. -/
def frameSent (v : Engine) (fr : EngFrame) (g : Nat) : Bool :=
  decide (fr.phases ≤ v.phase + 1) && phaseDone v fr g && v.rays.isEmpty

/-- A module's views and patch are read (R193, R224): ABSENT where FAB does not answer or an entry lies beyond the mesh. -/
def patchLoad (s : State) (g r m : Nat) : State :=
  let v := eng s g
  match v.cur with
  | none => s
  | some fr =>
    let x := frCtx fr g r m
    if ctxServed fr.types x = false ∨ (mapGet (fun _ => none) v.loads (r * 192 + m)).isSome = true then s
    else
      let tc := typeOf fr.types (cType x)
      let n := cMeshW x * cMeshH x
      let void := !islandUp s islFab || decide (meshSize < cMeshBase x + n)
      let verts := if void then [] else (List.range n).flatMap (fun k => (List.range 3).map (fun w => meshWord s (cMeshBase x + k) w))
      let views := (List.range (tVW tc * tVH tc)).map (viewOf s (cType x))
      let ld : ModLoad := { ctx := x, tc := tc, views := views, verts := verts, void := void, cull := cullFrom s fr v.phase x tc }
      raiseIf void .geom 4 (setEng s g { v with loads := mapSet (fun _ => none) v.loads (r * 192 + m) (some ld) })

/-- R193. -/
def execModulePatchLoad (e ring : Fin 16) (m : Fin 192) (s : State) : Res := done (patchLoad s e.val ring.val m.val)

/-- The rays of one chunk: up to `n` consecutive lamps of ring r from (m, l), while their modules are loaded; with the
position after them. -/
def chunkRays (v : Engine) (fr : EngFrame) (g r : Nat) : Nat → Nat → List RayRec → List RayRec × Nat
  | 0, pos, acc => (acc.reverse, pos)
  | n + 1, pos, acc =>
    match ringNext fr g r pos with
    | none => (acc.reverse, pos)
    | some (m, l) =>
      match mapGet (fun _ => none) v.loads (r * 192 + m) with
      | none => (acc.reverse, pos)
      | some ld =>
        let geo : RayGeo := if ld.void then ⟨(0, 0, 0), (0, 0, 0), 0, 0, false⟩
          else rayOf ld.ctx ld.tc (fun k => ld.views.getD k (0, 0, 0)) ld.verts l
        chunkRays v fr g r n (m * 65536 + l + 1)
          ({ ring := r, m := m, l := l, phase := v.phase, geo := geo, void := ld.void, cull := ld.cull, last := false } :: acc)

/-- Marks the last ray of a chunk. -/
def markLast : List RayRec → List RayRec
  | [] => []
  | [x] => [{ x with last := true }]
  | x :: r => x :: markLast r

/-- R192: the next chunk of the frame; where the phase has no ray left, the next phase begins. -/
def rayChunk (s : State) (g : Nat) : State :=
  let v := eng s g
  match v.cur with
  | none => s
  | some fr =>
    match nextRing v fr g with
    | none =>
      if v.phase + 1 < fr.phases then
        setEng s g { v with phase := v.phase + 1, at_ := [], nextRing := 0, loads := [] }
      else s
    | some (r, m, l) =>
      let (rs, pos) := chunkRays v fr g r 48 (m * 65536 + l) []
      if rs.isEmpty then s
      else
        let t := setEng s g { v with rays := v.rays ++ markLast rs, at_ := mapSet (fun _ => 0) v.at_ r pos, nextRing := (r + 1) % 16 }
        raiseIf (rs.any (fun x => x.geo.degenerate)) .geom 3 t

/-- R192. -/
def execRayChunk (e : Fin 16) (s : State) : Res := done (rayChunk s e.val)

/-! ## Texel fetches (R219) -/

/-- A fetch of a tile that the cache does not hold: it ends, its outcome enters the cache, and a failure raises its event (R219). -/
def tileFetch (s : State) (g b tx ty : Nat) (f : Surf) : State :=
  if (cached (eng s g).cache b tx ty).isSome ∨ surfSampled f = false then s
  else
    let t := readTile s f tx ty
    let s := eccTouchAll s (tileSpans f tx ty)
    let v := eng s g
    let s := setEng s g { v with cache := mapSet (fun _ => .pixels []) v.cache (tileKey b tx ty) t }
    raiseIf (decide (t = .poison)) (engPage g) 3 (raiseIf (decide (t = .absent)) (engPage g) 2 s)

/-- R219: a miss's reply for a buffer that the frame samples. -/
def texelReply (s : State) (g b tx ty : Nat) : State :=
  match (eng s g).cur with
  | none => s
  | some fr =>
    match fr.layers.find? (fun l => decide (l.2.buf = b)) with
    | none => s
    | some l =>
      let f := surfOf l.2.entry
      if f.w ≤ 8 * tx ∨ f.h ≤ 8 * ty then s else tileFetch s g b tx ty f

/-- R219. -/
def execTexelFetchReply (e : Fin 16) (b : Fin 16384) (tx ty : Fin 8192) (s : State) : Res :=
  done (texelReply s e.val b.val tx.val ty.val)

/-! ## Output LUT and coefficient sets (R220, R228, R229) -/

/-- Entry k of a filled curve (R228). -/
def olutFill (k : Nat) : Nat := if k < 4096 then k * 256 else 0xFFFFF

def olutEntry (v : Engine) (copy c k : Nat) : Nat := mapGet olutFill (mapGet (fun _ => []) v.olut (3 * copy + c)) k

/-- R228 on one colour; a falling written curve that leads below 0 gives 0. -/
def olutMap (v : Engine) (copy c x : Nat) : Nat :=
  let e0 := l20Val (olutEntry v copy c (x / 256))
  let e1 := l20Val (olutEntry v copy c (x / 256 + 1))
  toL20 (e0 + (e1 - e0) * mkRat (x % 256) 256)

/-- A copy is busy: named by OLUT_SEL in force or by a pending commit (R229). -/
def olutBusy (s : State) (g copy : Nat) : Bool :=
  decide (forceF s (engPage g) Off.RENG_OLUT_SEL 0 1 = copy) || (match (cslot s (engPage g) 0).pending with
    | some p => decide (fld (snapRead p.snap (engPage g) 0 Off.RENG_OLUT_SEL) 0 1 = copy)
    | none => false)

/-- OLUT_CTRL.fill (R229). -/
def olutFillStart (s : State) (g : Nat) : State :=
  let v := eng s g
  let w := reg s (engPage g) Off.RENG_OLUT_CTRL
  let copy := fld w 0 1
  if olutBusy s g copy ∨ v.ofill.isSome = true then raise s (engPage g) 9
  else setEng s g { v with ofill := some (copy, fld w 1 2) }

/-- A write of OLUT_CTRL. -/
def writeOlutCtrl (s : State) (g : Nat) (w : Word) : State :=
  let s := writePlain s (engPage g) Off.RENG_OLUT_CTRL w
  if bitOf w 8 then olutFillStart s g else s

/-- R229. -/
def execOlutFillStart (e : Fin 16) (copy : Bool) (curve : Fin 4) (s : State) : Res :=
  done (if pageUp s (.reng e) then writeOlutCtrl s e.val (BitVec.ofNat 32 (b2n copy + curve.val * 2 + 256)) else s)

/-- R229: the fill is complete. -/
def execOlutFillDone (e : Fin 16) (s : State) : Res :=
  let v := eng s e.val
  done (match v.ofill with
    | none => s
    | some (copy, c) =>
      setEng s e.val { v with
        ofill := none
        olut := (curvesOf c).foldl (fun m x => mapSet (fun _ => []) m (3 * copy + x) []) v.olut })

/-- One OLUT_DATA access (R229, R626); an entry a running fill may have reached reads as either. -/
def olutAccess (s : State) (g : Nat) (w : Option Word) : State :=
  let p := engPage g
  let v := eng s g
  let copy := regF s p Off.RENG_OLUT_CTRL 0 1
  let c := if regF s p Off.RENG_OLUT_CTRL 1 2 = 3 then 0 else regF s p Off.RENG_OLUT_CTRL 1 2
  let a := regF s p Off.RENG_OLUT_ADDR 0 13
  let s' := match w with
    | some x =>
      if 4096 < a then s
      else if olutBusy s g copy ∨ v.ofill.isSome = true then raise s p 9
      else setEng s g { v with olut := mapSet (fun _ => []) v.olut (3 * copy + c)
                                (mapSet olutFill (mapGet (fun _ => []) v.olut (3 * copy + c)) a (x.toNat % 2 ^ 20)) }
    | none =>
      if 4096 < a then { s with lastRead := 0 }
      else
        let old := olutEntry v copy c a
        match v.ofill with
        | some (fc, fk) =>
          if fc = copy ∧ (curvesOf fk).contains c = true then
            let (n, t) := draw s
            { t with lastRead := BitVec.ofNat 32 (if Config.freeBool n then olutFill a else old) }
          else { s with lastRead := BitVec.ofNat 32 old }
        | none => { s with lastRead := BitVec.ofNat 32 old }
  advance s' p Off.RENG_OLUT_ADDR 13

/-- R626. -/
def execOlutDataAccess (e : Fin 16) (write : Option Word) (s : State) : Res :=
  done (if pageUp s (.reng e) then olutAccess s e.val write
        else { s with lastRead := if write.isNone then 0xFFFFFFFF else s.lastRead })

/-- A coefficient after RAY's reset: Catmull-Rom in every set (R220). -/
def kernDefault (k : Nat) : Nat := code 16 (catmull (k / 4 % 64) (k % 4))

/-- Coefficient of a set at a phase and tap, s1.14. -/
def kernOf (v : Engine) (set f j : Nat) : Int := signed 16 (mapGet kernDefault v.kern (set * 256 + 4 * f + j))

/-- A set is busy while a layer of bank g in force or pending names it (R220). -/
def kernBusy (s : State) (g set : Nat) : Bool :=
  ((layrBank s g).descs ++ pendDescs s g).any (fun d => decide (dKernel d.2 = set + 2))

/-- One KERN_DATA access (R220, R626). -/
def kernAccess (s : State) (g : Nat) (w : Option Word) : State :=
  let p := engPage g
  let v := eng s g
  let set := regF s p Off.RENG_KERN_SEL 0 2
  let k := set * 256 + regF s p Off.RENG_KERN_ADDR 0 8
  let s' := match w with
    | some x => if kernBusy s g set then raise s p 10
                else setEng s g { v with kern := mapSet kernDefault v.kern k (x.toNat % 2 ^ 16) }
    | none => { s with lastRead := BitVec.ofNat 32 (mapGet kernDefault v.kern k) }
  advance s' p Off.RENG_KERN_ADDR 8

/-- R626. -/
def execKernDataAccess (e : Fin 16) (write : Option Word) (s : State) : Res :=
  done (if pageUp s (.reng e) then kernAccess s e.val write
        else { s with lastRead := if write.isNone then 0xFFFFFFFF else s.lastRead })

/-! ## Signatures (R230 to R232) -/

def sigCfg (fr : EngFrame) (r : Nat) : Word := frReg fr (Off.RENG_SIG_CFG + 16 * r)

/-- A ray lies in an active region (R230). -/
def inRegion (c : Word) (ph ring m : Nat) : Bool :=
  bitOf c 0 && decide (fld c 4 2 = ph) && decide (fld c 8 4 = ring) && decide (fld c 16 8 ≤ m) && decide (m ≤ fld c 24 8)

/-- A composed ray enters the CRCs of its regions. -/
def sigRay (fr : EngFrame) (v : Engine) (x : RayRec) (y : List Nat) : Engine :=
  let bs := leBytes 8 (y.getD 0 0 + y.getD 1 0 * 2 ^ 20 + y.getD 2 0 * 2 ^ 40)
  { v with sig := (List.range 64).foldl (fun m r =>
      if inRegion (sigCfg fr r) x.phase x.ring x.m then
        mapSet (fun _ => 0xFFFFFFFF) m r (crcRun 0xEDB88320 (mapGet (fun _ => 0xFFFFFFFF) m r) bs)
      else m) v.sig }

/-- Bits of SIG_TRIP and SIG_MIS. -/
def sigBit (s : State) (g off r : Nat) : Bool := bitOf (reg s (engPage g) (off + 4 * (r / 32))) (r % 32)
def setSigBit (s : State) (g off r : Nat) (b : Bool) : State :=
  setReg s (engPage g) (off + 4 * (r / 32)) (putBit (reg s (engPage g) (off + 4 * (r / 32))) (r % 32) b)

/-- SIG_TRIPPED (R241). -/
def sigLevel (s : State) (g : Nat) : State :=
  setLevel s (engPage g) 5 (decide (reg s (engPage g) Off.RENG_SIG_TRIP_LO ≠ 0) || decide (reg s (engPage g) Off.RENG_SIG_TRIP_HI ≠ 0))

/-- A region's CRC is taken and compared (R231). -/
def sigTake (s : State) (g : Nat) (fr : EngFrame) (r : Nat) : State :=
  let v := eng s g
  let c := sigCfg fr r
  let crc : Word := BitVec.ofNat 32 (mapGet (fun _ => 0xFFFFFFFF) v.sig r ^^^ 0xFFFFFFFF)
  let s := setEng s g { v with sigDone := r :: v.sigDone }
  let s := setReg s (engPage g) (Off.RENG_SIG_CRC + 16 * r) crc
  if bitOf c 1 = false then s
  else if crc = frReg fr (Off.RENG_SIG_EXP + 16 * r) then setSigBit s g Off.RENG_SIG_MIS_LO r false
  else
    let s := raise (setSigBit s g Off.RENG_SIG_MIS_LO r true) (engPage g) 4
    if fld c 2 2 = 0 ∨ sigBit s g Off.RENG_SIG_TRIP_LO r = true then s
    else
      let v := eng s g
      let s := setEng s g { v with trips := mapSet (fun _ => none) v.trips r (some ⟨fld c 8 4, fld c 16 8, fld c 24 8, fld c 2 2⟩) }
      sigLevel (setSigBit s g Off.RENG_SIG_TRIP_LO r true) g

/-- Rays of a region are still to be generated in a frame (R192). -/
def sigAhead (v : Engine) (fr : EngFrame) (g : Nat) (c : Word) : Bool :=
  let pos := if fld c 4 2 = v.phase then mapGet (fun _ => 0) v.at_ (fld c 8 4) else 0
  decide (v.phase ≤ fld c 4 2) && (match ringNext fr g (fld c 8 4) (max pos (65536 * fld c 16 8)) with
    | none => false
    | some (m, _) => decide (m ≤ fld c 24 8))

/-- The last ray of a region has been composed. -/
def sigReady (s : State) (g : Nat) (fr : EngFrame) (r : Nat) : Bool :=
  let v := eng s g
  let c := sigCfg fr r
  bitOf c 0 && decide (fld c 4 2 < fr.phases) && decide (fld c 4 2 ≤ v.phase) && !v.sigDone.contains r
  && !v.rays.any (fun x => inRegion c x.phase x.ring x.m) && !sigAhead v fr g c

/-- The engine passes over a ring for the rest of its frame: the ring's regions with rays still to come complete in it no more
(R227, R232). -/
def passRing (v : Engine) (fr : EngFrame) (g i : Nat) : Engine :=
  let lost := (List.range 64).filter (fun r => bitOf (sigCfg fr r) 0 && decide (fld (sigCfg fr r) 8 4 = i) && sigAhead v fr g (sigCfg fr r))
  { v with passed := marks v.passed [i], sigDone := lost ++ v.sigDone }

/-- R231. -/
def execSigRegionComplete (e : Fin 16) (r : Fin 64) (s : State) : Res :=
  done (match (eng s e.val).cur with
    | none => s
    | some fr => if sigReady s e.val fr r.val then sigTake s e.val fr r.val else s)

/-- The host ends an engaged action; it leaves the frames from the next stream start (R231). -/
def sigTripClear (s : State) (g r : Nat) : State :=
  let v := eng s g
  sigLevel (setSigBit (setEng s g { v with trips := mapSet (fun _ => none) v.trips r none }) g Off.RENG_SIG_TRIP_LO r false) g

/-- A write of SIG_TRIP_LO or SIG_TRIP_HI. -/
def writeSigTrip (s : State) (g : Nat) (hi : Bool) (w : Word) : State :=
  (List.range 32).foldl (fun t b => if bitOf w b then sigTripClear t g (b + (if hi then 32 else 0)) else t) s

/-- R231. -/
def execSigTripClear (e : Fin 16) (r : Fin 64) (s : State) : Res :=
  done (if pageUp s (.reng e) then sigTripClear s e.val r.val else s)

/-- Action `a` applies to a module of the frame (R231). -/
def tripped (fr : EngFrame) (a ring m : Nat) : Bool :=
  fr.trips.any (fun t => decide (t.action = a) && decide (t.ring = ring) && decide (t.first ≤ m) && decide (m ≤ t.last))

/-! ## The write-back tap (R233, R234) -/

/-- The snapshots are those of frame f. -/
def frameIs (f : Word) (x : Option EngFrame) : Bool :=
  match x with
  | some fr => decide (fr.frame = f)
  | none => false

/-- The tap's copy of a ray: its address and bytes, where the ray is tapped. -/
def tapCopy (fr : EngFrame) (x : RayRec) (trim : Nat) (y : List Nat) : Option (Word × Nat × List Byte) :=
  let c := frReg fr Off.RENG_WB_CTRL
  let lo := fld (frReg fr Off.RENG_WB_TRIM_LO) 0 30
  let n := fld (frReg fr Off.RENG_WB_COUNT) 0 31
  let base := (frReg fr Off.RENG_WB_BASE_LO).toNat + fld (frReg fr Off.RENG_WB_BASE_HI) 0 3 * 2 ^ 32
  if bitOf c 0 ∧ fld c 1 2 = x.phase ∧ bitOf c (16 + x.ring) = true ∧ lo ≤ trim ∧ trim < lo + n then
    some (fr.frame, base + 8 * (trim - lo),
      (List.range 3).flatMap (fun k => leBytes 2 (toHalf (l20Val (y.getD k 0)))) ++ leBytes 2 (fr.frame.toNat % 65536))
  else none

/-- Copies the fabric takes from the tap's queue: written, or ended ABSENT. -/
def tapDrain (s : State) (g n : Nat) : State :=
  let v := eng s g
  setEng (hbmPut s ((v.wbq.take n).map (·.2))) g { v with wbq := v.wbq.drop n }

/-- A copy enters the tap's queue of 4,096 entries, or is dropped with the rest of the frame's (R234). -/
def tapPush (s : State) (g : Nat) (c : Word × Nat × List Byte) : State :=
  let v := eng s g
  if v.wbDrop then s
  else if 4096 ≤ v.wbq.length then raise (setEng s g { v with wbDrop := true }) (engPage g) 8
  else setEng s g { v with wbq := v.wbq ++ [c] }

/-- R234: every copy of the oldest tapped frame that was not dropped or abandoned is written. -/
def tapDone (s : State) (g : Nat) : State :=
  let v := eng s g
  match v.wbDue with
  | [] => s
  | f :: rest =>
    if frameIs f v.cur then s
    else
      let t := tapDrain s g (v.wbq.takeWhile (fun c => decide (c.1 = f))).length
      raise (setEng t g { eng t g with wbDue := rest }) (engPage g) 7

/-- R234. -/
def execWbFrameDone (e : Fin 16) (s : State) : Res := done (tapDone s e.val)

/-! ## Composition of one ray (R208, R209, R221, R228) -/

/-- The stack of a phase with its layers. -/
def frStack (fr : EngFrame) (ph : Nat) : List (Nat × Option LayerView) :=
  ((fr.stackIds.getD ph []).zipIdx).map (fun x => (x.2, (fr.layers.find? (fun l => decide (l.1 = x.1))).map (·.2)))

/-- The march of a ray. -/
def rayMarch (s : State) (v : Engine) (fr : EngFrame) (x : RayRec) : March :=
  march s v.cache (kernOf v) fr.dcap (fld (frReg fr Off.RENG_T_STOP) 0 16) (bitOf (frReg fr Off.RENG_CTRL) 1) x.cull x.geo
    (frStack fr x.phase) ⟨0x10000, [0, 0, 0], 0, [], []⟩

/-- The codes that leave the compositor: the background through what transmittance is left, then the output LUT; a void
ray gives 0 in every colour and bypasses it (R221, R228). -/
def rayOut (v : Engine) (fr : EngFrame) (x : RayRec) (m : March) : List Nat :=
  if x.void then [0, 0, 0]
  else (List.range 3).map (fun k =>
    let bg := fld (frReg fr (Off.RENG_BG_R + 16 * x.phase + 4 * k)) 0 20
    let out := toL20 (m.acc.getD k 0 + mkRat m.tr 65536 * l20Val bg)
    olutMap v (fld (frReg fr Off.RENG_OLUT_SEL) 0 1) k out)

/-- The trim record of a composed ray. -/
def codeRec (fr : EngFrame) (g : Nat) (x : RayRec) (y : List Nat) : CodeRec :=
  let c := frCtx fr g x.ring x.m
  { frame := fr.frame, ring := x.ring, m := x.m, l := x.l, phase := x.phase, y := y, trim := cTrimBase c + x.l
    block := wearBlock c (typeOf fr.types (cType c)) x.l, ty := cType c, band := cBand c, zero := tripped fr 2 x.ring x.m
    last := x.last, reading := bitOf fr.trimCtl 0 }

/-- The faults of a march enter the frame's fault bits (R219). -/
def marchFaults (v : Engine) (ph : Nat) (m : March) : Engine :=
  { v with faults := mapSet (fun _ => 0) v.faults ph
             (m.faults.foldl (fun (acc : Word) j => putBit acc j true) (mapGet (fun _ => 0) v.faults ph)) }

/-- The oldest generated ray of a frame is composed and passes to the trim unit. -/
def composeRay (s : State) (g : Nat) (fr : EngFrame) (x : RayRec) : State :=
  let v := eng s g
  let m := if x.void then ⟨0x10000, [0, 0, 0], 0, [], []⟩ else rayMarch s v fr x
  let y := rayOut v fr x m
  let rec_ := codeRec fr g x y
  let s := setEng s g (sigRay fr (marchFaults { v with rays := v.rays.drop 1, codes := v.codes ++ [rec_] } x.phase m) x y)
  let s := m.tiles.foldl (fun (t : State) (k : Nat × Nat × Nat) =>
    match fr.layers.find? (fun l => decide (l.2.buf = k.1)) with
    | some l => tileFetch t g k.1 k.2.1 k.2.2 (surfOf l.2.entry)
    | none => t) s
  match tapCopy fr x rec_.trim y with
  | some c => tapPush s g c
  | none => s

/-- The trim reads that are out: each holds one of the engine's 32 trim tags (R75, R299). -/
def trimReads (v : Engine) : Nat := (v.codes.filter (fun x => x.reading)).length

/-- A trim tag of RAY g is free: neither the trim unit's reads nor other requests hold all 32 (R75). -/
def trimTagFree (s : State) (g : Nat) : Bool :=
  decide (trimReads (eng s g) + ((weirHeld (weirAt s g)).filter (fun t => decide (64 ≤ t))).length < 32)

/-- R221: the oldest generated ray is composed, once the trim read it needs has a tag (R299); `taken` tap copies have left the queue since
the last. -/
def rayCompose (s : State) (g taken : Nat) : State :=
  let s := tapDrain s g taken
  match (eng s g).cur, (eng s g).rays with
  | some fr, x :: _ => if bitOf fr.trimCtl 0 = false ∨ trimTagFree s g = true then composeRay s g fr x else s
  | _, _ => s

/-- R221. -/
def execRayCompose (e : Fin 16) (taken : Nat) (s : State) : Res := done (rayCompose s e.val taken)

/-! ## The trim unit (R298, R305, R307, R314, R329) -/

/-- An event of single lamps: raised at most once per phase of a frame (R329). -/
def lampEvent (s : State) (g : Nat) (f : Word) (ph b : Nat) (c : Bool) : State :=
  let v := eng s g
  if c ∧ v.seen.contains (f, ph * 16 + b) = false then raise (setEng s g { v with seen := (f, ph * 16 + b) :: v.seen }) .trim b
  else s

/-- Where a lamp's trim word is read: the table, or the staging of a window over its index (R321). -/
def trimWordAt (s : State) (fr : EngFrame) (x : Nat) : Nat :=
  match fr.windows.find? (fun w => decide (w.1 ≤ x) && decide (x < w.1 + w.2.1)) with
  | some w => w.2.2 + 4 * (x - w.1)
  | none => tblBase s + 4 * x

/-- The trim word of a lamp, and the event it raises (R298). -/
def trimWord (s : State) (fr : EngFrame) (x : Nat) : Word × Option Nat :=
  let a := trimWordAt s fr x
  if bitOf fr.trimCtl 0 = false then (neutralTrim, none)
  else if tblWords s ≤ x ∨ tblValid s = false then (neutralTrim, some 2)
  else if hbmOk s a 4 = false then (neutralTrim, some 0)
  else if memPoison s a 4 then (neutralTrim, some 1)
  else (memWord s a, none)

/-- The wear gain word of a lamp's block; 0 where there is none (R305, R307, R314). -/
def wearWord (s : State) (fr : EngFrame) (b : Nat) : Word :=
  if bitOf fr.trimCtl 1 = false ∨ wearBlocks s ≤ b ∨ hbmReadOk s (wgainAt s fr.half b) 4 = false then 0
  else memWord s (wgainAt s fr.half b)

/-- A drive code's output enters its block's sums (R307). -/
def wearAdd (m : AMap Word) (t k b code_ : Nat) (w : AMap WearSum) : AMap WearSum :=
  let d := fun (_ : Nat) => (⟨0, 0, 0, 0⟩ : WearSum)
  let o := mapGet d w b
  let out (i : Nat) : Nat :=
    let c := nfld code_ (16 * i) 16
    tStep m t k i (c / 2 ^ 13) * (c % 2 ^ 13)
  mapSet d w b ⟨o.r + out 0, o.g + out 1, o.b + out 2, o.n + 1⟩

/-- What the trim unit reads for a lamp: its trim word and its block's gain word, where they are read at all (R298, R305). -/
def trimSpans (s : State) (fr : EngFrame) (x : CodeRec) : List (Nat × Nat) :=
  (if bitOf fr.trimCtl 0 && decide (x.trim < tblWords s) && tblValid s then [(trimWordAt s fr x.trim, 4)] else [])
  ++ (if bitOf fr.trimCtl 1 && decide (x.block < wearBlocks s) then [(wgainAt s fr.half x.block, 4)] else [])

/-- The snapshots of the frame that a composed ray belongs to. -/
def codeFrame (v : Engine) (x : CodeRec) : Option EngFrame := (v.tails ++ v.cur.toList).find? (fun fr => decide (fr.frame = x.frame))

/-- The chunk of a composed ray cannot enter the stream Weir, which holds 64 (R75, R192). -/
def streamFull (v : Engine) (x : CodeRec) : Bool := x.last && decide (64 ≤ v.stream.length)

/-- A full chunk enters the stream Weir; toward a closed PGRP it is dropped (R83, R192). -/
def trimSend (s : State) (g : Nat) (c : Chunk) : State :=
  let v := eng s g
  setEng s g { v with chunk := [], stream := if weirSide s (islPgrp g) then v.stream ++ [c] else v.stream }

/-- The record of a frame's wear for its second, where the frame is its sampled frame (R307). -/
def wearSample (s : State) (g : Nat) (fr : EngFrame) (abandoned : Bool) : State :=
  match fr.sampled with
  | none => s
  | some sec => wearRecord s g ⟨sec, if abandoned then .rate else .sums (eng s g).wear⟩

/-- The oldest frame whose codes waited in the trim unit has none left: its wear is complete (R307). -/
def tailDone (s : State) (g : Nat) : State :=
  let v := eng s g
  match v.tails with
  | [] => s
  | fr :: rest =>
    if v.codes.any (fun x => decide (x.frame = fr.frame)) then s
    else
      let s := wearSample s g fr false
      setEng s g { eng s g with tails := rest, wear := [] }

/-- One composed ray of frame `fr` gets its code: with its trim word and gain, its events, and its part in its block's wear. -/
def lampCode (s : State) (g : Nat) (fr : EngFrame) (x : CodeRec) : State :=
  let (tw, ev) := trimWord s fr x.trim
  let k := tsetSel fr.tsetLo fr.tsetHi x.ty
  let (c, clip) := driveCode fr.tsets x.ty k x.band x.y tw (wearWord s fr x.block) fr.att
  let c := if x.zero then 0 else c
  let beyond := decide (wearBlocks s ≤ x.block)
  let s := eccTouchAll s (trimSpans s fr x)
  let v := eng s g
  let s := setEng s g { v with codes := v.codes.drop 1, chunk := (x.m, x.l, c) :: v.chunk
                               wear := if bitOf tw 29 || beyond then v.wear else wearAdd fr.tsets x.ty k x.block c v.wear }
  let s := if x.last then trimSend s g ⟨fr.frame, x.phase, x.ring, (eng s g).chunk.reverse⟩ else s
  let s := lampEvent s g fr.frame x.phase 3 clip
  let s := lampEvent s g fr.frame x.phase 2 (decide (ev = some 2) || beyond)
  let s := lampEvent s g fr.frame x.phase 0 (decide (ev = some 0))
  lampEvent s g fr.frame x.phase 1 (decide (ev = some 1))

/-- R298, R314: the oldest composed ray's trim word arrives, and its code joins its chunk; while the stream Weir has no credit for a chunk
that is full, nothing moves (R74). -/
def trimReply (s : State) (g : Nat) : State :=
  match (eng s g).codes with
  | [] => s
  | x :: _ =>
    match codeFrame (eng s g) x with
    | none => s
    | some fr => if streamFull (eng s g) x && weirSide s (islPgrp g) then s else tailDone (lampCode s g fr x) g

/-- R298. -/
def execTrimWordReply (e : Fin 16) (s : State) : Res := done (trimReply s e.val)

/-! ## The life of a frame (R135, R226, R227, R232, R241) -/

/-- DCAP_LIMITED (R226, R241). -/
def dcapLevel (s : State) (g : Nat) : State :=
  setLevel s (engPage g) 6 (decide ((eng s g).therm < forceF s (engPage g) Off.RENG_DEPTH 0 6))

/-- Rings whose Pennant of frame f has left (R227). -/
def ringsGone (s : State) (g : Nat) (f : Word) : List Nat :=
  (List.range 16).filter (fun i => match (ringAt s (16 * g + i)).penFrame with
    | some q => frameGe q f
    | none => false)

/-- The engine takes up a frame; rings whose Pennant of it has left are passed over from the start (R227). A further attempt keeps what its
frame has raised (R329). -/
def engBegin (s : State) (g : Nat) (fr : EngFrame) : State :=
  let v := eng s g
  let live (f : Word) : Bool := decide (f = fr.frame) || v.tails.any (fun t => decide (t.frame = f))
  let v := { v with cur := some fr, waiting := none, phase := 0, at_ := [], nextRing := 0, passed := [], loads := [], cache := []
                    rays := [], seen := v.seen.filter (fun e => live e.1), sig := [], sigDone := [], wbDrop := false
                    wbDue := if bitOf (frReg fr Off.RENG_WB_CTRL) 0 then (if v.wbDue.contains fr.frame then v.wbDue else v.wbDue ++ [fr.frame]) else v.wbDue
                    faults := [], dcap := fr.dcap }
  setEng s g ((ringsGone s g fr.frame).foldl (fun (u : Engine) i => passRing u fr g i) v)

/-- R135: a waiting frame-start command begins once the engine is free. -/
def composeBegin (s : State) (g : Nat) : State :=
  let v := eng s g
  match v.cur, v.waiting with
  | none, some fr => engBegin s g fr
  | _, _ => s

/-- R135. -/
def execFrameComposeBegin (g : Fin 16) (s : State) : Res := done (composeBegin s g.val)

/-- The fault bits of the frame that ends become FAULT_MAP (R219, R238). -/
def faultMap (s : State) (g : Nat) : State :=
  (List.range 4).foldl (fun t k => setReg t (engPage g) (Off.RENG_FAULT_MAP + 4 * k) (mapGet (fun _ => 0) (eng s g).faults k)) s

/-- The engine is free of its frame. -/
def engEnd (s : State) (g : Nat) (fr : EngFrame) (abandoned : Bool) : State :=
  let s := faultMap s g
  let v := eng s g
  setEng s g { v with cur := none, rays := [], loads := [], at_ := [], abandoned := abandoned, doneFrame := fr.frame, faults := [] }

/-- The codes of frame f that wait in the trim unit are discarded, and the chunk being filled with them (R227, R382). -/
def dropCodes (v : Engine) (f : Word) : Engine :=
  let mine := match v.codes with
    | x :: _ => decide (x.frame = f)
    | [] => true
  { v with codes := v.codes.filter (fun x => decide (x.frame ≠ f)), chunk := if mine then [] else v.chunk
           wear := if v.tails.isEmpty || frameIs f v.tails.head? then [] else v.wear
           tails := v.tails.filter (fun t => decide (t.frame ≠ f)) }

/-- R241: every ray of the frame has passed to the trim unit. Regions whose last ray is composed are taken first. -/
def frameComposed (s : State) (g : Nat) : State :=
  match (eng s g).cur with
  | none => s
  | some fr =>
    if frameSent (eng s g) fr g = false then s
    else
      let s := (List.range 64).foldl (fun t r => if sigReady t g fr r then sigTake t g fr r else t) s
      let s := engEnd s g fr false
      raise (tailDone (setEng s g { eng s g with tails := (eng s g).tails ++ [fr] }) g) (engPage g) 0

/-- R241. -/
def execFrameComposed (e : Fin 16) (s : State) : Res := done (frameComposed s e.val)

/-- The engine abandons its frame (R227). -/
def engAbandon (s : State) (g : Nat) (fr : EngFrame) : State :=
  let s := wearSample s g fr true
  raise (engEnd (setEng s g (dropCodes (eng s g) fr.frame)) g fr true) (engPage g) 1

/-- RAY g leaves IDLE or RUN: everything it holds is lost (R69, R83). -/
def engLost (s : State) (g : Nat) : State := setEng s g Engine.initial

end Sys2Proof.Machine
end

