-- ==== Sys2Proof/Machine/Blocks.lean ====
section
/-!
DEFINITION. The blocks of a ring lane: line code, scrambler, control block layouts, flag parts and Pennants
(spec/12_bunting_physical.md R332 to R335, spec/13_bunting_protocol.md R358 to R364, R372, R383 to R387,
spec/14_lamp_diagnostics.md R404).
-/
namespace Sys2Proof.Machine

/-! ## Line code (R332, R333) -/

/-- The self-synchronising scrambler 1 + x^39 + x^58 over `n` payload bits in transmission order, at most 39 at a time: each
line bit is the payload bit, the line bit 39 before it and the one 58 before it, added. The state holds the last 58 line bits,
the oldest in bit 0. The line bits and the new state. -/
def scrambleBits : Nat → Nat → Nat → Nat × Nat
  | 0, _, st => (0, st)
  | n + 1, p, st =>
    let k := if n = 0 then 11 else 39
    let b := (p ^^^ (st / 2 ^ 19) ^^^ st) % 2 ^ k
    let r := scrambleBits n (p / 2 ^ k) ((st + b * 2 ^ 58) / 2 ^ k)
    (b + r.1 * 2 ^ k, r.2)

/-- A payload's 128 line bits: three times 39 and then 11. -/
def scramble128 (p st : Nat) : Nat × Nat := scrambleBits 4 p st

/-- The descrambler of the same polynomial: what a receiver makes of 128 line bits, and its new state. -/
def descramble128 (l st : Nat) : Nat × Nat :=
  let t := st + l * 2 ^ 58
  ((l ^^^ (t / 2 ^ 19) ^^^ t) % 2 ^ 128, t / 2 ^ 128)

/-- A block's 130 line bits, the header in [1:0]: 0b01 data, 0b10 control; and the scrambler's state after it. -/
def lineBits (b : Block) (st : Nat) : Nat × Nat :=
  let r := scramble128 b.payload st
  ((if b.ctrl then 2 else 1) + 4 * r.1, r.2)

/-- The line bits of a run of blocks, the last first. -/
def lineRun : List Block → Nat → List Nat → List Nat
  | [], _, acc => acc
  | b :: bs, st, acc => let r := lineBits b st
                        lineRun bs r.2 (r.1 :: acc)

/-- What a receiver reads from 130 line bits: no block where the header is invalid, 0b00 or 0b11. -/
def ofLine (l st : Nat) : Option Block × Nat :=
  let r := descramble128 (l / 4) st
  (if l % 4 = 1 then some ⟨false, r.1⟩ else if l % 4 = 2 then some ⟨true, r.1⟩ else none, r.2)

/-- Block lock over headers received in order, newest first (R334): whether a lock held before the newest is held after it. -/
def blockLock (locked : Bool) (heads : List Nat) : Bool :=
  let good (h : Nat) : Bool := decide (h = 1) || decide (h = 2)
  let w := heads.take 64
  if locked then decide ((w.filter (fun h => !good h)).length < 16) else decide (w.length = 64) && w.all good

/-! ## Control blocks (R335, R358) -/

/-- CRC-32C over payload bytes 0 to 11, in [127:96] (R358). -/
def withCrc (v : Nat) : Nat :=
  let b := v % 2 ^ 96
  b + (crc32c (leBytes 12 b)).toNat * 2 ^ 96

/-- A control block passes its CRC. -/
def crcOk (v : Nat) : Bool := decide (withCrc v = v)

def ctrlBlock (v : Nat) : Block := ⟨true, withCrc v⟩
def fillBlock : Block := ⟨true, 0xF0⟩

/-- A field value at a bit position. -/
def at_ (v len lo : Nat) : Nat := v % 2 ^ len * 2 ^ lo

/-- FLAG_HEAD (R360). -/
def flagHead (dest kind phase gen : Nat) (frame : Word) (nData base : Nat) : Block :=
  ctrlBlock (0x01 + at_ dest 8 8 + at_ kind 2 16 + at_ phase 2 18 + at_ gen 4 20 + at_ frame.toNat 32 24
    + at_ nData 16 56 + at_ base 16 72)

/-- CHECK of a segment of data payloads (R363). -/
def checkBlock (dest seg : Nat) (datas : List Nat) : Block :=
  ⟨true, 0x02 + at_ dest 8 8 + at_ seg 8 16 + (crc32c (datas.flatMap (leBytes 16))).toNat * 2 ^ 96⟩

/-- Data blocks with a CHECK after every 30 and one after any remaining (R361). -/
def withChecks (dest : Nat) : Nat → Nat → List Nat → List Block
  | 0, _, _ => []
  | n + 1, seg, ds =>
    if ds.isEmpty then []
    else (ds.take 30).map (fun d => ⟨false, d⟩) ++ [checkBlock dest seg (ds.take 30)] ++ withChecks dest n (seg + 1) (ds.drop 30)

/-- Splits a bit string of a given length into 128-bit data payloads (R362). -/
def dataOf (bits len : Nat) : List Nat := (List.range (ceilDiv len 128)).map (fun j => nfld bits (128 * j) 128)

/-- Bits of a list of drive codes, lamp 0 first (R362). -/
def codeBits : List Nat → Nat
  | [] => 0
  | c :: r => c % 2 ^ 48 + codeBits r * 2 ^ 48

/-- A FULL part (R360 to R362). -/
def fullPart (dest phase gen : Nat) (frame : Word) (codes : List Nat) : List Block :=
  let ds := dataOf (codeBits codes) (48 * codes.length)
  flagHead dest 0 phase gen frame ds.length 0 :: withChecks dest (ds.length + 1) 0 ds

/-- The rows of a module's codes. -/
def rowsOf (lw : Nat) : Nat → List Nat → List (List Nat)
  | 0, _ => []
  | n + 1, cs => cs.take lw :: rowsOf lw n (cs.drop lw)

/-- Bits and length of a DELTA sequence: for each row a bit, then its codes where it changed (R364). -/
def deltaBits : List (Bool × List Nat) → Nat × Nat
  | [] => (0, 0)
  | (c, cs) :: r =>
    let t := deltaBits r
    if c then (1 + 2 * (codeBits cs + t.1 * 2 ^ (48 * cs.length)), 1 + 48 * cs.length + t.2)
    else (2 * t.1, 1 + t.2)

/-- A DELTA part. -/
def deltaPart (dest phase gen : Nat) (frame : Word) (base : Nat) (rows : List (Bool × List Nat)) : List Block :=
  let (b, n) := deltaBits rows
  let ds := dataOf b n
  flagHead dest 1 phase gen frame 0 base :: withChecks dest (ds.length + 1) 0 ds

/-- A BLANK (kind 2) or KEEP (kind 3) part. -/
def barePart (dest kind gen : Nat) (frame : Word) : List Block := [flagHead dest kind 0 gen frame 0 0]

/-- FILL pads that follow a part 0 shorter than 4 blocks (R368). -/
def padPart (bs : List Block) : List Block := bs ++ List.replicate (4 - bs.length) fillBlock

/-- The row digest of R364: CRC-32C over 6 bytes a lamp. -/
def rowDigest (cs : List Nat) : Word := crc32c (cs.flatMap (leBytes 6))

/-- PENNANT_A and PENNANT_B (R372). -/
def pennant (kind gen vt fine : Nat) (frame : Word) (still phases : Nat) (ofs : List Nat) : List Block :=
  let ph (k : Nat) : Nat := if k + 1 < phases then ofs.getD k 0 else 0
  [ctrlBlock (0x20 + at_ kind 2 8 + at_ gen 4 10 + at_ vt 8 14 + at_ fine 16 22 + at_ frame.toNat 32 38 + at_ still 26 70),
   ctrlBlock (0x21 + at_ (phases - 1) 2 8 + at_ (ph 0) 26 10 + at_ (ph 1) 26 36 + at_ (ph 2) 26 62)]

/-- ASSIGN (R373). -/
def assignBlock (dest h : Nat) : Block := ctrlBlock (0x40 + at_ dest 8 8 + at_ h 24 16)

/-- WITHDRAW (R383). -/
def withdrawBlock (gen : Nat) (frame : Word) : Block := ctrlBlock (0x10 + at_ gen 4 8 + at_ frame.toNat 32 32)

/-- PROBE with its entries, two to a block (R404). -/
def probeBlock (dest : Nat) (frame : Word) (e0 e1 : Nat) : Block :=
  ctrlBlock (0x70 + at_ dest 8 8 + at_ frame.toNat 32 16 + at_ e0 24 48 + at_ e1 24 72)

/-- DIAG_CFG (R404). -/
def diagCfgBlock (dest window : Nat) : Block := ctrlBlock (0x71 + at_ dest 8 8 + at_ window 16 16)

/-- MFW_ACTIVATE (R387). -/
def mfwActivateBlock (dest : Nat) (frame : Word) : Block := ctrlBlock (0x51 + at_ dest 8 8 + at_ frame.toNat 32 16)

/-- A relay chunk: MFW_HEAD, its data blocks and one CHECK (R385). -/
def mfwChunk (dest off : Nat) (last : Bool) (ds : List Nat) : List Block :=
  [ctrlBlock (0x50 + at_ dest 8 8 + at_ off 32 20 + at_ ds.length 8 52 + at_ (b2n last) 1 60)]
    ++ ds.map (fun d => ⟨false, d⟩) ++ [checkBlock dest 0 ds]

/-- MEAS train: MEAS_HEAD and 192 empty slots (R335, R346). -/
def measTrain (seq : Nat) : List Block := ⟨true, 0xF5 + at_ seq 8 8⟩ :: List.replicate 192 ⟨true, 0xF6⟩

/-- The enumeration train (R335, R344). -/
def enumTrain : List Block :=
  [⟨true, 0xF2 + at_ 192 8 8⟩] ++ List.replicate 192 ⟨true, 0xF3⟩ ++ [⟨true, 0xF4⟩]

/-- STEP to a target, with the FILL blocks that follow it (R335, R349). -/
def stepBlocks (target : Nat) : List Block := ⟨true, 0xF7 + at_ target 3 8⟩ :: List.replicate 16 fillBlock

/-- SLEEP, with the FILL blocks that follow it (R335, R351). -/
def sleepBlocks (kind : Nat) : List Block := ⟨true, 0xF8 + at_ kind 2 8⟩ :: List.replicate 8 fillBlock

/-- Device TRAIN (R335). -/
def trainBlock (origin seq : Nat) : Block := ⟨true, 0xF1 + at_ origin 1 8 + at_ seq 16 16⟩

end Sys2Proof.Machine
end

