-- ==== Sys2Proof/Machine/Link.lean ====
section
/-!
DEFINITION. The link of a ring port: commands, training, enumeration, measurement of hop delays, rate steps, the
low-power states, lane settings (spec/12_bunting_physical.md R338 to R356).
-/
namespace Sys2Proof.Machine

/-- Blocks leave on a ring's lane, in order, in the lane's line code (R332, R333). -/
def emit (s : State) (p : Nat) (bs : List Block) : State :=
  let r := ringAt s p
  setRing s p { r with out := bs.reverse ++ r.out, line := lineRun bs (Config.laneState p r.runs).toNat r.line, runs := r.runs + 1 }

/-- The first of the device's TRAIN blocks; the spec states no first sequence (R335, R343; log 69). -/
def sendTrain (s : State) (p : Nat) : State :=
  let (n, s) := draw s
  emit s p [trainBlock 0 (fld (Config.freeWord n) 0 16)]

/-- LINK_CFG fields of a ring. -/
def linkF (s : State) (p lo len : Nat) : Nat := regF s (bportPage p) Off.BPORT_LINK_CFG lo len

/-- The lowest max_step of the modules enumerated; 4 with none. -/
def lowStep (r : Ring) : Nat := (List.range r.n).foldl (fun acc m => min acc (modEnt r m).maxStep) 4

/-- The step that R345 and R350 allow the ring: the cap of LINK_CFG, every module's, and the limit that failed steps
leave. -/
def negotiated (s : State) (p : Nat) : Nat :=
  let r := ringAt s p
  min (min (min 4 (linkF s p 0 3)) (lowStep r)) r.limit

def allIdle (r : Ring) : Bool := (List.range r.n).all (fun m => (modEnt r m).idleCap)
def allDeep (r : Ring) : Bool := (List.range r.n).all (fun m => (modEnt r m).deepCap)

/-- The edge limit of a step; TX_STAT shows what is applied (R342). -/
def edgeLimit (step : Nat) : Nat := if step ≤ 2 then 3 else if step = 3 then 2 else 1

/-- Puts the link in a state; a pending TX_CFG takes effect as UP is left (R341), and what UP had in hand is dropped. -/
def setLink (s : State) (p st : Nat) : State :=
  let r := ringAt s p
  let r := if r.st = 6 ∧ st ≠ 6 then
      { r with tx := reg s (bportPage p) Off.BPORT_TX_CFG, txPending := false, remeas := false, asm := [], serve := []
               pf := none, sent := [], started := [], forced := [] }
    else r
  let r := if r.st = 6 ∧ st ∉ [6, 7, 8] then { r with penOut := false, penFrame := none, sent0 := [], got := [] } else r
  ringLevels (setRing s p { r with st := st }) p

/-- DOWN: the transmitter is silent (R343). -/
def linkDown (s : State) (p : Nat) : State :=
  let s := setLink s p 0
  setRing s p { ringAt s p with rxLock := false, meas := [], afterStep := false, limit := 4, out := [], line := [] }

/-- RESET: the transmitter is silent and the step is S0; `limit` is the highest step still attempted (R343, R350). -/
def linkReset (s : State) (p limit : Nat) : State :=
  let s := setLink s p 1
  setRing s p { ringAt s p with rxLock := false, meas := [], afterStep := false, step := 0, limit := limit, out := [], line := [] }

/-- D_p (R373), rl in raw u16.8 ns. -/
def penLead (rl : Nat) : Nat := 16 * ceilDiv (rl + 300 * 256) (16 * 256)

/-- The ASSIGN blocks of a ring, and the DIAG_CFG block where it is due (R373, R404); D_p comes into use with them. -/
def sendAssign (s : State) (p : Nat) (assign diag : Bool) : State :=
  let r := ringAt s p
  let dp := if assign then penLead r.rl else r.dp
  let s := setRing s p { r with dp := dp, assignDue := false, diagDue := false }
  let s := if assign then emit s p ((List.range r.n).map (fun m => assignBlock m (256 * dp - (modEnt r m).hop))) else s
  if diag then emit s p [diagCfgBlock 0xFF (fld (forceBank s .diag (p / 16) Off.DIAG_PRB_WINDOW) 0 16)] else s

/-- Entry to UP: every module is marked need_full and has its ASSIGN before any Pennant (R365, R373, R389). -/
def linkUp (s : State) (p : Nat) : State :=
  let s := setLink s p 6
  let r := ringAt s p
  let s := setRing s p { r with rxLock := true, needFull := List.range r.n, content := [], remeas := false, meas := [], limit := r.limit }
  sendAssign (ringLevels s p) p true true

/-- A command that the state does not allow (R343). -/
def linkRefuse (s : State) (p : Nat) : State := raise s (bportPage p) 10

/-- Starts a measurement in MEASURE (R346). -/
def startMeasure (s : State) (p : Nat) : State :=
  let s := setLink s p 4
  let s := setRing s p { ringAt s p with meas := [], rxLock := true }
  emit s p (measTrain 0)

/-! ## Link commands (R343, R347, R350, R351, R353) -/

/-- up: a DOWN ring leaves for RESET, unless its reference is off or not locked (R340, R343, R356). -/
def linkCmdUp (s : State) (p : Nat) : State :=
  if (ringAt s p).st ≠ 0 then s
  else if forceF s (bgrpPage (p / 16)) Off.BGRP_REF_CFG 0 1 = 0 ∨ (bgrpAt s (p / 16)).pll = false then linkRefuse s p
  else linkReset s p 4

/-- down acts in every state (R343). -/
def linkCmdDown (s : State) (p : Nat) : State := linkDown s p

/-- remeasure (R343, R347): in UP one train a frame; in DOWN it is refused. -/
def linkCmdRemeasure (s : State) (p : Nat) : State :=
  let r := ringAt s p
  if r.st = 0 then linkRefuse s p
  else if r.st = 6 then setRing s p { r with remeas := true, meas := [] }
  else startMeasure s p

/-- Enters STEP toward a target. -/
def enterStep (s : State) (p target : Nat) : State :=
  let s := setLink s p 5
  setRing s p { ringAt s p with target := target }

/-- restep (R343, R350): the target is the negotiated step of R345 again. -/
def linkCmdRestep (s : State) (p : Nat) : State :=
  let r := ringAt s p
  if r.st ≠ 6 then linkRefuse s p
  else
    let s := setRing s p { r with limit := 4 }
    enterStep s p (negotiated s p)

/-- Group g sends ring i DARK Pennants in ENSIGN (R145, R235). -/
def ensDark (s : State) (g i : Nat) : Bool :=
  decide (s.ens.group ≠ some g) || (mapGet (fun _ => none) s.ens.rings i).isNone

/-- The ring goes to sleep: SLEEP, 8 FILL blocks, silence; the modules' silence follows, and the receiver loses block lock
(R334, R351). -/
def linkSleep (s : State) (p st : Nat) : State :=
  let s := setLink s p st
  emit (setRing s p { ringAt s p with rxLock := false }) p (sleepBlocks (if st = 7 then 1 else 2))

/-- sleep 1 (R351). -/
def linkCmdIdle (s : State) (p : Nat) : State :=
  let g := (tgen s (p / 16)).gen
  if (ringAt s p).st = 6 ∧ (g = .stopped ∨ g = .slack) ∧ allIdle (ringAt s p) = true then linkSleep s p 7 else linkRefuse s p

/-- sleep 2 (R351). -/
def linkCmdDeep (s : State) (p : Nat) : State :=
  let g := (tgen s (p / 16)).gen
  if (ringAt s p).st = 6 ∧ (g = .stopped ∨ (g = .ensign ∧ ensDark s (p / 16) (p % 16) = true)) ∧ allDeep (ringAt s p) = true then
    linkSleep s p 8
  else linkRefuse s p

/-- Starts to wake (R353). -/
def startWake (s : State) (p : Nat) : State :=
  let deep := decide ((ringAt s p).st = 8)
  let s := setLink s p 9
  sendTrain (setRing s p { ringAt s p with fromDeep := deep, out := [], line := [] }) p

/-- wake (R353). -/
def linkCmdWake (s : State) (p : Nat) : State :=
  if (ringAt s p).st = 7 ∨ (ringAt s p).st = 8 then startWake s p else linkRefuse s p

/-- A command of a ring is refused while its link manager is not in RUN (R551). -/
def lmCmd (s : State) (p : Nat) (f : State → State) : State := if hlpRun s (p / 16) then f s else linkRefuse s p

/-- A write of LINK_CMD: down first, then the other commands in bit order; sleep 3 is refused (R354). -/
def writeLinkCmd (s : State) (p : Nat) (v : Word) : State :=
  let run (c : Bool) (f : State → Nat → State) (t : State) : State := if c then lmCmd t p (fun u => f u p) else t
  let s := run (bitOf v 1) linkCmdDown s
  let s := run (bitOf v 0) linkCmdUp s
  let s := run (bitOf v 2) linkCmdRemeasure s
  let s := run (bitOf v 3) linkCmdRestep s
  let s := run (decide (fld v 4 2 = 1)) linkCmdIdle s
  let s := run (decide (fld v 4 2 = 2)) linkCmdDeep s
  let s := if fld v 4 2 = 3 then linkRefuse s p else s
  run (bitOf v 6) linkCmdWake s

/-- A command of the host on a page that answers. -/
def onPage (s : State) (p : Page) (f : State → State) : State := if pageUp s p then f s else s

def execLinkCmdUp (p : Fin 256) (s : State) : Res := done (onPage s (.bport p) (fun (t : State) => lmCmd t p.val (fun u => linkCmdUp u p.val)))
def execLinkCmdDown (p : Fin 256) (s : State) : Res := done (onPage s (.bport p) (fun (t : State) => lmCmd t p.val (fun u => linkCmdDown u p.val)))
def execLinkCmdRemeasure (p : Fin 256) (s : State) : Res := done (onPage s (.bport p) (fun (t : State) => lmCmd t p.val (fun u => linkCmdRemeasure u p.val)))
def execLinkCmdRestep (p : Fin 256) (s : State) : Res := done (onPage s (.bport p) (fun (t : State) => lmCmd t p.val (fun u => linkCmdRestep u p.val)))
def execLinkCmdSleepIdle (p : Fin 256) (s : State) : Res := done (onPage s (.bport p) (fun (t : State) => lmCmd t p.val (fun u => linkCmdIdle u p.val)))
def execLinkCmdSleepDeep (p : Fin 256) (s : State) : Res := done (onPage s (.bport p) (fun (t : State) => lmCmd t p.val (fun u => linkCmdDeep u p.val)))
def execLinkCmdWake (p : Fin 256) (s : State) : Res := done (onPage s (.bport p) (fun (t : State) => lmCmd t p.val (fun u => linkCmdWake u p.val)))

/-- The rings of a group that a mask names, in rising order. -/
def maskRings (g mask : Nat) : List Nat := ((List.range 16).filter (fun i => mask.testBit i)).map (fun i => 16 * g + i)

/-- GRP_CMD: the same command to each ring named; any other op does nothing (R356). -/
def grpCmd (s : State) (g op mask : Nat) : State :=
  (maskRings g mask).foldl (fun (t : State) p => match op with
    | 1 => lmCmd t p (fun u => linkCmdUp u p)
    | 2 => lmCmd t p (fun u => linkCmdDown u p)
    | 3 => lmCmd t p (fun u => linkCmdRemeasure u p)
    | 4 => lmCmd t p (fun u => linkCmdRestep u p)
    | _ => t) s

def execGrpCmdUp (g : Fin 16) (mask : BitVec 16) (s : State) : Res :=
  done (onPage s (.bgrp g) (fun (t : State) => grpCmd t g.val 1 mask.toNat))
def execGrpCmdDown (g : Fin 16) (mask : BitVec 16) (s : State) : Res :=
  done (onPage s (.bgrp g) (fun (t : State) => grpCmd t g.val 2 mask.toNat))
def execGrpCmdRemeasure (g : Fin 16) (mask : BitVec 16) (s : State) : Res :=
  done (onPage s (.bgrp g) (fun (t : State) => grpCmd t g.val 3 mask.toNat))
def execGrpCmdRestep (g : Fin 16) (mask : BitVec 16) (s : State) : Res :=
  done (onPage s (.bgrp g) (fun (t : State) => grpCmd t g.val 4 mask.toNat))

/-! ## Training (R343, R349, R350) -/

/-- An event of a ring port whose island lives. -/
def portEvent (s : State) (p : Fin 256) (f : State → State) : Res := done (onPage s (.bport p) f)

/-- R343: 100 ms in DOWN with auto_up. -/
def execLinkAutoUpTimer (p : Fin 256) (s : State) : Res :=
  portEvent s p (fun (t : State) => if linkF t p.val 4 1 = 1 ∧ hlpRun t (p.val / 16) = true then linkCmdUp t p.val else t)

/-- R343: 150 µs in RESET. -/
def execLinkResetTimer (p : Fin 256) (s : State) : Res :=
  portEvent s p (fun (t : State) => if (ringAt t p.val).st = 1 then sendTrain (setLink t p.val 2) p.val else t)

/-- The device's TRAIN blocks return (R343, R349, R353). -/
def trainReturn (s : State) (p : Nat) : State :=
  let r := ringAt s p
  if r.st = 2 then
    if r.afterStep then startMeasure (raise (setRing s p { r with afterStep := false }) (bportPage p) 4) p
    else emit (setLink (setRing s p { r with rxLock := true }) p 3) p enumTrain
  else if r.st = 9 then (if r.fromDeep then startMeasure s p else linkUp s p)
  else s

def execLinkTrainReturn (p : Fin 256) (s : State) : Res := portEvent s p (fun (t : State) => trainReturn t p.val)

/-- R343: no return within 25 ms. -/
def execLinkTrainTimeout (p : Fin 256) (s : State) : Res :=
  portEvent s p (fun (t : State) =>
    if (ringAt t p.val).st = 2 ∧ (ringAt t p.val).afterStep = false then raise (linkDown t p.val) (.bport p) 9 else t)

/-- R349: STEP and its FILL blocks are sent, and the device switches to the target. -/
def execStepSent (p : Fin 256) (s : State) : Res :=
  portEvent s p (fun (t : State) =>
    let r := ringAt t p.val
    if r.st = 5 then
      let t := emit t p.val (stepBlocks r.target)
      let t := setLink t p.val 2
      sendTrain (setRing t p.val { ringAt t p.val with step := r.target, afterStep := true, rxLock := false }) p.val
    else t)

/-- R350: a step fails. -/
def execStepTimeout (p : Fin 256) (s : State) : Res :=
  portEvent s p (fun (t : State) =>
    let r := ringAt t p.val
    if r.st = 2 ∧ r.afterStep = true then
      raise (linkReset t p.val (if linkF t p.val 3 1 = 1 then r.target - 1 else 0)) (.bport p) 5
    else t)

/-- R343: loss in UP or MEASURE. -/
def linkLoss (s : State) (p : Nat) : State :=
  let r := ringAt s p
  if r.st = 6 ∨ r.st = 4 then
    raise (if linkF s p 4 1 = 1 ∧ hlpRun s (p / 16) = true then linkReset s p 4 else linkDown s p) (bportPage p) 1
  else s

def execLinkLoss (p : Fin 256) (s : State) : Res := portEvent s p (fun (t : State) => linkLoss t p.val)

/-- R353: the ring fails to wake in time. -/
def execWakeTimeout (p : Fin 256) (s : State) : Res :=
  portEvent s p (fun (t : State) => if (ringAt t p.val).st = 9 then raise (linkReset t p.val 4) (.bport p) 11 else t)

/-- R352: a ring of a group in SLACK goes to Idle after a Pennant and its gap. -/
def execSlackIdleEnter (p : Fin 256) (s : State) : Res :=
  portEvent s p (fun (t : State) =>
    let r := ringAt t p.val
    if r.st = 6 ∧ linkF t p.val 5 1 = 1 ∧ (tgen t (p.val / 16)).gen = .slack ∧ r.penFrame.isSome ∧ allIdle r = true then linkSleep t p.val 7
    else t)

/-- R352: it starts to wake ahead of the next Pennant. -/
def execSlackWakeStart (p : Fin 256) (s : State) : Res :=
  portEvent s p (fun (t : State) =>
    if (ringAt t p.val).st = 7 ∧ linkF t p.val 5 1 = 1 ∧ (tgen t (p.val / 16)).gen = .slack then startWake t p.val else t)

/-! ## Enumeration and measurement (R344 to R347, R390) -/

/-- The module record of a filled ENUM_SLOT (R335). -/
def slotEnt (v : Nat) : ModEnt :=
  { ident := nfld v 48 64, version := nfld v 24 8, maxStep := nfld v 32 3, idleCap := v.testBit 35, deepCap := v.testBit 36
    f := 0, hop := 0 }

/-- Positions whose module does not have the identity its context asks for (R390). -/
def identMisses (s : State) (p : Nat) (r : Ring) : List Nat :=
  (List.range r.n).filter (fun m =>
    let c := ctxWords s.geom.ctx (ctxNum p m)
    cValid c && decide (cIdent c ≠ 0) && decide (cIdent c ≠ (modEnt r m).ident))

/-- The enumeration train returns (R344): the filled slots become the module entries; an overflow ends in DOWN. In loopback
the device's own train returns, with nothing filled (R343). -/
def enumReturn (s : State) (p : Nat) (slots : List Nat) (overflow : Bool) : State :=
  let r := ringAt s p
  if r.st ≠ 3 then s
  else
    let loop := decide (linkF s p 7 1 = 1)
    let filled := if loop then [] else (slots.filter (fun v => v.testBit 8)).take 192
    let mods : AMap ModEnt := (filled.zipIdx).foldl (fun m x => mapSet (fun _ => ModEnt.initial) m x.2 (slotEnt x.1)) []
    let r := { r with n := filled.length, enumd := true, mods := mods, rpt := [], needFull := [] }
    let s := ringLevels (setRing s p { r with idMis := identMisses s p r }) p
    let s := raise s (bportPage p) 2
    if overflow && !loop then raise (linkDown s p) (bportPage p) 8 else startMeasure s p

def execEnumReturn (p : Fin 256) (slots : List (BitVec 128)) (overflow : Bool) (s : State) : Res :=
  portEvent s p (fun (t : State) => enumReturn t p.val (slots.map (·.toNat)) overflow)

/-- R346 over 16 trains: rl, K, d, and whether the table was used and whether it mismatched. -/
def hopDelays (s : State) (p : Nat) (r : Ring) (rs fs : List Nat) : Ring × Bool :=
  let rl : Nat := (halfEven (rs.foldl (· + ·) 0 : Nat) 16).toNat
  let f (m : Nat) : Nat := fs.getD m (modEnt r m).f
  let sum (m : Nat) : Nat := (List.range m).foldl (fun acc i => acc + f i) 0
  let c : Int := (rl : Int) - (sum r.n : Int)
  let neg := decide (c < 0)
  let c : Nat := c.toNat
  let k (i : Nat) : Nat := mapGet (fun _ => 0) r.cbl i
  let en := decide (linkF s p 6 1 = 1)
  let use := en && decide (((k r.n : Int) - (c : Int)).natAbs ≤ linkF s p 16 8 * 16)
  let kk (m : Nat) : Nat := if use then k m else (halfEven (c * (m + 1) : Nat) (r.n + 1)).toNat
  let mods : AMap ModEnt := (List.range r.n).foldl (fun acc m =>
    mapSet (fun _ => ModEnt.initial) acc m { modEnt r m with f := f m, hop := (kk m + sum m) % 2 ^ 24 }) r.mods
  ({ r with rl := rl, cblUsed := use, mods := mods }, neg || (en && !use))

/-- The sixteenth train has returned (R343, R346, R347). -/
def measDone (s : State) (p : Nat) (r : Ring) (fs : List Nat) : State :=
  let (r', mism) := hopDelays s p r (r.meas.map (·.1)) fs
  let up := decide (r.st = 6)
  let s := setRing s p { r' with meas := [], remeas := false, assignDue := up }
  let s := raise (raiseIf mism (bportPage p) 6 s) (bportPage p) 3
  if 47700 * 256 < r'.rl then raise (linkDown s p) (bportPage p) 7
  else if up then s
  else if r'.step < negotiated s p then enterStep s p (negotiated s p)
  else linkUp s p

/-- A train returns: its r and the f of each filled slot (R346). -/
def measReturn (s : State) (p r16 : Nat) (fs : List Nat) : State :=
  let r := ringAt s p
  if r.st = 4 ∨ (r.st = 6 ∧ r.remeas = true) then
    let r := { r with meas := (r16, fs) :: r.meas }
    if r.meas.length < 16 then
      let s := setRing s p r
      if r.st = 4 then emit s p (measTrain r.meas.length) else s
    else measDone s p r fs
  else s

def execMeasTrainReturn (p : Fin 256) (r : BitVec 24) (fs : List (BitVec 16)) (s : State) : Res :=
  portEvent s p (fun (t : State) => measReturn t p.val r.toNat (fs.map (·.toNat)))

/-! ## Lane settings and reference (R340, R341, R354) -/

/-- A write of TX_CFG: pending while the ring is UP, else in force at once (R341). -/
def txCfgWrite (s : State) (p : Nat) (v : Word) : State :=
  let s := writePlain s (bportPage p) Off.BPORT_TX_CFG v
  let r := ringAt s p
  if r.st = 6 then setRing s p { r with txPending := true } else setRing s p { r with tx := reg s (bportPage p) Off.BPORT_TX_CFG }

def execTxCfgWrite (p : Fin 256) (v : Word) (s : State) : Res := portEvent s p (fun (t : State) => txCfgWrite t p.val v)

/-- R341: the middle of a gap. -/
def execTxCfgApply (p : Fin 256) (s : State) : Res :=
  portEvent s p (fun (t : State) =>
    let r := ringAt t p.val
    if r.st = 6 ∧ r.txPending = true then
      raise (setRing t p.val { r with tx := reg t (.bport p) Off.BPORT_TX_CFG, txPending := false }) (.bport p) 12
    else t)

/-- One CBL_DATA access (R354, R626); in MEASURE a write is discarded. -/
def cblAccess (s : State) (p : Nat) (w : Option Word) : State :=
  let r := ringAt s p
  let a := regF s (bportPage p) Off.BPORT_CBL_ADDR 0 8
  let s' := match w with
    | some v => if r.st = 4 ∨ 192 < a then s else setRing s p { r with cbl := mapSet (fun _ => 0) r.cbl a (fld v 0 24) }
    | none => { s with lastRead := if 192 < a then 0 else BitVec.ofNat 32 (mapGet (fun _ => 0) r.cbl a) }
  advance s' (bportPage p) Off.BPORT_CBL_ADDR 8

def execCblDataAccess (p : Fin 256) (write : Option Word) (s : State) : Res :=
  done (if pageUp s (.bport p) then cblAccess s p.val write
        else { s with lastRead := if write.isNone then 0xFFFFFFFF else s.lastRead })

/-- R340: the reference PLL of a group locks. -/
def execRefPllLock (g : Fin 16) (s : State) : Res :=
  done (onPage s (.bgrp g) (fun (t : State) =>
    setLevel (setBgrp t g.val { bgrpAt t g.val with pll := true }) (.bgrp g) 0 true))

/-- A commit of BGRP g changes REF_CFG: the PLL loses lock (R340). -/
def refChange (s : State) (g : Nat) : State :=
  setLevel (setBgrp s g { bgrpAt s g with pll := false }) (bgrpPage g) 0 false

/-- PGRP g leaves IDLE or RUN: its rings lose everything; they are DOWN from the next RESET exit (R343). -/
def ringsLost (s : State) (g : Nat) : State :=
  let s := (List.range 16).foldl (fun (t : State) i => setRing t (16 * g + i) Ring.initial) s
  setBgrp s g Bgrp.initial

end Sys2Proof.Machine
end

