-- ==== Sys2Proof/Machine/Hbm.lean ====
section
/-!
DEFINITION. The memory controller: the arbiter, the pseudo-channel queues, refresh, error replay, scrub and injection,
and the host's BAR2 accesses (spec/15_hbm_controller.md R414 to R445, spec/02_register_pages.md R66, R67).
-/
namespace Sys2Proof.Machine

def setHbm (s : State) (v : HbmUnit) : State := { s with hbm := v }
def pcAt (s : State) (n : Nat) : PcUnit := mapGet (fun _ => PcUnit.initial) s.hbm.pcs n
def setPc (s : State) (n : Nat) (v : PcUnit) : State := setHbm s { s.hbm with pcs := mapSet (fun _ => PcUnit.initial) s.hbm.pcs n v }
def chanAt (s : State) (c : Nat) : HbmChan := mapGet (fun _ => HbmChan.initial) s.hbm.chans c
def setChan (s : State) (c : Nat) (v : HbmChan) : State :=
  setHbm s { s.hbm with chans := mapSet (fun _ => HbmChan.initial) s.hbm.chans c v }

/-- The source number of the host's BAR2 accesses, and of requests whose source's Weir into FAB is gone. -/
def srcBar2 : Nat := 200
def srcNone : Nat := 201

/-! ## Replies -/

/-- The reply of a request: BAR2's posted writes have none, and one toward a closed FAB goes nowhere (R81). -/
def hbmReply (s : State) (r : HbmReq) (st : ReplyStatus) (data : List Byte) : State :=
  if srcBar2 ≤ r.src then s else weirReply s r.src r.tag st data

/-! ## The arbiter (R415, R416) -/

/-- Entries of a queue that a class's quota counts. -/
def quotaCount (q : List PcEntry) (cls : Nat) : Nat :=
  if cls = 1 then (q.filter (fun e => decide (e.req.cls = 1))).length
  else (q.filter (fun e => decide (2 ≤ e.req.cls) && decide (e.req.cls ≤ 3))).length

/-- A class has room in a queue. -/
def quotaRoom (s : State) (q : List PcEntry) (cls : Nat) : Bool :=
  if cls = 0 then true
  else if cls = 1 then decide (quotaCount q 1 < forceF s .fab Off.FAB_ARB_CFG 0 8)
  else decide (quotaCount q cls < forceF s .fab Off.FAB_ARB_CFG 8 8)

/-- The next source in round robin after the one taken last: the least above it, else the least. -/
def rrNext (last : Option Nat) (srcs : List Nat) : Option Nat :=
  let least (l : List Nat) : Option Nat := l.foldl (fun (a : Option Nat) x => match a with
    | none => some x
    | some y => some (min x y)) none
  match last with
  | none => least srcs
  | some l => match least (srcs.filter (fun x => decide (l < x))) with
    | some x => some x
    | none => least srcs

/-- The request the arbiter admits to pseudo-channel `n` (R416). -/
def arbPick (s : State) (n : Nat) : Option HbmReq :=
  let q := (pcAt s n).queue
  let ws := s.hbm.waiting.filter (fun r => decide (hbmPc r.addr = n))
  if 128 ≤ q.length then none
  else
    ((List.range 4).filter (quotaRoom s q)).findSome? (fun c =>
      let cs := ws.filter (fun r => decide (r.cls = c))
      let last := mapGet (fun _ => 0) s.hbm.lastSrc (4 * n + c)
      match rrNext (if last = 0 then none else some (last - 1)) (cs.map (·.src)) with
      | some src => cs.find? (fun r => decide (r.src = src))
      | none => none)

/-- A BAR2 write covers part of a word that cannot be read (R426). -/
def bar2Spoiled (s : State) (a n : Nat) : Bool :=
  s.ecc.any (fun e => decide (e.2 = 2) && wordIn a n e.1 && !wordFull a n e.1)

/-- A request enters its queue: a write takes effect and is acknowledged, a read will reply what the queue before it
leaves, and corrects it there with corr_wb (R417, R425, R426). A request that memory does not answer ends ABSENT. -/
def pcEnter (s : State) (r : HbmReq) : State :=
  let n := hbmPc r.addr
  if hbmOk s r.addr r.len = false then hbmReply s r .absent []
  else
    let old := memBytes s r.addr r.len
    match r.write with
    | some bs =>
      let s := if r.src = srcBar2 && bar2Spoiled s r.addr bs.length then raise s .hbm 4
               else memPut s r.addr bs
      let s := setPc s n { pcAt s n with queue := (pcAt s n).queue ++ [⟨r, .ok, [], old, []⟩] }
      hbmReply s r .ok []
    | none =>
      let bad := memPoison s r.addr r.len
      let errs := s.ecc.filter (fun e => wordIn r.addr r.len e.1)
      let s := if forceF s .hbm Off.HBM_CFG 12 1 = 1 ∧ s.ecc.isEmpty = false then
          { s with ecc := s.ecc.filter (fun e => !(wordIn r.addr r.len e.1 && decide (e.2 = 1))) } else s
      setPc s n { pcAt s n with queue := (pcAt s n).queue ++ [⟨r, if bad then .poison else .ok, if bad then [] else old, [], errs⟩] }

/-- R416: the arbiter admits a request to pseudo-channel n. -/
def hbmAdmit (s : State) (n : Nat) : State :=
  match arbPick s n with
  | none => s
  | some r =>
    let s := setHbm s { s.hbm with waiting := s.hbm.waiting.erase r
                                   lastSrc := mapSet (fun _ => 0) s.hbm.lastSrc (4 * n + r.cls) (r.src + 1) }
    pcEnter s r

def execHbmRequestAdmit (n : Fin 16) (s : State) : Res := done (hbmAdmit s n.val)

/-- R416: a request of class 1 to 3 has waited ARB_STARVE.us. -/
def execArbStarveTimeout (s : State) : Res :=
  done (if s.hbm.waiting.any (fun r => decide (1 ≤ r.cls) && decide (r.cls ≤ 3)) then raise s .fab 0 else s)

/-! ## Service (R417 to R419, R425, R426) -/

/-- A channel takes no command: it recovers, is retrained, or has failed. -/
def chanStopped (s : State) (c : Nat) : Bool := (chanAt s c).replay || (chanAt s c).retrain || s.hbm.chanFailed.testBit c

/-- An injection of kind 3 meets the next command of its channel: the command is in error, and the channel recovers
(R429, R432). -/
def injParity (s : State) (c : Nat) : Option State :=
  match s.hbm.inj with
  | some (k, a) =>
    if k = 3 ∧ hbmPc a / 2 = c then
      some (setChan (setHbm s { s.hbm with inj := none }) c { chanAt s c with replay := true, repeats := 0 })
    else none
  | none => none

/-- A command enters its channel's Eddy (R429). -/
def eddyPush (s : State) (c : Nat) (x : EddyCmd) : State := setChan s c { chanAt s c with eddy := (x :: (chanAt s c).eddy).take 64 }

/-- The row of an access's bank afterwards, and the bank's prediction counter (R419). -/
def rowAccess (s : State) (n : Nat) (v : PcUnit) (a : Nat) : PcUnit :=
  let b := hbmBank a
  let r := hbmRow a
  let open_ := mapGet (fun _ => none) v.rows b
  let p := mapGet (fun _ => 2) v.pred b
  let p := if open_ = some r then min 3 (p + 1) else if open_.isSome then p - 1 else p
  let policy := forceF s (hbmpcPage n) Off.HBMPC_PAGE_CFG 0 2
  let needed := (v.queue.take 8).any (fun e => decide (hbmBank e.req.addr = b) && decide (hbmRow e.req.addr = r))
  let close := !needed && (decide (policy = 1) || (decide (policy = 0) && decide (p < 2)))
  { v with rows := mapSet (fun _ => none) v.rows b (if close then none else some r), pred := mapSet (fun _ => 2) v.pred b p }

/-- The events of the errors that a read met (R425, R426). -/
def readErrs (s : State) (l : List (Nat × Nat)) : State :=
  l.foldl (fun (t : State) e => raise t (hbmpcPage (hbmPc (e.1 * 8))) (if e.2 = 2 then 1 else 0)) s

/-- The head entry of a queue is served. A real-time burst ends with its last entry, and where the queue runs empty (R422). -/
def serveHead (s : State) (n : Nat) (e : PcEntry) (rest : List PcEntry) : State :=
  let v := pcAt s n
  let burst := if e.req.cls = 0 ∧ rest ≠ [] then (if forceF s .fab Off.FAB_ARB_CFG 16 6 ≤ v.burst + 1 then 0 else v.burst + 1) else 0
  let s := setPc s n (rowAccess s n { v with queue := rest, burst := burst } e.req.addr)
  let s := eddyPush s (n / 2) ⟨n, some e.req.addr, e.req.write⟩
  match e.req.write with
  | some _ => s
  | none => hbmReply (readErrs s e.errs) e.req e.status e.data

/-- Entries are served from the head up to the first read, whose reply leaves (R417). -/
def serveTo (n : Nat) : List PcEntry → State → State
  | [], s => s
  | e :: r, s =>
    let t := serveHead s n e r
    match e.req.write with
    | some _ => serveTo n r t
    | none => t

/-- R417. -/
def hbmServe (s : State) (n : Nat) : State :=
  if chanStopped s (n / 2) || !hbmLive s || (pcAt s n).queue.isEmpty then s
  else match injParity s (n / 2) with
    | some t => t
    | none => serveTo n (pcAt s n).queue s

def execHbmReadReply (n : Fin 16) (s : State) : Res := done (hbmServe s n.val)

/-- R419: an open row has been idle. -/
def execPageIdleClose (n : Fin 16) (bank : Fin 16) (s : State) : Res :=
  let v := pcAt s n.val
  done (if forceF s (.hbmpc n) Off.HBMPC_PAGE_CFG 0 2 = 0 then setPc s n.val { v with rows := mapSet (fun _ => none) v.rows bank.val none } else s)

/-! ## Refresh (R421 to R424) -/

/-- R423: REFs are forced down to postpone_max; an injection of kind 3 may meet one (R432). -/
def refForce (s : State) (n : Nat) : State :=
  let v := pcAt s n
  let lim : Int := (forceF s .hbm Off.HBM_CFG 0 4 : Nat)
  if lim < v.owed then
    let s := setPc s n { v with owed := lim, burst := 0, rows := [] }
    let s := (List.range (v.owed - lim).toNat).foldl (fun (t : State) _ => eddyPush t (n / 2) ⟨n, none, none⟩) s
    raise ((injParity s (n / 2)).getD s) (hbmpcPage n) 3
  else s

/-- R421: a refresh falls due; the stack refreshes itself in self-refresh. -/
def execRefDue (n : Fin 16) (s : State) : Res :=
  done (if pageUp s .hbm = false ∨ s.hbm.sr = true then s
        else refForce (setPc s n.val { pcAt s n.val with owed := (pcAt s n.val).owed + 1 }) n.val)

/-- R422: whether a REF may be issued now. -/
def refMay (s : State) (v : PcUnit) : Bool :=
  match v.queue with
  | [] => decide (-((forceF s .hbm Off.HBM_CFG 8 4 : Nat) : Int) < v.owed)
  | e :: _ => decide (1 ≤ v.owed) && (decide (e.req.cls ≠ 0)
      || (decide (v.burst = 0) && decide (((forceF s .hbm Off.HBM_CFG 4 4 : Nat) : Int) ≤ v.owed)))

def execRefIssue (n : Fin 16) (s : State) : Res :=
  let v := pcAt s n.val
  done (if pageUp s .hbm = false ∨ s.hbm.sr = true ∨ chanStopped s (n.val / 2) = true ∨ refMay s v = false then s
        else match injParity s (n.val / 2) with
          | some t => t
          | none => eddyPush (setPc s n.val { v with owed := v.owed - 1, rows := [] }) (n.val / 2) ⟨n.val, none, none⟩)

/-- The level events of HBM (R443). -/
def hbmLevels (s : State) : State :=
  setLevel (setLevel (setLevel s .hbm 0 (decide (2 ≤ s.hbm.train))) .hbm 1 s.hbm.doubled) .hbm 3 (decide (s.hbm.chanFailed ≠ 0))

/-- All pseudo-channels change rate on one edge (R424). -/
def setDoubled (s : State) (d : Bool) : State :=
  let s := setHbm s { s.hbm with doubled := d }
  let s := (List.range 16).foldl (fun (t : State) n =>
    let v := pcAt t n
    setPc t n { v with owed := if d then 2 * v.owed else (v.owed + 1) / 2 }) s
  hbmLevels ((List.range 16).foldl refForce s)

/-- A temperature sample, °C; one not obtained or that fails its check counts as hot (R424). -/
def hbmTemp (s : State) (t : Int) (ok : Bool) : State :=
  if pageUp s .hbm = false then s
  else
    let hot := !ok || decide (((forceF s .hbm Off.HBM_CFG 16 8 : Nat) : Int) ≤ t)
    let cool := ok && decide (t < ((forceF s .hbm Off.HBM_CFG 24 8 : Nat) : Int))
    let s := setHbm s { s.hbm with temp := if ok then t else s.hbm.temp, tempValid := ok }
    let s := raiseIf (!ok) .hbm 2 s
    if hot && !s.hbm.doubled then setDoubled s true
    else if cool && s.hbm.doubled then setDoubled s false
    else s

/-! ## Errors (R429 to R432) -/

/-- R429: a channel signals a parity error; `same` when it is the command in error again, on its replay. -/
def parityError (s : State) (c : Nat) (same : Bool) : State :=
  let v := chanAt s c
  if hbmLive s = false ∨ s.hbm.chanFailed.testBit c = true ∨ v.retrain = true then s
  else
    let k := if same && v.replay then v.repeats + 1 else 0
    setChan s c { v with replay := true, repeats := k, retrain := decide (4 ≤ k) }

def execHbmParityError (c : Fin 8) (same : Bool) (s : State) : Res := done (parityError s c.val same)

/-- R429: the recovery ends. -/
def execHbmReplayDone (c : Fin 8) (s : State) : Res :=
  let v := chanAt s c.val
  done (if v.replay = false ∨ v.retrain = true then s
        else
          let s := setChan s c.val { v with replay := false, repeats := 0 }
          raise (raise s (hbmpcPage (2 * c.val)) 2) (hbmpcPage (2 * c.val + 1)) 2)

/-- Every entry of a queue ends ABSENT. -/
def pcAbsent (s : State) (n : Nat) : State :=
  let q := (pcAt s n).queue
  let s := setPc s n { pcAt s n with queue := [] }
  q.foldl (fun t e => match e.req.write with
    | some _ => t
    | none => hbmReply t e.req .absent []) s

/-- R430: a retraining ends; a channel whose retraining fails has failed. -/
def retrainDone (s : State) (c : Nat) (ok : Bool) : State :=
  let v := chanAt s c
  if v.retrain = false then s
  else
    let s := setChan s c { v with replay := false, retrain := false, repeats := 0 }
    if ok then
      [2 * c, 2 * c + 1].foldl (fun (t : State) n => setPc t n { pcAt t n with owed := 0, rows := [] }) s
    else
      let s := setHbm s { s.hbm with chanFailed := s.hbm.chanFailed ||| 2 ^ c }
      hbmLevels (pcAbsent (pcAbsent s (2 * c)) (2 * c + 1))

def execHbmRetrainDone (c : Fin 8) (ok : Bool) (s : State) : Res := done (retrainDone s c.val ok)

/-- R431: patrol scrub reads the next granule, corrects what it can, and goes on. -/
def scrubAccess (s : State) : State :=
  let a := s.hbm.scrub * 256
  let n := hbmPc a
  if hbmLive s = false ∨ forceF s .hbm Off.HBM_SCRUB_CFG 0 16 = 0 ∨ chanStopped s (n / 2) = true ∨ (pcAt s n).queue.isEmpty = false then s
  else
    match injParity s (n / 2) with
    | some t => t
    | none =>
    let s := setPc s n (rowAccess s n (pcAt s n) a)
    let s := eddyPush s (n / 2) ⟨n, some a, none⟩
    let s := eccTouchAll s [(a, 256)]
    let s := { s with ecc := s.ecc.filter (fun e => !(wordIn a 256 e.1 && decide (e.2 = 1))) }
    let last := decide (hbmBytes s ≤ a + 256)
    raiseIf last .hbm 5 (setHbm s { s.hbm with scrub := if last then 0 else s.hbm.scrub + 1 })

def execScrubAccess (s : State) : Res := done (scrubAccess s)

/-- A write of INJ_CTRL (R432). -/
def writeInjCtrl (s : State) (v : Word) : State :=
  let s := writePlain s .hbm Off.HBM_INJ_CTRL v
  if bitOf v 4 = false then s
  else if fld v 0 2 = 0 then setHbm s { s.hbm with inj := none }
  else setHbm s { s.hbm with inj := some (fld v 0 2,
    (reg s .hbm Off.HBM_INJ_ADDR_LO).toNat / 8 * 8 + regF s .hbm Off.HBM_INJ_ADDR_HI 0 3 * 2 ^ 32) }

def execInjArm (kind : Fin 4) (s : State) : Res :=
  done (if pageUp s .hbm then writeInjCtrl s (BitVec.ofNat 32 (kind.val + 16)) else s)
def execInjCancel (s : State) : Res := done (if pageUp s .hbm then writeInjCtrl s 16 else s)

/-! ## BAR2 (R5, R66, R67) -/

/-- A span cut at granule boundaries: address and bytes. -/
def granules : Nat → Nat → List Byte → List (Nat × List Byte)
  | 0, _, _ => []
  | n + 1, a, bs =>
    if bs.isEmpty then []
    else
      let k := 256 - a % 256
      (a, bs.take k) :: granules n (a + k) (bs.drop k)

/-- A posted BAR2 write: it waits at the arbiter, or is discarded (R66). -/
def bar2Write (s : State) (a : Nat) (bs : List Byte) : State :=
  if hbmLive s = false then s
  else
    let gs := (granules (bs.length + 1) a bs).filter (fun x => decide (x.1 + x.2.length ≤ hbmBytes s))
    setHbm s { s.hbm with waiting := s.hbm.waiting ++ gs.map (fun x => ⟨srcBar2, 0, 3, x.1, x.2.length, some x.2⟩) }

/-- A BAR2 write waits. -/
def bar2Waits (s : State) : Bool := s.hbm.waiting.any (fun r => decide (r.src = srcBar2))

/-- The arbiter and the queue of pseudo-channel n work on, by R416 and R417, until no request that `p` names waits for it. -/
def arbClear (p : HbmReq → Bool) (n : Nat) : Nat → State → State
  | 0, s => s
  | fuel + 1, s =>
    if s.hbm.waiting.any (fun r => p r && decide (hbmPc r.addr = n)) then
      match arbPick s n, (pcAt s n).queue with
      | some _, _ => arbClear p n fuel (hbmAdmit s n)
      | none, e :: rest => arbClear p n fuel (serveHead s n e rest)
      | none, [] => s
    else s

/-- Every BAR2 write that waits enters its queue. -/
def bar2Drain (s : State) : State :=
  (List.range 16).foldl (fun (t : State) n => arbClear (fun r => decide (r.src = srcBar2)) n (2 * t.hbm.waiting.length + 128) t) s

/-- R66; a poisoned write TLP is discarded and raises BUS_ERR (R450). -/
def execBar2Write (a : BitVec 35) (bytes : List Byte) (poisoned : Bool) (s : State) : Res :=
  done (if poisoned then raise s .pcie 3 else bar2Write s a.toNat bytes)

/-- R67: a BAR2 read, ordered behind the host's posted writes; bytes above the installed capacity read as 0xFF (R5). -/
def bar2Read (s : State) (a n : Nat) : State :=
  let k := min n (hbmBytes s - a)
  if hbmLive s = false ∨ k = 0 then
    { s with bar2 := { s.bar2 with data := List.replicate n 0xFF, poisoned := false } }
  else
    let s := bar2Drain s
    let (st, bs, s) := hbmRead s a k
    { s with bar2 := { s.bar2 with data := (if st = .ok then bs else List.replicate k 0xFF) ++ List.replicate (n - k) 0xFF
                                   poisoned := decide (st = .poison) } }

def execBar2Read (a : BitVec 35) (n : Nat) (s : State) : Res := done (bar2Read s a.toNat n)

/-- R66: a FLUSH read completes once no earlier BAR2 write waits. -/
def flushRead (s : State) : State :=
  if bar2Waits s && hbmLive s then { s with bar2 := { s.bar2 with flush := true } } else { s with lastRead := 0 }

def execGlbFlushRead (s : State) : Res := done (flushRead s)
def execGlbFlushComplete (s : State) : Res :=
  done (if s.bar2.flush && !(bar2Waits s && hbmLive s) then { s with lastRead := 0, bar2 := { s.bar2 with flush := false } } else s)

/-! ## Island changes (R435, R436) -/

/-- FAB has closed: what waits at its arbiter is lost, and the replies of what has crossed into HBM go nowhere (R81, R82). -/
def hbmFabLost (s : State) : State :=
  setHbm s { s.hbm with waiting := [], lastSrc := []
                        pcs := s.hbm.pcs.map (fun e => (e.1, { e.2 with queue := e.2.queue.map (fun x =>
                          { x with req := { x.req with src := srcNone } }) })) }

/-- Requests at the arbiter and in the queues end ABSENT, those that have crossed into HBM in tag order (R80); `lost` when acknowledged
writes still queued are lost too. -/
def hbmStop (s : State) (lost : Bool) : State :=
  let undo (t : State) (e : PcEntry) : State := match e.req.write with
    | some bs => if lost && decide (memBytes t e.req.addr bs.length = bs) then { t with mem := cellsPut t.mem e.req.addr e.old } else t
    | none => t
  let s := (List.range 16).foldl (fun (t : State) n => (pcAt t n).queue.reverse.foldl undo t) s
  let reads := ((List.range 16).flatMap (fun n => (pcAt s n).queue)).filter (fun e => e.req.write.isNone)
  let s := (List.range 16).foldl (fun (t : State) n => setPc t n { pcAt t n with queue := [] }) s
  let s := (reads.mergeSort (fun a b => decide (a.req.src * 4096 + a.req.tag ≤ b.req.src * 4096 + b.req.tag))).foldl
    (fun (t : State) e => hbmReply t e.req .absent []) s
  let ws := s.hbm.waiting
  ws.foldl (fun (t : State) r => hbmReply t r .absent []) (setHbm s { s.hbm with waiting := [] })

/-- RUN to IDLE: what is in the queues and at the arbiter is served first (R435). -/
def hbmDrain (s : State) : State :=
  let s := (List.range 16).foldl (fun (t : State) n => arbClear (fun _ => true) n (2 * t.hbm.waiting.length + 128) t) s
  (List.range 16).foldl (fun (t : State) n => (pcAt t n).queue.foldl (fun (u : State) e => serveHead u n e ((pcAt u n).queue.drop 1)) t) s

/-- Refresh restarts: owed is 0 in every pseudo-channel (R421). -/
def refRestart (s : State) : State := (List.range 16).foldl (fun (t : State) n => setPc t n { pcAt t n with owed := 0, rows := [], burst := 0 }) s

/-- HBM enters IDLE or leaves it for RUN: self-refresh follows PWR_CFG (R435). -/
def hbmIdle (s : State) : State := setHbm s { s.hbm with sr := decide (regF s .hbm Off.HBM_PWR_CFG 0 1 = 1) }
/-- A write of PWR_CFG acts at once in IDLE (R435). -/
def pwrCfgWrite (s : State) (v : Word) : State :=
  let s := writePlain s .hbm Off.HBM_PWR_CFG v
  if islState s islHbm ≠ .idle then s
  else if s.hbm.sr then hbmIdle (if bitOf v 0 then s else refRestart s) else hbmIdle s
def hbmRun (s : State) : State := if s.hbm.sr then refRestart (setHbm s { s.hbm with sr := false }) else s

/-- RESET or OFF: the controller's state and the stack's contents are lost (R436). -/
def hbmLost (s : State) : State := { s with hbm := HbmUnit.initial, mem := [], ecc := [] }

end Sys2Proof.Machine
end

