-- ==== Sys2Proof/Machine/Dma.lean ====
section
/-!
DEFINITION. The host port: link events, doorbells and the DMA channels (spec/16_host_and_scene_store.md R446 to R457,
R474, R475).
-/
namespace Sys2Proof.Machine

def setHost (s : State) (v : HostUnit) : State := { s with host := v }
def dmaRun (s : State) (c : Nat) : Option DmaJob := mapGet (fun _ => none) s.host.dma c
def setDma (s : State) (c : Nat) (j : Option DmaJob) : State :=
  setHost s { s.host with dma := mapSet (fun _ => none) s.host.dma c j }

/-! ## Link (R446, R475) -/

/-- LINK_STAT takes the link's speed code, width and ASPM state; a change of speed or width raises LINK_CHANGE. -/
def execPcieLinkChange (speed : Fin 6) (width : Fin 17) (l1 : Bool) (s : State) : Res :=
  done (if pageUp s .pcie then
      let old := reg s .pcie Off.PCIE_LINK_STAT
      let new : Word := BitVec.ofNat 32 (speed.val + width.val * 16 + b2n l1 * 512)
      raiseIf (decide (fld old 0 9 ≠ fld new 0 9)) .pcie 4 (setReg s .pcie Off.PCIE_LINK_STAT new)
    else s)

/-! ## Doorbells (R451) -/

/-- R451: the write waits for the posted writes before it. -/
def execDbSeqWrite (i : Fin 8) (seq : Word) (s : State) : Res :=
  done (if pageUp s .pcie then setHost s { s.host with bells := s.host.bells ++ [(i.val, seq)] } else s)

/-- Takes the oldest waiting write of doorbell `i`. -/
def takeBell (i : Nat) : List (Nat × Word) → Option Word × List (Nat × Word)
  | [] => (none, [])
  | (k, v) :: r => if k = i then (some v, r) else
    let t := takeBell i r
    (t.1, (k, v) :: t.2)

/-- READY by the host on a buffer, its sequence number given: the result code as BUF_CMD has it. -/
def hostReadyCode (s : State) (b : Nat) : Nat :=
  if !bufTblValid s then 4 else if (bufAt s b).st ≠ 1 then 1 else if (bufAt s b).ownerClass ≠ ownHost then 3 else 0

/-- The doorbell's READY: DB_STAT shows the outcome; a refusal raises DB_REFUSED, and BUF_CMD_REFUSED in LAYR. -/
def bellReady (s : State) (i : Nat) (seq : Word) : State :=
  let b := regF s .pcie (Off.PCIE_DB_BUF + 8 * i) 0 14
  let ok := pageUp s .layr && decide (hostReadyCode s b = 0)
  let s := setReg s .pcie Off.PCIE_DB_STAT (putBit (reg s .pcie Off.PCIE_DB_STAT) i (!ok))
  if ok then producerReady s b seq else raise (raise s .pcie 2) .layr 4

/-- R451: every earlier posted write has entered its queue. -/
def doorbellReady (s : State) (i : Nat) : State :=
  let (v, rest) := takeBell i s.host.bells
  match v with
  | none => s
  | some seq => bellReady (bar2Drain (setHost s { s.host with bells := rest })) i seq

def execDoorbellReady (i : Fin 8) (s : State) : Res := done (doorbellReady s i.val)

/-! ## DMA channels (R452 to R456) -/

/-- A register of channel `c`. -/
def dmaReg (s : State) (c off : Nat) : Word := reg s .pcie (off + 32 * c)
def dmaSize (s : State) (c : Nat) : Nat := fld (dmaReg s c Off.PCIE_DMA_QSIZE) 0 9
def dmaHead (s : State) (c : Nat) : Nat := fld (dmaReg s c Off.PCIE_DMA_QHEAD) 0 8
def dmaTail (s : State) (c : Nat) : Nat := fld (dmaReg s c Off.PCIE_DMA_QTAIL) 0 8
def dmaBase (s : State) (c : Nat) : Nat :=
  (dmaReg s c Off.PCIE_DMA_QB_LO).toNat + fld (dmaReg s c Off.PCIE_DMA_QB_HI) 0 3 * 2 ^ 32

/-- DMA_QB_HI.valid as it acts (R452, R5). -/
def dmaValid (s : State) (c : Nat) : Bool :=
  bitOf (dmaReg s c Off.PCIE_DMA_QB_HI) 31 && queueSizeOk (dmaSize s c) && decide (dmaBase s c % 64 = 0)
  && decide (dmaBase s c + 64 * dmaSize s c ≤ hbmBytes s)

/-- A write of the queue's address or size: discarded while the channel is busy or the queue is not empty. -/
def dmaCfgWrite (s : State) (c off : Nat) (v : Word) : State :=
  if (dmaRun s c).isSome ∨ dmaHead s c ≠ dmaTail s c then s else writePlain s .pcie off v

/-- R452: DMA_QTAIL. -/
def dmaTailWrite (s : State) (c : Nat) (v : Word) : State := writePlain s .pcie (Off.PCIE_DMA_QTAIL + 32 * c) v

def execDmaQtailWrite (c : Fin 4) (v : Word) (s : State) : Res := done (if pageUp s .pcie then dmaTailWrite s c.val v else s)

/-- The descriptor at the head of channel c's queue. -/
def dmaDesc (s : State) (c : Nat) : List Word := memWords s (dmaBase s c + 64 * dmaHead s c) 16

def djOp (j : DmaJob) : Nat := fld (j.desc.getD 0 0) 0 2
def djReady (j : DmaJob) : Bool := bitOf (j.desc.getD 0 0) 2
def djBuf (j : DmaJob) : Nat := fld (j.desc.getD 1 0) 0 14
def djBus (j : DmaJob) : Nat := (j.desc.getD 2 0).toNat + (j.desc.getD 3 0).toNat * 2 ^ 32
def djHbm (j : DmaJob) : Nat := (j.desc.getD 4 0).toNat + fld (j.desc.getD 5 0) 0 3 * 2 ^ 32
def djLen (j : DmaJob) : Nat := (j.desc.getD 6 0).toNat
def djPitch (j : DmaJob) : Nat := fld (j.desc.getD 7 0) 0 24

/-- Status 1 on the descriptor's words; a reserved bit of words 12 to 15 too (R13, R455). -/
def dmaDescBad (s : State) (j : DmaJob) : Bool :=
  let d := j.desc
  decide (djOp j = 3) || outside (d.getD 0 0) 7 || outside (d.getD 1 0) 0x3FFF || outside (d.getD 5 0) 7
  || outside (d.getD 7 0) 0xFFFFFF || [9, 10, 11, 13, 14].any (fun k => decide (d.getD k 0 ≠ 0))
  || outside (d.getD 15 0) 0x8000000F
  || (decide (djOp j < 2) && (decide (djLen j = 0) || decide (hbmBytes s < djHbm j + djLen j)))

/-- The size in bytes of what a job moves. -/
def djTotal (s : State) (j : DmaJob) : Nat :=
  if djOp j = 2 then
    let f := surfOf (bufEntry s (djBuf j))
    f.w * f.h * fmtBytes f.fmt
  else djLen j

/-! ### Bus reads (R446, R453, R454) -/

/-- The read that fetches a job's bytes from offset `o` on: its bus address and length. It stays within one source row, and asks for
at most 4,096 B and across no 4 KiB boundary (R446; PRESUMED, PCI Express, log 43). -/
def djRead (s : State) (j : DmaJob) (o : Nat) : Nat × Nat :=
  let f := surfOf (bufEntry s (djBuf j))
  let row := f.w * fmtBytes f.fmt
  let a := if djOp j = 2 then djBus j + o / row * djPitch j + o % row else djBus j + o
  let n := if djOp j = 2 then row - o % row else djLen j - o
  (a % 2 ^ 64, min n (4096 - a % 4096))

/-- A job that reads the bus asks for its next bytes, at most `n` requests and never more than 64 outstanding (R454). -/
def dmaAsk (s : State) : Nat → DmaJob → DmaJob
  | 0, j => j
  | n + 1, j =>
    if djOp j = 1 ∨ j.dead.isSome ∨ 64 ≤ j.reads.length ∨ djTotal s j ≤ j.asked then j
    else
      let r := djRead s j j.asked
      dmaAsk s n { j with asked := j.asked + r.2, reads := j.reads ++ [r] }

/-- Read requests with `n` more bytes answered, oldest first. -/
def readsPass : List (Nat × Nat) → Nat → List (Nat × Nat)
  | [], _ => []
  | (a, k) :: r, n => if k ≤ n then readsPass r (n - k) else (a + n, k - n) :: r

/-- A job once `n` more bytes of its source have come. -/
def dmaGot (s : State) (j : DmaJob) (n : Nat) : DmaJob :=
  dmaAsk s 64 { j with got := j.got + n, reads := readsPass j.reads n }

/-- A FILL_BUF job takes its buffer: the job with it, or with the status it ends with (R454, R455). -/
def dmaFillStart (s : State) (c : Nat) (j : DmaJob) : State :=
  let b := djBuf j
  let f := surfOf (bufEntry s b)
  let mine := ownedBy s b ownPcie c
  let code := if pageUp s .layr = false then 4
    else if mine then (if bufTblValid s && entryReadable s b && entryOk s (bufEntry s b) then 0 else 2)
    else claimCode s b
  let s := if decide (code = 0) && !mine then claimFor s b ownPcie c else s
  let own := if mine ∨ code = 0 then some b else none
  let dead := if code ≠ 0 ∨ 4 ≤ f.st then some 2 else if djPitch j < f.w * fmtBytes f.fmt then some 1 else none
  setDma s c (some (dmaAsk s 64 { j with buf := own, dead := dead }))

/-- The job of the descriptor at the head of channel c's queue, before it has done anything. -/
def dmaFresh (s : State) (c : Nat) : DmaJob :=
  { desc := dmaDesc s c, index := dmaHead s c, got := 0, image := [], buf := none, dead := none, asked := 0, reads := [] }

/-- The descriptor at the head of channel c's queue can be read. -/
def dmaDescOk (s : State) (c : Nat) : Bool := hbmReadOk s (dmaBase s c + 64 * dmaHead s c) 64

/-- Starts the job at the head of channel c's queue; one whose descriptor cannot be read ends with status 4. -/
def dmaStart (s : State) (c : Nat) : State :=
  let s := eccTouchAll s [(dmaBase s c + 64 * dmaHead s c, 64)]
  let j := dmaFresh s c
  if dmaDescOk s c = false then setDma s c (some { j with dead := some 4 })
  else if dmaDescBad s j then setDma s c (some { j with dead := some 1 })
  else if djOp j = 2 then dmaFillStart s c j
  else setDma s c (some (dmaAsk s 64 j))

/-- Channel c may start its next job, and that job's op satisfies `p`. -/
def dmaMayStart (s : State) (c : Nat) (p : Nat → Bool) : Bool :=
  islandRuns s islHost && (dmaRun s c).isNone && bitOf (dmaReg s c Off.PCIE_DMA_CTRL) 0 && dmaValid s c
  && decide (dmaHead s c ≠ dmaTail s c) && p (if dmaDescOk s c then fld ((dmaDesc s c).getD 0 0) 0 2 else 3)

/-- R454: op 0. The reserved op also starts here, and ends with status 1, and a descriptor that cannot be read, with status 4. -/
def execDmaToHbm (c : Fin 4) (s : State) : Res :=
  done (if dmaMayStart s c.val (fun o => decide (o = 0) || decide (o = 3)) then dmaStart s c.val else s)

/-- R454: op 1. -/
def execDmaFromHbm (c : Fin 4) (s : State) : Res :=
  done (if dmaMayStart s c.val (fun o => decide (o = 1)) then dmaStart s c.val else s)

/-- R454: op 2. -/
def execDmaFillBuf (c : Fin 4) (s : State) : Res :=
  done (if dmaMayStart s c.val (fun o => decide (o = 2)) then dmaStart s c.val else s)

/-- A job ends: its buffer on any status but 0, its result words, DMA_QHEAD, DMA_LAST and the event (R452, R455). -/
def dmaFinish (s : State) (c : Nat) (j : DmaJob) (status : Nat) : State :=
  let s := match j.buf with
    | some b => if status ≠ 0 ∧ ownedBy s b ownPcie c = true then freeFor s b else s
    | none => s
  let words : List Word := [BitVec.ofNat 32 j.got, 0, 0, BitVec.ofNat 32 (status + 2 ^ 31)]
  let a := dmaBase s c + 64 * j.index + 48
  let s := hbmPut s [(a, (bytesOfWords words).take 12), (a + 12, (bytesOfWords words).drop 12)]
  let s := setReg s .pcie (Off.PCIE_DMA_QHEAD + 32 * c) (BitVec.ofNat 32 ((j.index + 1) % dmaSize s c))
  let s := setReg s .pcie (Off.PCIE_DMA_LAST + 32 * c) (BitVec.ofNat 32 (status + j.index * 256))
  let s := setDma s c none
  raise (raiseIf (decide (status = 3)) .pcie 3 s) .pcie (if status = 0 then 0 else 1)

/-- The image a FILL_BUF received: its pixels. -/
def djPixel (f : Surf) (img : List Byte) (x y : Nat) : Pixel :=
  let n := fmtBytes f.fmt
  pixelOf f.fmt (leVal ((img.drop ((y * f.w + x) * n)).take n))

/-- A FILL_BUF that has its whole image: writes, summary, and READY where asked. -/
def dmaFillEnd (s : State) (c : Nat) (j : DmaJob) (b : Nat) : State :=
  let f := surfOf (bufEntry s b)
  let img := j.image.reverse
  let ws := imageWrites f (djPixel f img)
  let sm := imageSummary f (djPixel f img)
  if !writesOk s (ws ++ sm) then dmaFinish (hbmPut s (ws ++ sm)) c j 4
  else
    let s := hbmPut s (ws ++ sm)
    let s := if djReady j ∧ ownedBy s b ownPcie c = true then producerReady s b (j.desc.getD 8 0) else s
    dmaFinish s c j 0

/-- The running job ends of itself: with the status fixed at its start, or with all its work done. -/
def dmaEnd (s : State) (c : Nat) (j : DmaJob) : State :=
  match j.dead with
  | some st => dmaFinish s c j st
  | none =>
    if djOp j = 1 then
      let (st, bs, s) := hbmRead s (djHbm j) (djLen j)
      if st = .ok then
        dmaFinish (setHost s { s.host with posted := (djBus j, bs) :: s.host.posted }) c { j with got := djLen j } 0
      else dmaFinish s c j 4
    else if j.got < djTotal s j then s
    else match j.buf with
      | some b => dmaFillEnd s c j b
      | none => dmaFinish s c j 0

/-- R455. -/
def execDmaJobEnd (c : Fin 4) (s : State) : Res :=
  done (match dmaRun s c.val with
    | none => s
    | some j => dmaEnd s c.val j)

/-- A completion of a read of the job at queue index `job`, in address order; none where it is Unsupported Request, Completer
Abort or poisoned (R455). A completion of an ended job is discarded (R456). -/
def dmaCompletion (s : State) (c job : Nat) (data : Option (List Byte)) : State :=
  match dmaRun s c with
  | none => s
  | some j =>
    if j.index ≠ job ∨ j.dead.isSome ∨ djOp j = 1 then s
    else match data with
      | none => dmaFinish s c j 3
      | some bs =>
        let bs := bs.take (j.asked - j.got)
        if djOp j = 2 then setDma s c (some { dmaGot s j bs.length with image := bs.reverse ++ j.image })
        else
          let a := djHbm j + j.got
          if hbmOk s a bs.length then setDma (memPut s a bs) c (some (dmaGot s j bs.length))
          else dmaFinish s c j 4

def execDmaCompletionRx (c : Fin 4) (job : Fin 256) (data : Option (List Byte)) (s : State) : Res :=
  done (dmaCompletion s c.val job.val data)

/-- R455, R456. -/
def execCplTimeout (c : Fin 4) (s : State) : Res :=
  done (match dmaRun s c.val with
    | some j => if djOp j ≠ 1 ∧ j.dead = none then dmaFinish s c.val j 3 else s
    | none => s)

/-- DMA_CTRL.abort (R455, R474). -/
def dmaAbort (s : State) (c : Nat) : State :=
  let off := Off.PCIE_DMA_CTRL + 32 * c
  let s := setReg s .pcie off (putBit (reg s .pcie off) 0 false)
  match dmaRun s c with
  | some j => dmaFinish s c j 5
  | none => s

/-- R455. -/
def execDmaAbort (c : Fin 4) (s : State) : Res := done (if pageUp s .pcie then dmaAbort s c.val else s)

end Sys2Proof.Machine
end

