-- ==== Sys2Proof/Machine/Nvm.lean ====
section
/-!
DEFINITION. The flash's records, and images in it and in HBM (spec/21_firmware_and_update.md R553 to R557, R566 to R568). A
record stands whole or not at all: its CRCs are not bytes of the state (log 28).
-/
namespace Sys2Proof.Machine

/-! ## Records (R98, R566) -/

/-- Sequence a is after sequence b. -/
def nvAfter (a b : Word) : Bool := decide (0 < (a - b).toInt)

/-- The record at a place of the flash. -/
def nvAt (s : State) (off : Nat) : NvRec := mapGet (fun _ => NvRec.blank) s.last.nvm off

/-- A valid record of a type. -/
def nvGet (s : State) (off ty : Nat) : Option NvRec := if (nvAt s off).type = ty then some (nvAt s off) else none

/-- The bank that holds the valid record with the higher sequence. -/
def nvBank (s : State) (a b ty : Nat) : Option Nat :=
  match nvGet s a ty, nvGet s b ty with
  | none, none => none
  | some _, none => some a
  | none, some _ => some b
  | some x, some y => if nvAfter y.seq x.seq then some b else some a

/-- The valid record with the higher sequence of two banks. -/
def nvBest (s : State) (a b ty : Nat) : Option NvRec := (nvBank s a b ty).map (nvAt s)

/-- Writes a record at a place. -/
def nvPut (s : State) (off : Nat) (r : NvRec) : State :=
  { s with last := { s.last with nvm := mapSet (fun _ => NvRec.blank) s.last.nvm off r } }

/-- The sequence of a record's successor. -/
def nvNext (r : Option NvRec) : Word := match r with
  | some x => x.seq + 1
  | none => 1

/-- Writes a payload to the bank that does not hold the valid record with the higher sequence. -/
def nvWrite2 (s : State) (a b ty version : Nat) (payload : List Byte) : State :=
  nvPut s (if nvBank s a b ty = some a then b else a) ⟨ty, version, nvNext (nvBest s a b ty), payload⟩

/-- Places of R566. -/
def nvBootA : Nat := 0x0
def nvBootB : Nat := 0x1000
def nvSetA : Nat := 0x10000
def nvSetB : Nat := 0x20000
def nvPolA : Nat := 0x30000
def nvPolB : Nat := 0x31000
def nvLog (i : Nat) : Nat := 0x40000 + 64 * i
/-- Calibration records by type 0x20 + j (DESIGN CHOICE, log 28: the places within the region). -/
def nvCal (j : Nat) : Nat := 0x80000 + 0x8000 * j
def nvCp (slot : Nat) : Nat := 0x400000 + 0x400000 * slot

/-- The two banks of a class 2 or class 3 target (R567). -/
def nvImageBanks (cls target : Nat) : Nat × Nat :=
  let j := if cls = 2 then 2 * target else 16 + 2 * target
  (0xC00000 + j * 0x110000, 0xC00000 + (j + 1) * 0x110000)

/-- The image record of a class 2 or class 3 target in force. -/
def nvImage (s : State) (cls target : Nat) : Option NvRec :=
  nvBest s (nvImageBanks cls target).1 (nvImageBanks cls target).2 0x14

/-! ## Images (R555) -/

/-- Bytes `lo` to `lo + n - 1` of a list. -/
def slice (l : List Byte) (lo n : Nat) : List Byte := (l.drop lo).take n

/-- A little-endian field of a byte list. -/
def leAt (l : List Byte) (lo n : Nat) : Nat := leVal (slice l lo n)

def imgClass (img : List Byte) : Nat := leAt img 1 1
def imgTarget (img : List Byte) : Nat := leAt img 4 4
def imgVersion (img : List Byte) : Word := BitVec.ofNat 32 (leAt img 8 4)
def imgSvn (img : List Byte) : Nat := leAt img 0xC 2
def imgSlot (img : List Byte) : Nat := leAt img 0xE 1
def imgLen (img : List Byte) : Nat := leAt img 0x10 4
def imgKey (img : List Byte) : List Byte := slice img 0x40 57
def imgDigest (img : List Byte) : List Byte := slice img 0x80 64
def imgPayload (img : List Byte) : List Byte := img.drop 4096

/-- The payload has the digest its header gives. -/
def imgWhole (img : List Byte) : Bool := decide (Config.shake256 (imgPayload img) 64 = imgDigest img)

/-! ## What a load takes (R553) -/

/-- The staged entry of a class and target. -/
def stagedAt (s : State) (cls target : Nat) : Option Staged := mapGet (fun _ => none) s.cpm.staged (cls * 256 + target)
def setStaged (s : State) (cls target : Nat) (v : Option Staged) : State :=
  { s with cpm := { s.cpm with staged := mapSet (fun _ => none) s.cpm.staged (cls * 256 + target) v } }

/-- A staged image reads whole from HBM, with the digest recorded. -/
def stagedWhole (s : State) (g : Staged) : Bool :=
  hbmReadOk s g.addr g.len && decide (Config.shake256 (imgPayload (memBytes s g.addr g.len)) 64 = g.digest)

/-- The image a load of a class and target takes: its version, and whether it loads whole; the staged image where `staged`
allows it, else the NVM store's. -/
def loadImage (s : State) (cls target : Nat) (staged : Bool) : Option (Word × Bool) :=
  match (if staged then stagedAt s cls target else none) with
  | some g => some (g.version, stagedWhole s g)
  | none => (nvImage s cls target).map (fun r => (imgVersion r.payload, imgWhole r.payload))

/-- The image kind of an island that takes microcode (R557). -/
def islKind (k : Nat) : Option Nat :=
  if k = 2 then some 0 else if k = 3 then some 1 else if 4 ≤ k ∧ k < 20 then some 2 else if 20 ≤ k ∧ k < 36 then some 3
  else if k = 37 then some 4 else if k = 38 then some 5 else if k = 43 then some 6 else none

/-- The image an UPDATE of island k would load; HBM's from the NVM store only. -/
def islImage (s : State) (k : Nat) : Option (Word × Bool) :=
  match islKind k with
  | some t => loadImage s 3 t (decide (k ≠ 3))
  | none => none

/-- A helper's kind (R557): a link manager image serves all sixteen. -/
def hlpKind (h : Nat) : Nat := if h < 16 then 0 else h - 15

/-- The island of a helper (R551). -/
def hlpIsland (h : Nat) : Nat := if h < 16 then islPgrp h else if h = 16 then islHost else if h = 20 then 0 else islCtl

/-- The image a HELPER_UPDATE of h would load; the update agent's own from the NVM store only (R552). -/
def hlpImage (s : State) (h : Nat) : Option (Word × Bool) := loadImage s 2 (hlpKind h) (decide (h ≠ 21))

end Sys2Proof.Machine
end

