-- ==== Sys2Proof/Machine/Diag.lean ====
section
/-!
DEFINITION. Lamp diagnostics: the fault map, its commands, the probe scheduler and the temperature reports
(spec/14_lamp_diagnostics.md R398 to R409).
-/
namespace Sys2Proof.Machine

def setDiag (s : State) (v : DiagUnit) : State := { s with diag := v }

/-! ## The fault map (R398 to R401) -/

def fmapBase (s : State) : Nat := addrPair s .diag Off.DIAG_FMAP_BASE_LO Off.DIAG_FMAP_BASE_HI
def fmapLen (s : State) : Nat := regF s .diag Off.DIAG_FMAP_LEN 0 31
def fmapEn (s : State) : Bool := decide (regF s .diag Off.DIAG_CTRL 0 1 = 1)

/-- FMAP_BASE_HI.valid: the host's value where the map is aligned and lies below the installed capacity (R407). -/
def fmapValid (s : State) : Bool :=
  bitOf (reg s .diag Off.DIAG_FMAP_BASE_HI) 31 && decide (fmapBase s % 4096 = 0) && decide (fmapBase s + fmapLen s ≤ hbmBytes s)

/-- The fields of a map byte that an entry's colour names, set to a value (R398, R399). -/
def fmapPut (b colour v : Nat) : Nat :=
  let put (b c : Nat) : Nat := b - nfld b (2 * c) 2 * 2 ^ (2 * c) + v * 2 ^ (2 * c)
  if colour = 3 then put (put (put b 0) 1) 2 else put b colour

/-- The stored value of an entry's kind (R399). -/
def fmapVal (kind : Nat) : Nat := if kind = 3 then 0 else kind + 1

/-- A field changes into the faults, or out of them (R399). -/
def fmapEvents (old new : Nat) : Bool × Bool :=
  let bad (x : Nat) : Bool := decide (x = 1) || decide (x = 2)
  ((List.range 3).any (fun c => decide (nfld old (2 * c) 2 ≠ nfld new (2 * c) 2) && bad (nfld new (2 * c) 2)),
   (List.range 3).any (fun c => bad (nfld old (2 * c) 2) && decide (nfld new (2 * c) 2 = 0)))

/-- One diagnostic entry of the report of context `c` (R370, R399). -/
def diagEntry (s : State) (c e : Nat) : State :=
  if e = 0 ∨ pageUp s .diag = false then s
  else
    let x := ctxWords s.geom.ctx c
    let lamp := nfld e 0 16
    let i := cTrimBase x + lamp
    let s := eccTouchAll s [(fmapBase s + i, 1)]
    if cValid x = false ∨ tLamps (typeCfg s (cType x)) ≤ lamp ∨ fmapEn s = false ∨ fmapValid s = false ∨ fmapLen s ≤ i
        ∨ hbmReadOk s (fmapBase s + i) 1 = false then raise s .diag 2
    else
      let old := (memByte s (fmapBase s + i)).toNat
      let new := fmapPut old (nfld e 16 2) (fmapVal (nfld e 18 2))
      let s := hbmPut s [(fmapBase s + i, [BitVec.ofNat 8 new])]
      if old.testBit 7 then s
      else
        let (f, cl) := fmapEvents old new
        raiseIf cl .diag 1 (raiseIf f .diag 0 s)

/-- The entries of a report's diagnostic blocks, in report order (R370). -/
def diagEntries (s : State) (c : Nat) (blocks : List Nat) : State :=
  (blocks.flatMap (fun b => (List.range 4).map (fun k => nfld b (32 * k) 32))).foldl (fun t e => diagEntry t c e) s

/-- FMAP_CMD with go = 1 (R400). -/
def fmapGo (s : State) (op : Nat) : State :=
  let i := regF s .diag Off.DIAG_FMAP_IDX 0 30
  let n := regF s .diag Off.DIAG_FMAP_CNT 0 17
  if s.diag.cmd.isSome ∨ fmapLen s < i + n then raise s .diag 2
  else if op = 0 then s
  else setDiag s { s.diag with cmd := some (op, i, n) }

def execFmapMask (s : State) : Res := done (onPage s .diag (fun (t : State) => fmapGo t 1))
def execFmapUnmask (s : State) : Res := done (onPage s .diag (fun (t : State) => fmapGo t 2))
def execFmapClear (s : State) : Res := done (onPage s .diag (fun (t : State) => fmapGo t 3))

/-- What a command makes of a map byte (R400). -/
def fmapOp (op b : Nat) : Nat := if op = 1 then b ||| 128 else if op = 2 then b &&& 127 else b &&& 128

/-- R400: the command completes; a byte that cannot be read keeps what it holds. -/
def fmapDone (s : State) : State :=
  match s.diag.cmd with
  | none => s
  | some (op, i, n) =>
    let a := fmapBase s + i
    let s := eccTouchAll s [(a, n)]
    let s := (List.range n).foldl (fun (t : State) k =>
      if hbmReadOk t (a + k) 1 then hbmPut t [(a + k, [BitVec.ofNat 8 (fmapOp op (memByte t (a + k)).toNat)])] else t) s
    raise (setDiag s { s.diag with cmd := none }) .diag 6

def execFmapCmdDone (s : State) : Res := done (onPage s .diag fmapDone)

/-! ## Probe slots (R402, R403) -/

/-- A field of bank g of DIAG in force. -/
def diagF (s : State) (g off lo len : Nat) : Nat := fld (forceBank s .diag g off) lo len

/-- n of R402 for a still interval of S µs. -/
def probeSlots (s : State) (g still : Nat) : Nat :=
  let l := diagF s g Off.DIAG_PRB_CFG 8 8
  let used := 10 + diagF s g Off.DIAG_PRB_CFG 16 10
  if l = 0 ∨ still < used then 0 else min 8 ((still - used) / l)

/-- The map byte of a module's lamp, where it can be read. -/
def mapByte (s : State) (x : List Word) (lamp : Nat) : Option Nat :=
  let i := cTrimBase x + lamp
  if fmapLen s ≤ i ∨ hbmReadOk s (fmapBase s + i) 1 = false then none else some (memByte s (fmapBase s + i)).toNat

/-- A map byte with an unmeasured field that is not masked. -/
def unmeasured (b : Nat) : Bool := !b.testBit 7 && (List.range 3).any (fun c => decide (nfld b (2 * c) 2 = 3))

/-- The colour of a probe entry: the one unmeasured colour, or all (R403). -/
def probeColour (b : Nat) : Nat :=
  match (List.range 3).filter (fun c => decide (nfld b (2 * c) 2 = 3)) with
  | [c] => c
  | _ => 3

/-- Where the trim word of a lamp is read for group g, where one is (R297, R298). -/
def probeTrimAt (s : State) (g x : Nat) : Option Nat :=
  if bitOf (forceBank s .trim g Off.TRIM_CTRL) 0 = false ∨ tblWords s ≤ x ∨ tblValid s = false then none
  else some (match (windowsOf s g).find? (fun w => decide (rgnLo s w.1 ≤ x) && decide (x < rgnLo s w.1 + rgnCnt s w.1)) with
    | some w => stageAt s w.1 + 4 * (x - rgnLo s w.1)
    | none => tblBase s + 4 * x)

/-- A lamp's trim word lets it be probed (R297, R403). -/
def probeAllowed (s : State) (g x : Nat) : Bool :=
  match probeTrimAt s g x with
  | some a => hbmReadOk s a 4 && !bitOf (memWord s a) 30
  | none => true

/-- The scan of one module from its cursor: at most `n` bytes, until `max` lamps are picked; picks newest first, the cursor,
and the bytes not scanned (R403). -/
def probeScan (s : State) (g : Nat) (x : List Word) (lamps max : Nat) : Nat → Nat → List (Nat × Nat) → List (Nat × Nat) × Nat × Nat
  | 0, cur, acc => (acc, cur, 0)
  | n + 1, cur, acc =>
    if max ≤ acc.length then (acc, cur, n + 1)
    else
      let next := if cur + 1 < lamps then cur + 1 else 0
      match mapByte s x cur with
      | some b =>
        if unmeasured b ∧ probeAllowed s g (cTrimBase x + cur) = true then probeScan s g x lamps max n next ((cur, probeColour b) :: acc)
        else probeScan s g x lamps max n next acc
      | none => probeScan s g x lamps max n next acc

/-- The memory reads of a scan: the map bytes, and the trim words of unmeasured lamps (R403, R428). -/
def scanReads (s : State) (g : Nat) (x : List Word) (lamps cur k : Nat) : List (Nat × Nat) :=
  (List.range k).flatMap (fun j =>
    let l := (cur + j) % lamps
    (fmapBase s + (cTrimBase x + l), 1) ::
      (match mapByte s x l, probeTrimAt s g (cTrimBase x + l) with
       | some b, some a => if unmeasured b then [(a, 4)] else []
       | _, _ => []))

/-- The probe entries of one module (R404), and the state with its cursor moved; `none` where its type is not probed. -/
def probeModule (s : State) (g c slots : Nat) : Option (List Nat) × State :=
  let x := ctxWords s.geom.ctx c
  let lamps := tLamps (typeCfg s (cType x))
  let pw := regF s .diag (Off.DIAG_TYPE_MINPW + 4 * cType x) 0 16
  if (List.range lamps).any (fun l => match mapByte s x l with
      | some b => unmeasured b
      | none => false) = false then (some [], s)
  else if pw = 0 ∨ (diagF s g Off.DIAG_PRB_CFG 8 8 - 2) * 1000 < pw then (none, s)
  else
    let first := mapGet (fun _ => 0) s.diag.cursor c % lamps
    let n := min 64 lamps
    let (picks, cur, left) := probeScan s g x lamps (min (diagF s g Off.DIAG_PRB_CFG 4 4) slots) n first []
    let es := (picks.reverse.zipIdx).map (fun k => k.1.1 + k.1.2 * 2 ^ 16 + k.2 * 2 ^ 18 + 2 ^ 23)
    let s := eccTouchAll s (scanReads s g x lamps first (n - left))
    (some es, setDiag s { s.diag with cursor := mapSet (fun _ => 0) s.diag.cursor c cur })

/-- The probes of a frame over the modules that carry drive codes, as (context, entry), and PRB_STAT (R403, R407). -/
def probeFrame (s : State) (g still : Nat) (cs : List Nat) : List (Nat × Nat) × State :=
  let n := probeSlots s g still
  let on := decide (diagF s g Off.DIAG_PRB_CFG 0 1 = 1) && hlpRun s 17 && decide (n ≠ 0) && fmapEn s && fmapValid s
  let r := if on then cs.foldl (fun (acc : List (Nat × Nat) × State × Bool) c =>
      match probeModule acc.2.1 g c n with
      | (some es, t) => (acc.1 ++ es.map (fun e => (c, e)), t, acc.2.2)
      | (none, t) => (acc.1, t, true)) ([], s, false)
    else ([], s, false)
  let t := raiseIf r.2.2 .diag 3 r.2.1
  let t := if pageUp t .diag then
      setDiag t { t.diag with prbStat := mapSet (fun _ => 0) t.diag.prbStat g (BitVec.ofNat 32 (n + r.1.length * 2 ^ 8)) }
    else t
  (r.1, t)

/-! ## Temperature reports (R406) -/

/-- A context's word 12 as temperature and its valid bit. -/
def ctxTemp (s : State) (c : Nat) : Int × Bool := (signed 16 (fld (ctxWord s c 12) 0 16), bitOf (ctxWord s c 12) 24)

/-- MOD_HOT and TEMP_STALE (R409). -/
def diagLevels (s : State) : State :=
  setLevel (setLevel s .diag 4 (!s.diag.hot.isEmpty)) .diag 5 (!s.diag.staleRings.isEmpty)

/-- A ring mask of contexts. -/
def ringMask (cs : List Nat) : Word :=
  BitVec.ofNat 32 ((List.range 16).foldl (fun acc i => if cs.any (fun c => decide (c / 192 % 16 = i)) then acc + 2 ^ i else acc) 0)

/-- R406 at the stream start of a frame of group g that serves the contexts `served`. -/
def tempFrame (s : State) (g : Nat) (served : List Nat) : State :=
  if pageUp s .diag = false then s
  else
    let d := s.diag
    let stale := (mapGet (fun _ => []) d.served g).foldl (fun m c =>
      mapSet (fun _ => 0) m c (if d.fresh.contains c then 0 else mapGet (fun _ => 0) m c + 1)) d.stale
    let cs := (validCtxs s).filter (fun c => decide (ctxGroup c = g))
    let hotCs := cs.filter (fun c => (ctxTemp s c).2)
    let best := hotCs.foldl (fun (acc : Option Nat) c => match acc with
      | none => some c
      | some b => if (ctxTemp s b).1 < (ctxTemp s c).1 then some c else some b) none
    let top : Word := match best with
      | none => 0x8000
      | some c => BitVec.ofNat 32 (fld (ctxWord s c 12) 0 16 + c * 2 ^ 16)
    let hi := signed 16 (diagF s g Off.DIAG_TEMP_CFG 0 16)
    let lim := diagF s g Off.DIAG_TEMP_CFG 16 16
    let old := cs.filter (fun c => decide (lim ≠ 0) && decide (lim ≤ mapGet (fun _ => 0) stale c))
    diagLevels (setDiag s { d with
      stale := stale, fresh := d.fresh.filter (fun c => decide (ctxGroup c ≠ g))
      served := mapSet (fun _ => []) d.served g served
      tempMax := mapSet (fun _ => 0x8000) d.tempMax g top
      hot := mapSet (fun _ => 0) d.hot g (ringMask (hotCs.filter (fun c => decide (hi ≤ (ctxTemp s c).1))))
      staleRings := mapSet (fun _ => 0) d.staleRings g (ringMask old) })

end Sys2Proof.Machine
end

