-- ==== Sys2Proof/Machine/Packer.lean ====
section
/-!
DEFINITION. The link packers: flags, delta digests, the frame stream of a ring, reports, Pennants and the module
firmware relay (spec/13_bunting_protocol.md R359 to R390).
-/
namespace Sys2Proof.Machine

/-! ## Plans (R365, R366, R380) -/

/-- The digest table of group g and its valid bit (R366, R394). -/
def dgstBase (s : State) (g : Nat) : Nat := addrPair s (bgrpPage g) Off.BGRP_DGST_BASE_LO Off.BGRP_DGST_BASE_HI
def dgstValid (s : State) (g : Nat) : Bool :=
  bitOf (reg s (bgrpPage g) Off.BGRP_DGST_BASE_HI) 31 && decide (dgstBase s g % 4096 = 0)
  && decide (dgstBase s g + 12 * 2 ^ 20 ≤ hbmBytes s)

/-- Where the digest of a row lies (R366). -/
def dgstAt (s : State) (g c k ly : Nat) : Nat := dgstBase s g + ((c % 3072) * 4 + k) * 1024 + 4 * ly

def streamCfg (s : State) (p : Nat) : Word := force s (bportPage p) Off.BPORT_STREAM_CFG

/-- How a frame of RUN serves position m of ring i (R380, R390). -/
def posPlan (s : State) (fr : EngFrame) (g i m : Nat) : PosPlan :=
  let x := frCtx fr g i m
  let tc := typeOf fr.types (cType x)
  if ctxServed fr.types x = false ∨ (ringAt s (16 * g + i)).idMis.contains m = true then ⟨1, 0, 0⟩
  else if tripped fr 1 i m then ⟨2, 0, 0⟩
  else ⟨0, tLamps tc, tHW tc * tVW tc⟩

/-- What ring i serves in a frame of RUN, without its probes. -/
def ringPlan (s : State) (fr : EngFrame) (g i : Nat) : ServePlan :=
  let r := ringAt s (16 * g + i)
  { frame := fr.frame, phases := fr.phases, delta := bitOf (streamCfg s (16 * g + i)) 0 && dgstValid s g
    pos := (List.range r.n).map (posPlan s fr g i), probes := [] }

/-- A ring takes up the plan of a frame, in place of an earlier plan of the same frame. -/
def addPlan (s : State) (p : Nat) (pl : ServePlan) : State :=
  let r := ringAt s p
  setRing s p { r with serve := r.serve.filter (fun q => decide (q.frame ≠ pl.frame)) ++ [pl] }

/-- The attempt number of a frame (R360, R382). -/
def genOfFrame (s : State) (g : Nat) (f : Word) : Nat := if (bgrpAt s g).wdFrame = f then (bgrpAt s g).wdCount else 0

/-- The parts of frame F begin on a ring. -/
def openFrame (s : State) (p : Nat) (f : Word) : State :=
  let r := ringAt s p
  if r.pf = some f then s
  else setRing s p { r with pf := some f, sent := [], started := [], forced := [], asm := [], blocks := 0 }

/-! ## Parts (R359 to R368) -/

/-- A part leaves in full; part 0 with the FILL blocks of R368. -/
def partOut (s : State) (p m phase : Nat) (bs : List Block) : State :=
  let bs := if phase = 0 then padPart bs else bs
  let s := emit s p bs
  let r := ringAt s p
  setRing s p { r with sent := (m * 4 + phase) :: r.sent, started := marks r.started [m], blocks := r.blocks + bs.length }

/-- The BLANK and KEEP parts of positions below `m` that have not left. -/
def bareParts (s : State) (p : Nat) (pl : ServePlan) (m : Nat) : State :=
  ((pl.pos.take m).zipIdx).foldl (fun (t : State) (x : PosPlan × Nat) =>
    if x.1.kind = 0 ∨ (ringAt t p).sent.contains (4 * x.2) = true then t
    else partOut t p x.2 0 (barePart x.2 (x.1.kind + 1) (genOfFrame t (p / 16) pl.frame) pl.frame)) s

/-- The stored digest of a row, where it can be read (R364). -/
def oldDigest (s : State) (a : Nat) : Option Word := if hbmReadOk s a 4 then some (memWord s a) else none

/-- A module's flag is FULL whatever its delta would be (R364, R365): marked, or due at this frame. -/
def fullDue (s : State) (p : Nat) (pl : ServePlan) (m phase : Nat) : Bool :=
  let every := fld (streamCfg s p) 8 8
  decide (phase = 0) && ((ringAt s p).needFull.contains m || (decide (every ≠ 0) && decide ((pl.frame.toNat + m) % every = 0)))

/-- The drive codes of a module for a phase leave as a FULL or a DELTA part (R364, R365). -/
def codePart (s : State) (p : Nat) (pl : ServePlan) (m phase lw : Nat) (codes : List Nat) : State :=
  let g := p / 16
  let r := ringAt s p
  let due := fullDue s p pl m phase
  let force := r.forced.contains m || due
  let r := if due then { r with forced := marks r.forced [m], needFull := r.needFull.filter (fun k => decide (k ≠ m)) } else r
  let s := setRing s p r
  let gen := genOfFrame s g pl.frame
  let full := fullPart m phase gen pl.frame codes
  if pl.delta then
    let rows := rowsOf lw (codes.length / lw) codes
    let new := rows.map rowDigest
    let marked := (rows.zipIdx).map (fun x =>
      (decide (oldDigest s (dgstAt s g (ctxNum p m) phase x.2) ≠ some (new.getD x.2 0)), x.1))
    let delta := deltaPart m phase gen pl.frame ((mapGet (fun _ => 0) r.content m).toNat % 65536) marked
    let s := eccTouchAll s [(dgstAt s g (ctxNum p m) phase 0, 4 * rows.length)]
    let useDelta := !force && decide (delta.length < full.length)
    let s := hbmPut s ((new.zipIdx).filterMap (fun x =>
      if useDelta && !(marked.getD x.2 (true, [])).1 then none
      else some (dgstAt s g (ctxNum p m) phase x.2, leBytes 4 x.1.toNat)))
    partOut s p m phase (if useDelta then delta else full)
  else partOut s p m phase full

/-- The part in progress is cut short (R361, R379, R382): a FULL part has sent its header and each data block that its codes
fill, with the CHECKs of whole segments. Of a part that could still leave as DELTA nothing has been sent (DEDUCED, log 68). -/
def truncate (s : State) (p : Nat) (pl : ServePlan) : State :=
  let r := ringAt s p
  match r.asm with
  | [] => s
  | (m, _, _) :: _ =>
    match pl.pos[m]? with
    | none => s
    | some q =>
      if pl.delta && !(r.forced.contains m || fullDue s p pl m r.asmPhase) then s
      else
        let s := bareParts s p pl (if r.asmPhase = 0 then m else r.n)
        let codes := r.asm.reverse.map (fun y => y.2.2)
        let ds := dataOf (codeBits codes) (48 * codes.length / 128 * 128)
        let body := withChecks m (ds.length + 1) 0 ds
        let body := if ds.length % 30 = 0 then body else body.take (body.length - 1)
        let bs := flagHead m 0 r.asmPhase (genOfFrame s (p / 16) pl.frame) pl.frame (ceilDiv (48 * q.lamps) 128) 0 :: body
        let s := emit s p bs
        let r := ringAt s p
        setRing s p { r with started := marks r.started [m], blocks := r.blocks + bs.length, asm := [] }

/-- One drive code reaches its ring (R379, R380). -/
def packCode (pl : ServePlan) (p phase : Nat) (s : State) (x : Nat × Nat × Nat) : State :=
  let r := ringAt s p
  let (m, l, _) := x
  match pl.pos[m]? with
  | none => if r.modMissing then s else ringLevels (setRing s p { r with modMissing := true }) p
  | some q =>
    if q.kind ≠ 0 then s
    else
      let asm := if l = 0 then [x] else x :: r.asm
      let s := setRing s p { r with asm := asm, asmPhase := phase }
      if l + 1 ≠ q.lamps ∨ asm.length ≠ q.lamps ∨ asm.any (fun y => decide (y.1 ≠ m)) = true then s
      else
        let s := setRing s p { ringAt s p with asm := [] }
        let s := bareParts s p pl (if phase = 0 then m else r.n)
        codePart s p pl m phase q.lw (asm.reverse.map (fun y => y.2.2))

/-- The Pennant before frame F has left the ring, or its latch has passed (R136). -/
def prevGone (s : State) (p : Nat) (f : Word) : Bool :=
  (match (ringAt s p).penFrame with
   | some q => frameGe q (f - 1)
   | none => false) || frameGe (tgen s (p / 16)).cur (f - 1)

/-- The oldest chunk for the packers of group g: the Ensign renderer's, else the ray engine's. -/
def nextChunk (s : State) (g : Nat) : Option (Chunk × State) :=
  match (bgrpAt s g).ens with
  | c :: cs => some (c, setBgrp s g { bgrpAt s g with ens := cs })
  | [] => match (eng s g).stream with
    | c :: cs => some (c, setEng s g { eng s g with stream := cs })
    | [] => none

/-- A chunk reaches its packer: its parts leave, it waits for the Pennant before it, or its codes are discarded where the
ring is not UP or the frame's Pennant has left (R136, R379, R380). -/
def packerChunk (s : State) (g : Nat) : State :=
  match nextChunk s g with
  | none => s
  | some (c, t) =>
    let p := 16 * g + c.ring
    match (ringAt s p).serve.find? (fun q => decide (q.frame = c.frame)) with
    | none => t
    | some pl =>
      if ringUp s p = false then t
      else if prevGone s p c.frame = false then s
      else c.codes.foldl (packCode pl p c.phase) (openFrame t p c.frame)

/-- R379. -/
def execPackerChunk (g : Fin 16) (s : State) : Res := done (onPage s (.bgrp g) (fun (t : State) => packerChunk t g.val))

/-! ## Frames that finish (R162) -/

/-- Frame f of group g has finished: its Pennant has left every ring, or its latch has passed. -/
def frameFinished (s : State) (g : Nat) (f : Word) : Bool :=
  frameGe (tgen s g).cur f || (List.range 16).all (fun i => match (ringAt s (16 * g + i)).penFrame with
    | some q => frameGe q f
    | none => false)

/-- The holds of finished frames end. -/
def dropFinished (s : State) (g : Nat) : State :=
  dropHolds s (fun h => match h with
    | .frame g' f => decide (g' = g) && frameFinished s g f
    | _ => false)

/-- The latch of a frame on a group's rings: plans whose Pennant never left are dropped. -/
def latchRings (s : State) (g : Nat) : State :=
  (List.range 16).foldl (fun (t : State) i =>
    let r := ringAt t (16 * g + i)
    setRing t (16 * g + i) { r with serve := r.serve.filter (fun q => !frameGe (tgen t g).cur q.frame) }) s

/-! ## Module entries of a campaign (R573, R574) -/

/-- A pending module entry is done once every X_g has latched; it fails where a group of it has stopped. -/
def campEntry (s : State) (e : CampEntry) : CampEntry :=
  if e.st ≠ 0 ∨ fld (e.words.getD 0 0) 0 2 ≠ 0 then e
  else if e.frames.any (fun x => decide ((tgen s x.1).gen = .stopped)) then { e with st := 2, code := 3 }
  else if e.frames.all (fun x => frameGe (tgen s x.1).cur x.2) then { e with st := 1 } else e

/-- The campaign ends once every entry is done or failed (R574). -/
def campCheck (s : State) : State :=
  if s.cpm.camp = 1 ∨ s.cpm.camp = 2 then
    let es := s.cpm.entries.map (campEntry s)
    let isOver := es.all (fun e => decide (e.st ≠ 0))
    raiseIf isOver .cpm 6 { s with cpm := { s.cpm with entries := es, camp := if isOver then 3 else s.cpm.camp } }
  else s

/-- The activations that pending entries put on ring p in every frame up to X_g's Pennant. -/
def campActs (s : State) (p : Nat) : List (Nat × Word) :=
  if hlpRun s (p / 16) = false ∨ (s.cpm.camp ≠ 1 ∧ s.cpm.camp ≠ 2) then []
  else s.cpm.entries.filterMap (fun e =>
    match e.frames.find? (fun x => decide (x.1 = p / 16)) with
    | some x => if e.st = 0 ∧ fld (e.words.getD 0 0) 0 2 = 0 ∧ bitOf (e.words.getD 2 0) (p % 16) = true
                   ∧ frameGe (tgen s (p / 16)).cur x.2 = false then some (fld (e.words.getD 2 0) 16 8, x.2) else none
    | none => none)

/-- The engine of group g holds frame f, or its trim unit does. -/
def engHolds (s : State) (g : Nat) (f : Word) : Bool :=
  let v := eng s g
  frameIs f v.cur || frameIs f v.waiting || v.tails.any (fun t => decide (t.frame = f))

/-- At the latch of its next frame a group that does not compose it gives its second's wear: the stored rate in SLACK, 0 in ENSIGN,
and, as for an abandoned frame, the stored rate for a frame of RUN that RAY g never took up (R307; DESIGN CHOICE, log 65). -/
def wearLatch (s : State) (g : Nat) : State :=
  match planOf (tgen s g) ((tgen s g).cur + 1) with
  | none => s
  | some pl => match sampledFor s g pl with
    | none => s
    | some sec => match pl.gov with
      | .run => if engHolds s g pl.frame then s else wearRecord s g ⟨sec, .rate⟩
      | .slack => wearRecord s g ⟨sec, .rate⟩
      | _ => wearRecord s g ⟨sec, .zero⟩

/-- R125. -/
def execFrameLatch (g : Fin 16) (s : State) : Res :=
  done (let t := frameLatch (wearLatch s g.val) g.val
        if (tgen t g.val).cur = (tgen s g.val).cur then t else campCheck (dropFinished (latchRings t g.val) g.val))

/-! ## Module firmware relay (R385 to R387) -/

def mfwCfg (s : State) (g : Nat) : Nat := max 32 (regF s (bgrpPage g) Off.BGRP_MFW_CFG 0 16)

/-- The image of a relay cannot be read at an offset: the relay ends as on an abort (R427, R428). -/
def relayBad (s : State) (rl : Relay) (off : Nat) : Bool :=
  let n := min 30 ((rl.len - off) / 16)
  decide (n ≠ 0) && !hbmReadOk s (rl.src + off) (16 * n)

/-- Relay chunks of an image from a byte offset, within a budget of blocks (R385, R386): the blocks and the next
offset. -/
def relayChunks (s : State) (rl : Relay) : Nat → Nat → Nat → List Block × Nat
  | 0, off, _ => ([], off)
  | k + 1, off, budget =>
    let n := min 30 ((rl.len - off) / 16)
    if n = 0 ∨ budget < n + 2 ∨ hbmReadOk s (rl.src + off) (16 * n) = false then ([], off)
    else
      let ds := (List.range n).map (fun j => memVal s (rl.src + off + 16 * j) 16)
      let bs := mfwChunk rl.dest (off / 16) (decide (rl.len ≤ off + 16 * n)) ds
      let r := relayChunks s rl k (off + 16 * n) (budget - (n + 2))
      (bs ++ r.1, r.2)

/-- MFW_STAT: the 16 B units that every UP ring of the relay has been sent. -/
def relayCount (s : State) (g : Nat) : State :=
  match (bgrpAt s g).relay with
  | none => s
  | some rl =>
    let ps := (maskRings g rl.mask).filter (ringUp s)
    let u := ps.foldl (fun (acc : Nat) p => min acc (ringAt s p).relayed) rl.len
    setBgrp s g { bgrpAt s g with relayUnits := u / 16 }

/-- The relay's and the activation's blocks of a frame on ring p (R386, R387). -/
def relayOut (s : State) (p : Nat) : State :=
  let g := p / 16
  let s := match (bgrpAt s g).relay with
    | none => s
    | some rl =>
      if rl.mask.testBit (p % 16) then
        let s := eccTouchAll s [(rl.src + (ringAt s p).relayed, min (16 * mfwCfg s g) (rl.len - (ringAt s p).relayed))]
        let (bs, off) := relayChunks s rl (mfwCfg s g) (ringAt s p).relayed (mfwCfg s g)
        let s := emit s p bs
        let s := relayCount (setRing s p { ringAt s p with relayed := off }) g
        if relayBad s rl off then raise (setBgrp s g { bgrpAt s g with relay := none }) (bgrpPage g) 10 else s
      else s
  let r := ringAt s p
  let s := emit s p ((r.actDue ++ campActs s p).map (fun x => mfwActivateBlock x.1 x.2))
  setRing s p { ringAt s p with actDue := [] }

/-- MFW_CMD.go (R386); discarded while a relay runs. -/
def mfwGo (s : State) (g : Nat) : State :=
  let pg := bgrpPage g
  if (bgrpAt s g).relay.isSome then s
  else
    let rl : Relay := { src := addrPair s pg Off.BGRP_MFW_SRC_LO Off.BGRP_MFW_SRC_HI, len := regF s pg Off.BGRP_MFW_LEN 0 28
                        mask := regF s pg Off.BGRP_MFW_DEST 0 16, dest := regF s pg Off.BGRP_MFW_DEST 16 8 }
    let s := (maskRings g rl.mask).foldl (fun (t : State) p => setRing t p { ringAt t p with relayed := 0 }) s
    setBgrp s g { bgrpAt s g with relay := some rl, relayUnits := 0 }

/-- MFW_CMD.abort (R386, R395). -/
def mfwAbort (s : State) (g : Nat) : State :=
  if (bgrpAt s g).relay.isSome then raise (setBgrp s g { bgrpAt s g with relay := none }) (bgrpPage g) 10 else s

/-- MFW_ACTIVATE of frame x to a position of the rings of a mask (R387, R574). -/
def mfwActivate (s : State) (g mask dest : Nat) (x : Word) : State :=
  (maskRings g mask).foldl (fun (t : State) p =>
    if ringUp t p then setRing t p { ringAt t p with actDue := (ringAt t p).actDue ++ [(dest, x)] } else t) s

/-- MFW_CMD.activate (R387). -/
def mfwActivateCmd (s : State) (g : Nat) : State :=
  let pg := bgrpPage g
  mfwActivate s g (regF s pg Off.BGRP_MFW_DEST 0 16) (regF s pg Off.BGRP_MFW_DEST 16 8) (reg s pg Off.BGRP_MFW_ACT_FRAME)

/-- A relay command of a group is refused while its link manager is not in RUN (R551). -/
def mfwCmd (s : State) (g : Nat) (f : State → State) : State :=
  if hlpRun s g then f s
  else (maskRings g (regF s (bgrpPage g) Off.BGRP_MFW_DEST 0 16)).foldl linkRefuse s

/-- A write of MFW_CMD: abort, then go, then activate. -/
def writeMfwCmdBits (s : State) (g : Nat) (v : Word) : State :=
  let s := if bitOf v 1 then mfwAbort s g else s
  let s := if bitOf v 0 then mfwGo s g else s
  if bitOf v 2 then mfwActivateCmd s g else s

/-- A write of MFW_CMD. -/
def writeMfwCmd (s : State) (g : Nat) (v : Word) : State := mfwCmd s g (fun t => writeMfwCmdBits t g v)

def execMfwRelayGo (g : Fin 16) (s : State) : Res := done (onPage s (.bgrp g) (fun (t : State) => mfwCmd t g.val (fun u => mfwGo u g.val)))
def execMfwAbort (g : Fin 16) (s : State) : Res := done (onPage s (.bgrp g) (fun (t : State) => mfwCmd t g.val (fun u => mfwAbort u g.val)))
def execMfwActivateCmd (g : Fin 16) (s : State) : Res := done (onPage s (.bgrp g) (fun (t : State) => mfwCmd t g.val (fun u => mfwActivateCmd u g.val)))

/-- R386: the image has been sent on every ring named that is UP. -/
def mfwDone (s : State) (g : Nat) : State :=
  match (bgrpAt s g).relay with
  | none => s
  | some rl =>
    if ((maskRings g rl.mask).filter (ringUp s)).all (fun p => decide (rl.len ≤ (ringAt s p).relayed + 15)) then
      let s := relayCount s g
      raise (setBgrp s g { bgrpAt s g with relay := none }) (bgrpPage g) 10
    else s

def execMfwRelayDone (g : Fin 16) (s : State) : Res := done (onPage s (.bgrp g) (fun (t : State) => mfwDone t g.val))

/-! ## Pennants (R372 to R374, R379, R381) -/

/-- Ten times the block time of a step, ns (R336). -/
def blockTime10 (step : Nat) : Nat := [1040, 520, 260, 130, 104].getD step 104

/-- An instant as held to 2^-16 ns (R127). -/
def held16 (x : Rat) : Int := ratHalfEven (x * 65536)

/-- Every part of a position has left in full. -/
def posDone (r : Ring) (pl : ServePlan) (m : Nat) (q : PosPlan) : Bool :=
  (List.range (if q.kind = 0 then pl.phases else 1)).all (fun k => r.sent.contains (4 * m + k))

/-- vt of a LATCH Pennant (R381). -/
def validThrough (r : Ring) (pl : Option ServePlan) : Nat :=
  match pl with
  | none => 0
  | some pl => match ((pl.pos.zipIdx).find? (fun x => !posDone r pl x.2 x.1)) with
    | some x => x.2
    | none => r.n

/-- The PROBE blocks of a frame on a ring, two entries to a block, a module's together (R404). -/
def probeBlocks (r : Ring) (pl : ServePlan) : List Block :=
  (List.range r.n).flatMap (fun m =>
    let es := (pl.probes.filter (fun e => decide (e.1 = m))).map (·.2)
    (List.range (min 4 (ceilDiv es.length 2))).map (fun j => probeBlock m pl.frame (es.getD (2 * j) 0) (es.getD (2 * j + 1) 0)))

/-- The kind of a frame's Pennant on ring i: 0 LATCH, 1 REPEAT, 2 DARK (R384). -/
def pennantKind (pl : FramePlan) (i : Nat) : Nat :=
  match pl.gov with
  | .run => 0
  | .ensign => if pl.dark.contains i then 2 else if pl.composed then 0 else 1
  | _ => 1

/-- What goes before the Pennant of frame F: the bare parts that are left; then, where the frame's last part has left, PROBE
blocks and relay blocks (R379, R386, R404), else the part in progress, cut short by the Pennant. -/
def beforePennant (s : State) (p kind : Nat) (pl : Option ServePlan) : State :=
  let s := setRing s p { ringAt s p with out := [], line := [] }
  let s := match pl with
    | none => s
    | some pl =>
      let s := if prevGone s p pl.frame then
          let s := openFrame s p pl.frame
          match (pl.pos.zipIdx).find? (fun x => decide (x.1.kind = 0) && !(ringAt s p).sent.contains (4 * x.2)) with
          | some x => bareParts s p pl x.2
          | none => bareParts s p pl pl.pos.length
        else s
      if validThrough (ringAt s p) (some pl) = (ringAt s p).n then emit s p (probeBlocks (ringAt s p) pl) else truncate s p pl
  if kind ≠ 0 ∨ validThrough (ringAt s p) pl = (ringAt s p).n then relayOut s p else s

/-- What the Pennant of a frame leaves known of the modules: contents, marks, plans (R365, R381). -/
def afterPennant (s : State) (p : Nat) (f : Word) (kind vt : Nat) (ens : Bool) (pl : Option ServePlan) : State :=
  let r := ringAt s p
  let all := List.range r.n
  let late := all.filter (fun m => decide (vt ≤ m))
  let took := all.filter (fun m => decide (m < vt) && (match pl with
    | some q => decide ((q.pos.getD m ⟨1, 0, 0⟩).kind ≠ 2)
    | none => false))
  let need := if kind = 0 then (if ens then all else late) else if kind = 2 then all else []
  setRing s p { r with
    content := if kind = 0 then took.foldl (fun c m => mapSet (fun _ => 0) c m f) r.content else if kind = 2 then [] else r.content
    needFull := marks r.needFull need
    serve := r.serve.filter (fun q => !frameGe f q.frame)
    sent0 := all.filter (fun m => r.sent.contains (4 * m))
    frameBlocks := r.blocks, blocks := 0, pf := none, sent := [], started := [], forced := [], asm := [] }

/-- The gap after a Pennant, then ASSIGN, DIAG_CFG and a MEAS train as they are due (R341, R347, R379). -/
def afterGap (s : State) (p : Nat) : State :=
  let s := emit s p (List.replicate (max 8 (regF s (bgrpPage (p / 16)) Off.BGRP_GAP_CFG 0 6)) fillBlock)
  let r := ringAt s p
  let s := sendAssign s p r.assignDue r.diagDue
  if r.remeas then emit s p (measTrain r.meas.length) else s

/-- Events and notices of a LATCH Pennant that leaves early (R227, R381). -/
def unfinished (s : State) (p vt : Nat) (f : Word) : State :=
  let g := p / 16
  let s := if vt < (ringAt s p).n then raise (raise s (bportPage p) 16) (tgenPage g) 9 else s
  match (eng s g).cur with
  | some fr => if fr.frame = f then setEng s g (passRing (eng s g) fr g (p % 16)) else s
  | none => s

/-- The Pennant of frame F = cur + 1 leaves ring p with its first bit at `ttx`, 2^-16 ns: the latest block slot at or
before L_F - D_p (R374). -/
def pennantDepart (s : State) (p ttx : Nat) : State :=
  let g := p / 16
  let t := tgen s g
  let f := t.cur + 1
  match planOf t f with
  | none => s
  | some fp =>
    let r := ringAt s p
    let rem : Int := held16 fp.latch - ((r.dp * 65536 + ttx : Nat) : Int)
    if r.st ≠ 6 ∨ r.penFrame = some f ∨ fp.gov = .stopped ∨ rem < 0
        ∨ ((blockTime10 r.step + 64) * 65536 : Nat) ≤ 10 * rem then s
    else
      let kind := pennantKind fp (p % 16)
      let pl := if kind = 0 then r.serve.find? (fun q => decide (q.frame = f)) else none
      let s := beforePennant s p kind pl
      let vt := if kind = 0 then validThrough (ringAt s p) pl else 0
      let gen := genOfFrame s g f
      let still : Int := halfEven (held16 (fp.latch + fp.len) - held16 fp.latch) 65536 - (fp.still : Int)
      let s := emit s p (pennant kind gen vt (halfEven rem 256).toNat f (code 26 still) fp.phases fp.ofs)
      let s := afterPennant s p f kind vt (decide (fp.gov = .ensign)) pl
      let r := ringAt s p
      let s := setRing s p { r with penFrame := some f, vt := vt, rep := r.n - vt, penKind := kind, penGen := gen, penOut := true }
      let s := if kind = 0 then unfinished s p vt f else s
      dropFinished (afterGap s p) g

/-- R136. -/
def execPennantDepart (p : Fin 256) (ttx : Nat) (s : State) : Res :=
  portEvent s p (fun (t : State) => pennantDepart t p.val ttx)

/-! ## The returning stream (R371, R392, R393) -/

/-- A report as its block states it (R369). -/
def rptOfBlock (v : Nat) : Rpt :=
  { gen := nfld v 16 4, flagOk := v.testBit 20, checkErr := v.testBit 21, deltaMiss := v.testBit 22, dark := v.testBit 76
    fwState := nfld v 80 3, fwProg := nfld v 88 8, penMissed := v.testBit 75, frame := BitVec.ofNat 32 (nfld v 24 32), reported := true }

/-- A REPORT arrives with its diagnostic blocks (R371, R399, R406). -/
def reportRx (s : State) (p v : Nat) (diag : List Nat) : State :=
  let pos := nfld v 8 8
  if (ringAt s p).st ≠ 6 ∨ 192 ≤ pos then s
  else if crcOk v = false then raise s (bportPage p) 18
  else
    let r := ringAt s p
    let q := { rptOfBlock v with reported := (rptOf r pos).reported }
    let s := ringLevels (setRing s p { r with rpt := mapSet (fun _ => Rpt.initial) r.rpt pos q, got := marks r.got [pos] }) p
    let s := raiseIf q.deltaMiss (bportPage p) 20 (raiseIf q.checkErr (bportPage p) 19 s)
    let s := if q.flagOk = false ∨ q.checkErr = true ∨ q.deltaMiss = true then markFull s p [pos] else s
    let c := ctxNum p pos
    let s := if v.testBit 72 ∧ pageUp s .geom = true then
        let s := bandReport s c (nfld v 56 16)
        setDiag s { s.diag with fresh := marks s.diag.fresh [c] }
      else s
    diagEntries s c (diag.take (nfld v 73 2))

/-- R371. -/
def execReportRx (p : Fin 256) (payload : BitVec 128) (diag : List (BitVec 128)) (s : State) : Res :=
  portEvent s p (fun (t : State) => reportRx t p.val payload.toNat (diag.map (·.toNat)))

/-- R371: a FLAG_HEAD comes back. -/
def execFlagHeadReturn (p : Fin 256) (s : State) : Res :=
  portEvent s p (fun (t : State) => if (ringAt t p.val).st = 6 then raise t (.bport p) 21 else t)

/-- The reports of the last frame are all in. -/
def closeReports (s : State) (p : Nat) : State :=
  let r := ringAt s p
  let rpt := r.rpt.foldl (fun (m : AMap Rpt) (e : Nat × Rpt) =>
    mapSet (fun _ => Rpt.initial) m e.1 { e.2 with reported := r.got.contains e.1 }) r.rpt
  setRing s p { r with penOut := false, rpt := rpt, got := [], sent0 := [] }

/-- R371: the Pennant returns; modules whose part 0 left in full and whose report has not come back are missing. -/
def pennantReturn (s : State) (p : Nat) : State :=
  let r := ringAt s p
  if r.penOut = false then s
  else
    let missing := r.sent0.filter (fun m => !r.got.contains m)
    raiseIf (!missing.isEmpty) (bportPage p) 17 (markFull (closeReports s p) p missing)

def execPennantReturn (p : Fin 256) (s : State) : Res := portEvent s p (fun (t : State) => pennantReturn t p.val)

/-- R393: no valid Pennant within rl + 1 µs; modules whose report has not come back take FULL parts (R365). -/
def penLost (s : State) (p : Nat) : State :=
  let r := ringAt s p
  if r.penOut then
    raise (markFull (closeReports s p) p (r.sent0.filter (fun m => !r.got.contains m))) (bportPage p) 22
  else s

def execPenLost (p : Fin 256) (s : State) : Res := portEvent s p (fun (t : State) => penLost t p.val)

end Sys2Proof.Machine
end

