-- ==== Sys2Proof/Machine/Islands.lean ====
section
/-!
DEFINITION. Islands: requests, the power sequencer, closing and opening, what each island loses and starts with, and the
state of the helpers (spec/02_register_pages.md R40 to R45, spec/03_islands_and_weirs.md R68 to R90,
spec/21_firmware_and_update.md R551 to R553).
-/
namespace Sys2Proof.Machine

/-! ## Pages of an island (R37) -/

/-- The pages of island k. -/
def pagesOf (k : Nat) : List Page :=
  if k = 0 then [.glb, .isl, .time, .sync, .thrm]
  else if k = 1 then [.cpm, .sec, .diag, .cal]
  else if k = 2 then [.layr, .geom, .trim, .fade, .fab]
  else if k = 3 then .hbm :: (List.range 16).map (fun n => .hbmpc (Fin.ofNat 16 n))
  else if k < 20 then [.reng (Fin.ofNat 16 (k - 4))]
  else if k < 36 then
    .tgen (Fin.ofNat 16 (k - 20)) :: .bgrp (Fin.ofNat 16 (k - 20)) :: (List.range 16).map (fun i => .bport (Fin.ofNat 256 (16 * (k - 20) + i)))
  else if k = 36 then [.pcie, .nvme]
  else if k = 37 then .flow :: (List.range 16).map (fun n => .net (Fin.ofNat 16 n))
  else if k = 38 then (List.range 4).map (fun c => .cam (Fin.ofNat 4 c))
  else if k < 43 then [.aud (Fin.ofNat 4 (k - 39))]
  else [.scal, .codec 0, .codec 1, .codec 2, .codec 3, .blit]

/-- A register or page key belongs to island k. -/
def keyIn (k key : Nat) : Bool := match keyPage key with
  | some p => decide (islandOf p = k)
  | none => false

/-- A pulse in every page of island k. -/
def raiseAll (s : State) (k b : Nat) : State := (pagesOf k).foldl (fun (t : State) p => raise t p b) s

/-! ## Helpers (R551, R552) -/

/-- HLP_DEAD. -/
def hlpLevel (s : State) : State := setLevel s .cpm 2 (s.cpm.helpers.any (fun e => decide (e.2.st = 5)))

/-- What a helper's functions do as it leaves RUN (R551). -/
def hlpLeave (s : State) (h : Nat) : State :=
  if h = 16 then ckptEnd (storeHelperLost s) false
  else if h = 18 then updaterLost s
  else if h = 22 then camHelperLost s
  else s

/-- A helper leaves RUN for RESET, UPDATE or DEAD. -/
def hlpStop (s : State) (h st : Nat) : State :=
  let run := hlpRun s h
  let s := setHlp s h { hlpAt s h with st := st }
  hlpLevel (if run then hlpLeave s h else s)

/-- The lane runs: a ring's receiver in block lock, a network lane whose port has its link (R593). -/
def laneRuns (s : State) (l : Nat) : Bool :=
  if l < 256 then (ringAt s l).rxLock else (portAt s (if s.netMode4 then (l - 256) / 4 else l - 256)).link

/-- Measurement `n` of the slicer offsets of the lanes that run; the others keep what was measured before (R593; DESIGN CHOICE, log 71:
once a pass, as it starts). -/
def slicerMeasure (s : State) (n : Nat) : AMap (Option Byte) :=
  ((List.range 272).filter (laneRuns s)).foldl (fun m l => mapSet (fun _ => none) m l (some (Config.slicerOffset n l))) s.cal.slicer

/-- A calibration pass is asked for: it starts, or waits behind the present one (R591). -/
def calStart (s : State) : State :=
  let (n, s) := draw s
  { s with cal := { s.cal with busy := true, again := false, stepped := 0, due := List.range 43, slicer := slicerMeasure s n } }
def calRequest (s : State) : State :=
  if bitOf (force s .cal Off.CAL_CAL_CFG) 24 = false ∨ hlpRun s 19 = false then s
  else if s.cal.busy then { s with cal := { s.cal with again := true } } else calStart s

/-- What a helper does as it enters RUN. -/
def hlpBegin (s : State) (h : Nat) : State :=
  if h = 18 then (List.range 64).foldl updNext s else if h = 19 then calRequest s else s

/-- A helper enters RUN with a microcode version. -/
def hlpEnter (s : State) (h : Nat) (ver : Word) : State := hlpLevel (hlpBegin (setHlp s h ⟨3, ver, true⟩) h)

/-- A helper enters RUN with its island, from the NVM store's microcode. -/
def hlpLoad (s : State) (h : Nat) : State :=
  if (hlpAt s h).st = 1 then
    hlpEnter s h (match nvImage s 2 (hlpKind h) with
      | some r => imgVersion r.payload
      | none => (hlpAt s h).ver)
  else s

/-- The helpers of CTL. -/
def ctlHelpers : List Nat := [17, 18, 19, 21, 22]

/-! ## What an island loses (R41, R69) -/

/-- Every frame of group g has finished (R162). -/
def dropFrames (s : State) (g : Nat) : State :=
  dropHolds s (fun h => match h with
    | .frame g' _ => decide (g' = g)
    | _ => false)

/-- The work of RAY g that is lost; its tables stand until RESET (R220, R225). -/
def engDrop (s : State) (g : Nat) : State :=
  let v := eng s g
  setEng s g { Engine.initial with olut := v.olut, kern := v.kern, therm := v.therm, dcap := v.dcap, trips := v.trips
                                   doneFrame := v.doneFrame, abandoned := v.abandoned }

/-- What of the control processor outlives CTL: the helpers of other islands, and the fixed debug state. -/
def cpmLost (s : State) : State :=
  let s := ctlHelpers.foldl (fun (t : State) h => hlpStop t h 1) s
  { s with cpm := { Cpm.initial with helpers := s.cpm.helpers, debug := s.cpm.debug, policy := s.cpm.policy
                                     policySeq := s.cpm.policySeq, settings := s.cpm.settings, nonce := s.cpm.nonce }
           cal := CalUnit.initial, ens := Ensign.initial
           diag := { s.diag with cmd := none } }

/-- Every commit pending in the pages of a PGRP is discarded (R146). -/
def dropCommits (s : State) (k : Nat) : State :=
  (pagesOf k).foldl (fun (t : State) p => setCslot t p 0 { cslot t p 0 with pending := none }) s

/-- Island k leaves IDLE or RUN for a state in which its Weirs are closed. -/
def islandLeave (s : State) (k : Nat) : State :=
  let s := { s with unnoticed := s.unnoticed.filter (fun e => decide (e.1 / 16 ≠ k) && (decide (k < 20) || decide (36 ≤ k) || decide (e.1 % 16 ≠ k - 20))) }
  if k = 1 then cpmLost s
  else if k = 2 then
    let s := hbmFabLost s
    setTrim (layrLost { s with layr := { s.layr with fill := none } })
      { s.trim with rgns := [], fills := [], tsets := [] }
  else if k = 3 then
    let s := hbmStop s true
    { s with therm := { s.therm with sens := mapSet (fun _ => Sensor.initial) s.therm.sens 24 Sensor.initial } }
  else if k < 4 then s
  else if k < 20 then rgnPast (dropFrames (engDrop s (k - 4)) (k - 4)) (k - 4)
  else if k < 36 then
    let g := k - 20
    let s := hlpStop (ringsLost (setTgen (dropCommits s k) g Tgen.initial) g) g 1
    rgnPast (rgnStopped (dropFrames (setEng s g { eng s g with stream := [] }) g) g (nextClose (tgen s g))) g
  else if k = 36 then
    let s := ckptEnd (hlpStop (storeLost s) 16 1) false
    orphan { s with host := { s.host with dma := [], bells := [], d3 := false, bars := [] }, bar2 := { s.bar2 with flush := false }
                    msix := { Msix.initial with sent := s.msix.sent } } 36
  else if k = 37 then orphan (netLost s) 37
  else if k = 38 then orphan (camLost s) 38
  else if k < 43 then audLost s (k - 39)
  else orphan (blitLost (codecLost (scalLost s))) 43

/-- What RESET and OFF also take: registers, pending commits and on-die tables (R41, R69); OFF takes the microcode of a PGRP's helper
too. -/
def islandWipe (s : State) (k : Nat) (off : Bool) : State :=
  let keep (key : Nat) : Bool := !keyIn k key
  let s := { s with
    regs := mapKeep keep s.regs, inForce := mapKeep keep s.inForce, evPend := mapKeep keep s.evPend
    evRaw := mapKeep keep s.evRaw, captures := mapKeep keep s.captures
    commits := mapKeep (fun c => match pageOfSlot (c / 16) with
      | some p => decide (islandOf p ≠ k)
      | none => true) s.commits }
  if k = 1 then { s with diag := DiagUnit.initial }
  else if k = 2 then { s with layr := LayrUnit.initial, geom := GeomUnit.initial, trim := TrimUnit.initial, fade := FadeUnit.initial }
  else if k = 3 then hbmLost s
  else if 4 ≤ k ∧ k < 20 then engLost s (k - 4)
  else if 20 ≤ k ∧ k < 36 ∧ off = true then setHlp s (k - 20) Helper.initial
  else if k = 37 then netWipe s
  else if k = 38 then camWipe s
  else if 39 ≤ k ∧ k < 43 then setAud s (k - 39) Aud.initial
  else if k = 43 then setScal s ScalUnit.initial
  else s

/-! ## Changes of state (R42, R43, R88) -/

def deadAny (s : State) : Bool := s.isl.any (fun e => decide (e.2.st = .dead))

/-- The ISL page's level events (R90). -/
def islLevels (s : State) : State :=
  setLevel (setLevel s .isl 1 (deadAny s)) .isl 2 (s.isl.any (fun e => e.2.holdover))

/-- A bit of a register pair of ISL that holds one bit an island. -/
def islBit (s : State) (lo k : Nat) : State :=
  setReg s .isl (lo + 4 * (k / 32)) (putBit (reg s .isl (lo + 4 * (k / 32))) (k % 32) true)

/-- IMG_VER as island k enters a state: the image of an UPDATE, and 0 in OFF, where the microcode is lost (R42, R69, R553; log 58). -/
def downVer (v : Island) : IslState → Word
  | .off => 0
  | .update => match v.load with
    | some l => l.1
    | none => v.imgVer
  | _ => v.imgVer

/-- Island k enters OFF, RESET, UPDATE or DEAD. PCTRL's resume is AON's: it clears in RESET alone (R41, R69), as does no follower PLL's
holdover (R71). -/
def islandDown (s : State) (k : Nat) (st : IslState) : State :=
  let v := island s k
  let open_ := decide (v.st = .idle) || decide (v.st = .run)
  let s := if open_ then closeWeirs (islandLeave s k) k else s
  let wipe := decide (st = .off) || decide (st = .reset)
  let s := setIsland s k { v with st := st, target := none, updFrom := v.st, imgVer := downVer v st
                                  resume := v.resume && decide (st ≠ .reset), load := if wipe then none else v.load }
  let s := if wipe then islandWipe s k (decide (st = .off)) else s
  let s := if 20 ≤ k ∧ k < 36 then allTgenLevels s else s
  islLevels (raise (islBit s Off.ISL_DOWN_LO k) .isl 0)

/-- A transition that no request asked for: the Weirs of island k start to close where they are open, PSTATE.moving reads 1 until the new
state is reached, and the pages see PSTATE change (R46, R78). -/
def islandClose (s : State) (k : Nat) (goal : IslState) : State :=
  if islandUp s k then setIsland (raiseAll s k evState) k { island s k with target := some goal } else islandDown s k goal

/-- REC_WAIT (R475). -/
def recLevel (s : State) : State := setLevel s .pcie 5 (decide (s.recov.st = 1))

/-- The level events of island k's pages, as its pages answer again: EV_RAW shows the live conditions (R47). -/
def relevel (s : State) (k : Nat) : State :=
  let each (n : Nat) (f : State → Nat → State) (t : State) : State := (List.range n).foldl f t
  if k = 1 then setLevel (diagLevels (hlpLevel s)) .cpm 8 s.cpm.newer
  else if k = 2 then layrLevels s
  else if k = 3 then hbmLevels s
  else if k < 20 then dcapLevel (sigLevel s (k - 4)) (k - 4)
  else if k < 36 then
    let g := k - 20
    let s := setLevel (allTgenLevels s) (bgrpPage g) 0 (bgrpAt s g).pll
    each 16 (fun t i => ringLevels t (16 * g + i)) s
  else if k = 36 then each 4 drvLevel (recLevel s)
  else if k = 37 then each 8 flowLevel (each 16 (fun t n => setLevel t (netPage n) 0 (portAt t n).link) s)
  else if k = 38 then each 4 camLevel s
  else if k < 43 then setLevel (audLevel s (k - 39)) (audPage (k - 39)) 8 false
  else if k = 43 then each 4 codecLevels (setBlit s s.blit)
  else s

/-- What the entry into IDLE starts. -/
def idleBegin (s : State) (k : Nat) : State :=
  if k = 3 then hbmIdle s
  else if 20 ≤ k ∧ k < 36 then (if (hlpAt s (k - 20)).ran then s else hlpLoad s (k - 20))
  else s

/-- What the entry into RUN starts. -/
def runBegin (s : State) (k : Nat) : State :=
  if k = 3 then hbmRun s
  else if k = 43 then scalEnterRun s
  else if 20 ≤ k ∧ k < 36 then hlpLoad s (k - 20)
  else if k = 36 then hlpLoad s 16
  else s

/-- Island k enters IDLE or RUN. -/
def islandRise (s : State) (k : Nat) (st : IslState) : State :=
  let v := island s k
  let closed := decide (v.st ≠ .idle) && decide (v.st ≠ .run)
  let s := setIsland s k { v with st := st, target := none, load := none }
  let s := if closed then relevel (openWeirs s k) k else s
  let s := raiseAll (islLevels s) k evState
  if st = .idle then idleBegin s k
  else runBegin (if closed then idleBegin s k else s) k

/-! ## Requests (R42 to R44, R72, R553) -/

/-- Every request to the island is refused (R72, R589). -/
def islFixed (s : State) (k : Nat) : Bool := decide (k = 0) || decide (k = 1) || decide (k = 36) || s.pins.tripped

/-- R43's table: a request for `to` in state `st`. -/
def reqAllowed (st goal : IslState) : Bool :=
  match st, goal with
  | .off, .reset => true
  | .reset, .idle | .reset, .off => true
  | .idle, .run | .idle, .reset | .idle, .off | .idle, .update => true
  | .run, .idle | .run, .reset | .run, .update => true
  | .dead, .update | .dead, .off => true
  | _, _ => false

/-- Island k may enter RUN: its microcode is loaded, and HBM's training passed (R434, R553). -/
def mayRun (s : State) (k : Nat) : Bool :=
  ((islKind k).isNone || decide ((island s k).imgVer ≠ 0)) && (decide (k ≠ 3) || decide (s.hbm.train < 2))

/-- A request that is refused (R44, R88). -/
def reqRefuse (s : State) (p : Page) (k : Nat) : State :=
  if islandUp s k && (island s k).target.isNone then raise s p evReqRefused
  else raise (islBit s Off.ISL_REFUSED_LO k) .isl 3

/-- A RAY asked for IDLE answers a frame-start command that waits behind the present frame ABSENT (R627). -/
def dropWaiting (s : State) (k : Nat) : State :=
  if 4 ≤ k ∧ k < 20 then setEng s (k - 4) { eng s (k - 4) with waiting := none } else s

/-- An accepted request begins: at once where nothing has to close, drain or start. -/
def reqBegin (s : State) (k : Nat) (goal : IslState) : State :=
  let v := island s k
  let s := if islandUp s k then raiseAll s k evState else s
  let s := if goal = .update then setIsland s k { v with load := islImage s k } else s
  let v := island s k
  match v.st, goal with
  | .off, _ => setIsland { s with pwrQueue := s.pwrQueue ++ [k] } k { v with target := some goal }
  | .reset, .off | .dead, _ => islandDown s k goal
  | .idle, .run => islandRise s k .run
  | .run, .idle => dropWaiting (setIsland s k { v with target := some goal }) k
  | _, _ => setIsland s k { v with target := some goal }

/-- A request reaches island k through page p. -/
def islandReq (s : State) (p : Page) (k : Nat) (goal : IslState) : State :=
  let v := island s k
  if islFixed s k ∨ v.target.isSome ∨ v.st = .update then reqRefuse s p k
  else if v.st = goal then s
  else if reqAllowed v.st goal = false ∨ (goal = .run ∧ mayRun s k = false)
          ∨ (goal = .update ∧ ((islImage s k).isNone ∨ hlpRun s 21 = false)) then reqRefuse s p k
  else reqBegin s k goal

/-- A write of PCTRL through page p: resume, then the request (R42). -/
def pctrlWrite (s : State) (p : Page) (req : Nat) (resume : Bool) : State :=
  if !pagePresent s p then s
  else
    let k := islandOf p
    let s := setIsland s k { island s k with resume := resume }
    match req with
    | 0 => s
    | 1 => islandReq s p k .off
    | 2 => islandReq s p k .reset
    | 3 => islandReq s p k .idle
    | 4 => islandReq s p k .run
    | 5 => islandReq s p k .update
    | _ => reqRefuse s p k

/-- R42: req = 0. -/
def execPctrlResumeSet (p : Page) (v : Word) (s : State) : Res := done (pctrlWrite s p 0 (bitOf v 8))

/-- R43. -/
def execPctrlReqOff (p : Page) (resume : Bool) (s : State) : Res := done (pctrlWrite s p 1 resume)

/-- R43. -/
def execPctrlReqReset (p : Page) (resume : Bool) (s : State) : Res := done (pctrlWrite s p 2 resume)

/-- R43. -/
def execPctrlReqIdle (p : Page) (resume : Bool) (s : State) : Res := done (pctrlWrite s p 3 resume)

/-- R43. -/
def execPctrlReqRun (p : Page) (resume : Bool) (s : State) : Res := done (pctrlWrite s p 4 resume)

/-- R43, R553. -/
def execPctrlReqUpdate (p : Page) (resume : Bool) (s : State) : Res := done (pctrlWrite s p 5 resume)

/-! ## The events that end a transition -/

/-- R70: the head of the power sequencer's queue enters RESET. -/
def powerClosed (s : State) : State :=
  match s.pwrQueue with
  | [] => s
  | k :: q => islandDown { s with pwrQueue := q } k .reset

def execPowerSwitchClosed (s : State) : Res := done (powerClosed s)

/-- What NET and HOST read from the settings as they leave RESET (R447, R480). -/
def exitStraps (s : State) (k : Nat) : State :=
  let w (i : Nat) : Word := s.cpm.settings.getD i 0
  if k = 37 then
    let s := { s with netMode4 := !bitOf (w 2) 0 }
    (List.range 16).foldl (fun (t : State) n =>
      let m := (w 3).toNat + fld (w 4) 0 16 * 2 ^ 32 + n
      setReg (setReg t (netPage n) Off.NET_MAC_LO (BitVec.ofNat 32 m)) (netPage n) Off.NET_MAC_HI (BitVec.ofNat 32 (m / 2 ^ 32 % 2 ^ 16))) s
  else if k = 36 then { s with host := { s.host with x8 := bitOf (w 0) 0 } }
  else s

/-- An island leaves RESET; HOST goes on to RUN (R43, R73). -/
def resetExit (s : State) (k : Nat) : State :=
  if (island s k).st = .reset ∧ (island s k).target = some .idle then
    let s := islandRise (exitStraps s k) k .idle
    if k = 36 then islandRise s 36 .run else s
  else s

/-- R43: every island but HBM, whose training ends its exit. -/
def execIslandResetExit (i : Fin 44) (s : State) : Res := done (if i.val = 3 then s else resetExit s i.val)

/-- R433, R434: training ends with code 1, or with the failing step and channel. -/
def hbmTrained (s : State) (fail chan : Nat) (repaired : Bool) : State :=
  if (island s 3).st = .reset ∧ (island s 3).target = some .idle then
    let s := setHbm { s with mem := [], ecc := [] }
      { HbmUnit.initial with train := fail + 1, trainChan := if fail < 2 then 0 else chan, repaired := repaired }
    hbmLevels (resetExit s 3)
  else s

def execHbmTrainingDone (fail : Fin 4) (chan : Fin 8) (repaired : Bool) (s : State) : Res :=
  done (hbmTrained s fail.val chan.val repaired)

/-- R78: every Weir of the island has closed; a HOST that PERST_N has released goes on (R73, R449). -/
def hostFollow (s : State) : State :=
  if (island s 36).st = .reset ∧ (island s 36).target = none ∧ s.pins.perst = true ∧ s.pins.strapped = true
     ∧ s.pins.tripped = false then setIsland s 36 { island s 36 with target := some .idle }
  else s

def weirsClosed (s : State) (k : Nat) : State :=
  match (island s k).target with
  | some goal =>
    if islandUp s k && (decide (goal = .reset) || decide (goal = .off) || decide (goal = .update) || decide (goal = .dead)) then
      let s := islandDown s k goal
      if k = 36 then hostFollow s else s
    else s
  | none => s

def execIslandWeirsClosed (i : Fin 44) (s : State) : Res := done (weirsClosed s i.val)

/-- What FAB has accepted and not completed (log 59): requests at its arbiter, a LUT fill, wear updates, and region requests in FILL or
COPY. -/
def fabBusy (s : State) : Bool :=
  !s.hbm.waiting.isEmpty || s.layr.fill.isSome || !s.trim.wearBusy.isEmpty
  || s.trim.rgns.any (fun e => decide (e.2.st = 1) || decide (e.2.st = 4))

/-- A flow's frames that are not complete (log 59). -/
def flowBusy (v : Flow) : Bool :=
  v.frame.isSome || !v.closing.isEmpty || decide (v.half0.st ≠ 0) || decide (v.half1.st ≠ 0) || v.dec.isSome

/-- A camera's frames that are not complete, and a settings set being written (log 59). -/
def camBusy (v : Cam) : Bool := v.frame.isSome || !v.statsQ.isEmpty || !v.spotQ.isEmpty || v.writing.isSome

/-- The work that island k had accepted is complete (R45). The spec gives the unit of RAY (R627) and of HBM (R435, which `drainDone`
serves); the others' are log 59's. -/
def drained (s : State) (k : Nat) : Bool :=
  if k = 2 then !fabBusy s
  else if 4 ≤ k ∧ k < 20 then (eng s (k - 4)).cur.isNone
  else if 20 ≤ k ∧ k < 36 then (bgrpAt s (k - 20)).relay.isNone
  else if k = 37 then !s.net.flows.any (fun e => flowBusy e.2)
  else if k = 38 then !s.cam.any (fun e => camBusy e.2)
  else if k = 43 then s.scal.running.isNone && s.blit.run.isNone && (List.range 4).all (fun c => (codecRun s c).isNone)
  else true

/-- RUN to IDLE ends (R45, R435, R627); FAB loses buffer ownership as it leaves RUN (R166). -/
def drainDone (s : State) (k : Nat) : State :=
  if (island s k).st = .run ∧ (island s k).target = some .idle ∧ drained s k = true then
    let s := if k = 3 then hbmDrain s
      else if k = 2 then layrLost s
      else if k = 43 then fillMediaLost s
      else s
    islandRise s k .idle
  else s

def execRunToIdleDrainDone (i : Fin 44) (s : State) : Res := done (drainDone s i.val)

/-! ## PERST_N and the resets of the host port (R73, R449) -/

/-- HOST is held in reset, as by an accepted request RESET. -/
def hostReset (s : State) : State :=
  let v := island s 36
  match v.st with
  | .idle | .run => islandClose s 36 .reset
  | .reset => setIsland s 36 { v with target := none }
  | _ => s

/-- R73. -/
def execPerstNAssert (s : State) : Res := done (hostReset { s with pins := { s.pins with perst := false } })

/-- R73. -/
def execPerstNDeassert (s : State) : Res := done (hostFollow { s with pins := { s.pins with perst := true } })

/-- A reset of the port that acts as PERST_N and its release (R449). -/
def hostPulse (s : State) : State := hostFollow (hostReset s)

/-- R449. -/
def execPcieHotReset (s : State) : Res := done (hostPulse s)

/-- R449. -/
def execPcieFlr (s : State) : Res := done (hostPulse s)

/-- R449. -/
def execPcieLinkDown (s : State) : Res := done (hostPulse s)

end Sys2Proof.Machine
end

