-- ==== Sys2Proof/Machine/Thermal.lean ====
section
/-!
DEFINITION. Temperature sensors, the thermal governor, the trip, and the calibration of delay lines
(spec/22_thermal_and_selfcal.md R579 to R600, spec/15_hbm_controller.md R424, spec/24_electrical_package.md R615).
-/
namespace Sys2Proof.Machine

/-! ## Sensors (R579 to R582) -/

def sensor (s : State) (i : Nat) : Sensor := mapGet (fun _ => Sensor.initial) s.therm.sens i
def setTherm (s : State) (v : Therm) : State := { s with therm := v }
def setSensor (s : State) (i : Nat) (v : Sensor) : State :=
  setTherm s { s.therm with sens := mapSet (fun _ => Sensor.initial) s.therm.sens i v }

/-- Sensor i exists on the part. -/
def sensorPresent (pt : Part) (i : Nat) : Bool :=
  decide (i < 25) && !(decide (pt = .af128x16) && ((decide (8 ≤ i) && decide (i < 16)) || decide (i = 20) || decide (i = 21)))

/-- The die sensors of the part. -/
def dieSensors (s : State) : List Nat := (List.range 24).filter (sensorPresent s.part)

/-- A die sensor reading takes part: valid and not faulty. -/
def sensorGood (s : State) (i : Nat) : Bool := (sensor s i).valid && !(sensor s i).fault

/-- The highest valid, non-faulty die sensor reading, and the lowest index that holds it (R582). -/
def tempMax (s : State) : Option (Int × Nat) :=
  ((dieSensors s).filter (sensorGood s)).foldl (fun (acc : Option (Int × Nat)) i => match acc with
    | none => some ((sensor s i).temp, i)
    | some m => if m.1 < (sensor s i).temp then some ((sensor s i).temp, i) else acc) none

/-- Sensor 24 is valid: HBM is IDLE or RUN, training has passed, and a sample has been obtained (R580). -/
def hbmSensor (s : State) : Bool := (sensor s 24).valid && islandUp s islHbm && decide (s.hbm.train = 1)

/-! ## The governor (R583, R584) -/

/-- up(t, st), with 0 for an invalid t. -/
def upSteps (t : Option Int) (st gs : Int) : Nat :=
  match t with
  | none => 0
  | some t => ((List.range 7).filter (fun (k : Nat) => decide (256 * (st + (k : Int) * gs) ≤ t))).length

def govStep (s : State) (g : Nat) : Nat := mapGet (fun _ => 0) s.therm.steps g
def setGovStep (s : State) (g n : Nat) : State := setTherm s { s.therm with steps := mapSet (fun _ => 0) s.therm.steps g n }

/-- Step to DCAP_NOW.therm (R584). -/
def thermOf (n : Nat) : Nat := [32, 24, 16, 12, 8, 4, 2, 1].getD n 1

/-- A die sensor as the governor sees it: a faulty one at 150 °C. -/
def govTemp (s : State) (i : Nat) : Option Int :=
  if sensorPresent s.part i = false then none
  else if (sensor s i).fault then some (150 * 256)
  else if (sensor s i).valid then some (sensor s i).temp else none

def optMax (a b : Option Int) : Option Int :=
  match a, b with
  | none, x | x, none => x
  | some x, some y => some (max x y)

/-- t_sh: the highest shared sensor. -/
def sharedTemp (s : State) : Option Int := (List.range 8).foldl (fun acc k => optMax acc (govTemp s (16 + k))) none

/-- The step of group g at the next evaluation. -/
def govNext (s : State) (g : Nat) : Nat :=
  let cfg := force s .thrm Off.THRM_GOV_CFG
  let st := (fld cfg 0 8 : Int)
  let gs := (fld cfg 8 4 : Int)
  let hy := (fld cfg 12 4 : Int) * 256
  let hs := (fld cfg 16 8 : Int)
  let rf := if s.therm.hold then 2 else 0
  let tg := optMax (govTemp s g) (sharedTemp s)
  let th := if hbmSensor s then some (sensor s 24).temp else none
  let u := max (max (upSteps tg st gs) (upSteps th hs gs)) rf
  let d := max (max (upSteps (tg.map (· + hy)) st gs) (upSteps (th.map (· + hy)) hs gs)) rf
  let n := govStep s g
  if bitOf cfg 24 = false then 0 else if n < u then n + 1 else if d < n then n - 1 else n

/-- Any s[g] is 1 or more. -/
def throttled (s : State) : Bool := s.therm.steps.any (fun e => decide (1 ≤ e.2))

/-- A condition of ALERT_N that ALERT_CFG enables holds (R587). -/
def alertHolds (s : State) : Bool :=
  let cfg := force s .thrm Off.THRM_ALERT_CFG
  (bitOf cfg 8 && (match tempMax s with
    | some m => decide (256 * (fld cfg 0 8 : Int) ≤ m.1)
    | none => false))
  || (bitOf cfg 9 && throttled s) || (bitOf cfg 10 && s.therm.rising)
  || (bitOf cfg 11 && (dieSensors s).any (fun i => (sensor s i).fault))

/-- The THRM page's level events (R598). -/
def thermLevels (s : State) : State :=
  let s := setLevel s .thrm 0 s.therm.alert
  let s := setLevel s .thrm 1 (throttled s)
  let s := setLevel s .thrm 4 ((dieSensors s).any (fun i => (sensor s i).fault))
  setLevel s .thrm 5 s.therm.untrimmed

/-- The governor is in RUN: it starts with the AON circuits (R601), and runs unless its helper is being updated or is DEAD. -/
def govAwake (s : State) : State := if (hlpAt s 20).st = 1 then hlpLoad s 20 else s

/-- R583: one evaluation. -/
def governorTick (s : State) : State :=
  let s := govAwake s
  if hlpRun s 20 = false then s
  else
    let gs := List.range (groupCount s.part)
    let next := gs.map (govNext s)
    let t := (gs.zip next).foldl (fun (t : State) x => setGovStep t x.1 x.2) s
    let t := raiseIf ((gs.zip next).any (fun x => decide (govStep s x.1 ≠ x.2))) .thrm 2 t
    thermLevels (setTherm t { t.therm with alert := t.therm.alert || alertHolds t })

def execGovernorTick (s : State) : Res := done (governorTick s)

/-- R585: 10 s have passed since the condition ended. -/
def execRiseHoldExpiry (s : State) : Res :=
  done (if s.therm.rising then s else setTherm s { s.therm with hold := false })

/-! ## The trip (R588, R589, R615) -/

/-- THERMTRIP_N is driven low: every island but AON loses its power, the shutters and triggers rest, and PCTRL is refused. -/
def trip (s : State) : State :=
  if s.pins.tripped then s
  else
    let s := { s with pins := { s.pins with tripped := true }, pwrQueue := [], shutPulses := [], camPulses := [] }
    ((List.range 43).filter (fun k => islandPresent s.part (k + 1))).foldl (fun (t : State) k =>
      if (island t (k + 1)).st = .off then setIsland t (k + 1) { island t (k + 1) with target := none }
      else islandDown t (k + 1) .off) s

/-- The device's supplies are removed and return (R615): the trip is cleared, and every island but AON stays as PORST_N will
leave it. -/
def execVddCoreOff (s : State) : Res := done { s with pins := { s.pins with tripped := false } }

/-! ## Samples (R580, R585, R588) -/

/-- One conversion of a die sensor: a reading in 1/8 °C, or none where it fails; the register keeps the last good one (R580). -/
def sampleOne (s : State) (i : Nat) (r : Option Int) : State :=
  let v := sensor s i
  match r.filter (fun x => decide (-320 ≤ x) && decide (x ≤ 1200)) with
  | none =>
    let s := setSensor s i { v with fault := true }
    let hist := if v.valid then (v.temp :: mapGet (fun _ => []) s.therm.hist i).take 5001 else []
    setTherm s { s.therm with hist := mapSet (fun _ => []) s.therm.hist i hist, overs := mapSet (fun _ => 0) s.therm.overs i 0 }
  | some x =>
    let s := setSensor s i ⟨32 * x, true, false⟩
    let hist := ((32 * x) :: mapGet (fun _ => []) s.therm.hist i).take 5001
    let overs := if 256 * (s.cpm.policy.trip : Int) ≤ 32 * x then min 3 (mapGet (fun _ => 0) s.therm.overs i + 1) else 0
    setTherm s { s.therm with hist := mapSet (fun _ => []) s.therm.hist i hist
                              overs := mapSet (fun _ => 0) s.therm.overs i overs }

/-- A sensor's rate of rise exceeds rise_thr (R585). -/
def risesNow (s : State) (i : Nat) : Bool :=
  let h := mapGet (fun _ => []) s.therm.hist i
  sensorGood s i && (match h.head?, h[5000]? with
    | some a, some b => decide (256 * (forceF s .thrm Off.THRM_RISE_CFG 0 8 : Int) < 4 * (a - b))
    | _, _ => false)

/-- The rise condition, with rf held while it lasts and after (R585). -/
def riseCheck (s : State) : State :=
  let on := bitOf (force s .thrm Off.THRM_RISE_CFG) 8 && (dieSensors s).any (risesNow s)
  raiseIf on .thrm 3 (setTherm s { s.therm with rising := on, hold := s.therm.hold || on })

/-- A thermal cycle: above 70 °C after below 40 °C (R576). -/
def cycleCheck (s : State) : State :=
  match tempMax s with
  | none => s
  | some m =>
    if m.1 < 40 * 256 then setTherm s { s.therm with cold := true }
    else if 70 * 256 < m.1 ∧ s.therm.cold = true then
      { setTherm s { s.therm with cold := false } with last := { s.last with cycles := s.last.cycles + 1 } }
    else s

/-- The nearest sensor of a delay line (R591). -/
def lineSensor (k : Nat) : Nat := if k < 27 then 16 else 18 + (k - 27) / 4
def calLine (s : State) (k : Nat) : CalLine := mapGet (fun _ => CalLine.initial) s.cal.lines k

/-- Lines whose sensor has moved by temp_delta since their last calibration are calibrated alone (R591). -/
def calDrift (s : State) : State :=
  let cfg := force s .cal Off.CAL_CAL_CFG
  if bitOf cfg 24 = false ∨ hlpRun s 19 = false then s
  else
    let drift (k : Nat) : Bool := (calLine s k).valid && sensorGood s (lineSensor k)
      && decide (256 * fld cfg 16 8 ≤ ((sensor s (lineSensor k)).temp - (calLine s k).temp).natAbs)
    { s with cal := { s.cal with due := (s.cal.due ++ (List.range 43).filter drift).eraseDups } }

/-- The samples of one 50 µs: the trip first, then RISE, ALERT_N, and what depends on TEMP_MAX. -/
def sensorSample (s : State) (rs : List (Option Int)) : State :=
  let s := govAwake s
  let s := (dieSensors s).foldl (fun (t : State) i => sampleOne t i (rs.getD i none)) s
  if s.therm.overs.any (fun e => decide (3 ≤ e.2)) then trip s
  else
    let s := calDrift (cycleCheck (riseCheck s))
    thermLevels (setTherm s { s.therm with alert := alertHolds s })

/-- R580: readings in 1/8 °C by die sensor. -/
def execSensorSample (readings : List (Option (BitVec 16))) (s : State) : Res :=
  done (sensorSample s (readings.map (fun r => r.map (fun x => x.toInt))))

/-! ## The stack temperature (R424) -/

/-- A sample of the stack at `t` °C, or one that failed: the refresh rate, the lifetime count of hot time, sensor 24 and its
trip (R424, R576, R580, R588). -/
def stackSample (s : State) (t : Option Int) : State :=
  if pageUp s .hbm = false then s
  else match t with
    | none => hbmTemp s s.hbm.temp false
    | some c =>
      let s := hbmTemp s c true
      let s := if 85 ≤ c then { s with last := { s.last with hotMs := s.last.hotMs + 1 } } else s
      let s := if s.hbm.train = 1 then setSensor s 24 ⟨256 * c, true, false⟩ else s
      if hbmSensor s ∧ (s.cpm.policy.hbmTrip : Int) ≤ c then trip s else s

/-- R424: a sample of the stack; none where the port's check fails. -/
def execHbmTempSample (t : Option (BitVec 8)) (s : State) : Res := done (stackSample s (t.map (fun x => x.toInt)))

/-- R424: no sample within 2 ms. -/
def execHbmTempSampleTimeout (s : State) : Res := done (stackSample s none)

/-! ## Calibration (R590 to R594) -/

/-- p of a line from the sum of its 1,024 trials, each a tap of 320, u9.7 (R590). -/
def calScale (sum : Nat) : Nat := (halfEven (128 * (min sum (320 * 1024) : Nat)) 1024).toNat

/-- gain, u1.16, from p; and the fraction of a tap, and the tap of a fraction (R590). -/
def calGain (p : Nat) : Nat := (ratHalfEven (mkRat (256 * 128 * 65536) p)).toNat
def calFrac (p tap : Nat) : Nat := (sat (halfEven (tap * calGain p : Nat) 65536) 0 255).toNat
def calTap (p f : Nat) : Nat := (halfEven (f * p : Nat) (256 * 128)).toNat

/-- A tap moves by more than 2 ns between two scales: 320 taps, each placed at 40 ns * tap * 128 / p. -/
def calLarge (p q : Nat) : Bool :=
  (List.range 320).any (fun t => decide (2 < (mkRat (40 * t * 128) p - mkRat (40 * t * 128) q)) ||
    decide (2 < (mkRat (40 * t * 128) q - mkRat (40 * t * 128) p)))

/-- R591: the period has passed. -/
def execCalPeriodTimer (s : State) : Res := done (calRequest s)

/-- R591: CMD.run. -/
def execCalRun (s : State) : Res := done (if pageUp s .cal then calRequest s else s)

/-- CMD.save: at once, or after the pass in progress (R594). -/
def calSave (s : State) : State :=
  if s.cal.busy then { s with cal := { s.cal with saveWait := true } } else { s with cal := { s.cal with saveBusy := true } }

/-- R594. -/
def execCalSave (s : State) : Res := done (if pageUp s .cal ∧ hlpRun s 19 = true then calSave s else s)

/-- No edge of a list of pulses of pin n lies within 1 µs (R592). -/
def pulsesQuiet (s : State) (ps : List (Nat × Rat × Rat × Bool)) (n : Nat) : Bool :=
  let far (x : Rat) : Bool := decide (1000 ≤ x - nowNs s) || decide (1000 ≤ nowNs s - x)
  (ps.filter (fun x => decide (x.1 = n))).all (fun x => far x.2.1 && far x.2.2.1)

/-- The reserve at the end of group g's still interval (R402): its frames have one, and the time lies in it. -/
def inReserve (s : State) (g : Nat) : Bool :=
  match planOf (tgen s g) (tgen s g).cur with
  | none => true
  | some pl =>
    let e := pl.latch + pl.len
    decide (e - (diagF s g Off.DIAG_PRB_CFG 16 10 * 1000 : Nat) ≤ nowNs s) && decide (nowNs s ≤ e)

/-- The time is quiet for a step of a pin's line: away from its edges, and in the owning group's reserve unless the step is deferred. -/
def pinQuiet (s : State) (k : Nat) (ps : List (Nat × Rat × Rat × Bool)) (n : Nat) (owner : Option Nat) : Bool :=
  match owner with
  | none => true
  | some g => pulsesQuiet s ps n && (s.cal.deferred.contains k || inReserve s g)

/-- No edge depends on line k now (R592). A ring line's step comes with the gap itself. -/
def calQuiet (s : State) (k : Nat) : Bool :=
  if k < 3 then decide ((tracker s k).st < 2) || decide (1000 * 2 ^ 16 ≤ ((now16 s : Int) - ((tracker s k).predicted : Int)).natAbs)
  else if k < 7 then pinQuiet s k s.shutPulses (k - 3) (shutOwner s (k - 3))
  else if k < 11 then
    pinQuiet s k s.camPulses (k - 7) (if trigMode s (k - 7) = 0 then none else some (camF s (k - 7) Off.CAM_TRIG_CFG 2 4))
  else if k < 27 then s.slots.all (fun e => !(e.2.armed && decide (e.2.target = k - 11) && decide (1 ≤ e.2.action)
    && decide (e.2.action ≤ 3) && decide ((sinceTime s e.2.sec e.2.ns).natAbs < 2000 * 2 ^ 16)))
  else true

/-- The slicer offset measured for a lane comes into force (R593). -/
def slicerTake (s : State) (l : Nat) : State :=
  match mapGet (fun _ => none) s.cal.slicer l with
  | none => s
  | some b =>
    let s := { s with cal := { s.cal with slicer := mapSet (fun _ => none) s.cal.slicer l none } }
    if l < 256 then setRing s l { ringAt s l with slicer := some b }
    else setNet s { s.net with slicer := mapSet (fun _ => none) s.net.slicer (l - 256) (some b) }

/-- The gap in which line k steps is the lanes' too: the group's rings, and network lane k - 27 (R593; DESIGN CHOICE, log 71). -/
def slicerGap (s : State) (k : Nat) : State :=
  if k < 27 then s else ((List.range 16).map (16 * (k - 27) + ·) ++ [256 + (k - 27)]).foldl slicerTake s

/-- A new scale of line k, measured as `sum`, comes into force (R590, R592). -/
def calStep (s : State) (k sum : Nat) : State :=
  if s.cal.due.contains k = false ∨ hlpRun s 19 = false ∨ calScale sum = 0 ∨ calQuiet s k = false then s
  else
    let old := calLine s k
    let p := calScale sum
    let s := { s with cal := { s.cal with
      due := s.cal.due.filter (fun x => decide (x ≠ k)), deferred := s.cal.deferred.filter (fun x => decide (x ≠ k))
      stepped := s.cal.stepped + 1
      lines := mapSet (fun _ => CalLine.initial) s.cal.lines k ⟨p, true, (sensor s (lineSensor k)).temp⟩ } }
    slicerGap (raiseIf (old.valid && calLarge old.p p) .cal 1 s) k

/-- R592: the moment of line k's step; `sum` is what its trials gave. -/
def execCalStepApply (k : Fin 43) (sum : Nat) (s : State) : Res := done (calStep s k.val sum)

/-- No quiet moment was found for line k in time: a moment away from edges will do (R592). -/
def calDefer (s : State) (k : Nat) : State :=
  if s.cal.due.contains k then
    raise { s with cal := { s.cal with deferred := if s.cal.deferred.contains k then s.cal.deferred else k :: s.cal.deferred } } .cal 2
  else s

/-- R592: no quiet moment was found for line k. -/
def execCalDeferTimeout (k : Fin 43) (s : State) : Res := done (calDefer s k.val)

/-- The loss-of-signal thresholds of every lane whose island runs are trimmed (R593). -/
def losTrim (s : State) : State :=
  let (n, s) := draw s
  let s := ((List.range (16 * groupCount s.part)).filter (fun p => islandUp s (islPgrp (p / 16)))).foldl (fun (t : State) p =>
    setRing t p { ringAt t p with los := some (Config.losThreshold n p) }) s
  if islandUp s 37 then
    setNet s { s.net with los := (List.range 16).foldl (fun m l =>
      mapSet (fun _ => none) m l (some (Config.losThreshold n (256 + l)))) s.net.los }
  else s

/-- R591: a pass completes; the loss-of-signal thresholds are trimmed with it (R593). Rings measured before the first are measured
again (R608). -/
def calPassDone (s : State) : State :=
  if s.cal.busy = false ∨ hlpRun s 19 = false then s
  else
    let first := !s.calDone
    let s := losTrim { s with calDone := true, cal := { s.cal with busy := false, tmax := match tempMax s with
      | some m => m.1
      | none => 0 } }
    let s := raise (setReg s .cal Off.CAL_LAST_SEC (BitVec.ofNat 32 (stampSec (now16 s)))) .cal 0
    let s := if first then ((List.range 256).filter (ringUp s)).foldl (fun (t : State) p =>
        setRing t p { ringAt t p with remeas := true, meas := [] }) s
      else s
    if s.cal.again then calStart s
    else if s.cal.saveWait then { s with cal := { s.cal with saveWait := false, saveBusy := true } }
    else s

def execCalPassDone (s : State) : Res := done (calPassDone s)

/-- The bytes of record 0x0020: p of every line, and TEMP_MAX at measurement (R594). -/
def calRecord (s : State) : List Byte :=
  (List.range 43).flatMap (fun k => leBytes 2 (calLine s k).p) ++ leBytes 2 (code 16 s.cal.tmax)

/-- The slicer offset in force of a lane, and its equaliser code: RX_CFG's where a ring's receiver does not adapt (R354). -/
def laneSlicer (s : State) (l : Nat) : Option Byte :=
  if l < 256 then (ringAt s l).slicer else mapGet (fun _ => none) s.net.slicer (l - 256)
def laneCode (s : State) (n l : Nat) : Byte :=
  let cfg := reg s (bportPage l) Off.BPORT_RX_CFG
  if l < 256 ∧ bitOf cfg 0 = false then BitVec.ofNat 8 (fld cfg 4 4) else Config.laneEqualiser n l

/-- The bytes of record 0x0021: for each lane its slicer offset and its equaliser code (R594; DESIGN CHOICE, log 71). -/
def laneRecord (s : State) (n : Nat) : List Byte := (List.range 272).flatMap (fun l => [(laneSlicer s l).getD 0, laneCode s n l])

/-- Replaces a calibration record. -/
def putCal (s : State) (j : Nat) (payload : List Byte) : State :=
  nvPut s (nvCal j) ⟨0x20 + j, 1, nvNext (nvGet s (nvCal j) (0x20 + j)), payload⟩

/-- R594: the save ends. -/
def calSaveDone (s : State) (ok : Bool) : State :=
  if s.cal.saveBusy = false then s
  else
    let s := { s with cal := { s.cal with saveBusy := false } }
    if ok then
      let (n, s) := draw s
      raise (putCal (putCal s 0 (calRecord s)) 1 (laneRecord s n)) .cal 3
    else raise (raise s .cal 4) .cpm 7

def execCalSaveDone (ok : Bool) (s : State) : Res := done (calSaveDone s ok)

end Sys2Proof.Machine
end

