-- ==== Sys2Proof/Machine/Arm.lean ====
section
/-!
DEFINITION. What an arm of each page checks of the shadows it snapshots: reserved bits on every page (R56), and the refusals
that the pages' own chapters add, with the word REJ_REASON then shows.
-/
namespace Sys2Proof.Machine

/-! ## The snapshot (R54) -/

/-- The key names an RWS register of bank `b` of page `p`. -/
def isShadow (p : Page) (b k : Nat) : Bool :=
  decide (k / 4096 = pageSlot p + b * 2 ^ 14) && (match regRow (kindOf p) (k % 4096) with
    | some r => decide (r.rws ≠ 0)
    | none => false)

/-- The shadows of a page or bank that differ from their Reset values. -/
def shadowsOf (s : State) (p : Page) (b : Nat) : AMap Word := mapKeep (isShadow p b) s.regs

/-- Low bits of a base address that must be 0: they are reserved bits of the word (R238, R501, R521, R535). -/
def zeroBits (k : PageKind) (off : Nat) : Nat :=
  match k with
  | .reng => if off = Off.RENG_WB_BASE_LO then 0x3F else 0
  | .flow => if 0x400 ≤ off ∧ (off - 0x400) % 64 = 0x28 then 0xFFFF else 0
  | .cam => if off = Off.CAM_STATS_LO then 0xFFF
            else if off = Off.CAM_SPOT_IN_LO ∨ off = Off.CAM_SPOT_OUT_LO then 0xF else 0
  | .aud => if off = Off.AUD_STAMP_BASE_LO then 0x3FF
            else if off = Off.AUD_RX_BASE_LO ∨ off = Off.AUD_TX_BASE_LO then 0x3F else 0
  | _ => 0

/-- The bits of an RWS register that are not reserved. -/
def shadowMask (k : PageKind) (off : Nat) : Nat :=
  match regRow k off with
  | some r => r.rws - (r.rws &&& zeroBits k off)
  | none => 0

/-- A snapshot with a reserved bit set (R12, R56). -/
def snapReserved (p : Page) (snap : AMap Word) : Bool :=
  snap.any (fun e => outside e.2 (shadowMask (kindOf p) (e.1 % 4096)))

/-! ## Refusals by block

Each check takes a reader of the page's snapshot by offset, and answers 0 or the code; the codes are REJ_REASON's where the page
has that register. -/

/-- TIME (R105, R119, R120). -/
def timeCode (rd : Nat → Word) : Nat :=
  let ptp := rd Off.TIME_PTP_CTRL
  let ls := signed 4 (fld (rd Off.TIME_PTP_RATES) 0 4)
  if 5 ≤ fld (rd Off.TIME_SRV_CTRL) 0 3 ∨ 500000 < fld (rd Off.TIME_SRV_FMAX) 0 20 ∨ fld (rd Off.TIME_SRV_HOLD) 0 16 = 0
     ∨ 2 ≤ fld ptp 10 2 ∨ fld ptp 19 2 = 3 ∨ ls < -7 ∨ 1 < ls then 1 else 0

/-- SYNC (R122). -/
def syncCode (rd : Nat → Word) : Nat :=
  let bad (k : Nat) : Bool := decide (fld (rd (0x100 + 0x40 * k)) 16 4 < 2) || decide (fld (rd (0x100 + 0x40 * k)) 20 4 = 0)
  let nom := (rd Off.SYNC_NOMINAL).toNat
  if bad 0 ∨ bad 1 ∨ bad 2 ∨ nom < 4000000 ∨ 50000000 < nom then 1 else 0

/-- TGEN (R149). -/
def tgenCode (s : State) (rd : Nat → Word) : Nat :=
  let mode := rd Off.TGEN_MODE
  let rate := fld mode 0 5
  let src := fld mode 5 2
  let n := fld mode 8 2 + 1
  let own := periodOf rate (fld (rd Off.TGEN_PERIOD_NS) 0 26) (fld (rd Off.TGEN_PERIOD_FRAC) 0 16)
  let per : Rat := if src = 2 then mkRat (trkNominal s 0) (2 ^ 16) else own
  let ofs := (List.range 3).map (fun k => fld (rd (Off.TGEN_PHASE_OFS + 4 * k)) 0 26)
  let still := fld (rd Off.TGEN_STILL) 0 11
  let lead := fld (rd Off.TGEN_CLOSE_LEAD) 0 10
  let slew := fld (rd Off.TGEN_GEN_SLEW) 0 17
  let lofs : Rat := (fld (rd Off.TGEN_LATCH_OFS) 0 26 : Nat)
  let shut (k : Nat) : Bool :=
    let d := signed 32 (rd (Off.TGEN_SHUT_DLY + 16 * k)).toNat
    let w := fld (rd (Off.TGEN_SHUT_WID + 16 * k)) 0 24
    decide (2 ^ n ≤ fld (rd (Off.TGEN_SHUT_CFG + 16 * k)) 0 4) || decide (d < -1000000) || decide (1000000 < d)
      || decide (w < 1000) || decide (10000000 < w)
  if 23 ≤ rate ∨ src = 3 ∨ (rate = 0 ∧ (own < 4000000 ∨ 50000000 < own)) ∨ per ≤ lofs ∨ still < 20 ∨ 2000 < still
     ∨ lead < 20 ∨ 1000 < lead ∨ slew = 0 ∨ 100000 < slew ∨ phasesFit per n ofs (still * 1000) = false
     ∨ (List.range 4).any shut = true then 1 else 0

/-- RENG (R240): code and region. -/
def rengCode (s : State) (rd : Nat → Word) : Nat × Nat :=
  let bad (r : Nat) : Bool :=
    let c := rd (Off.RENG_SIG_CFG + 16 * r)
    bitOf c 0 && (decide (fld c 24 8 < fld c 16 8) || decide (191 < fld c 24 8) || decide (fld c 2 2 = 3))
  let cap := fld (rd Off.RENG_DEPTH) 0 6
  let base := (rd Off.RENG_WB_BASE_LO).toNat + fld (rd Off.RENG_WB_BASE_HI) 0 3 * 2 ^ 32
  let cnt := fld (rd Off.RENG_WB_COUNT) 0 31
  if cap = 0 ∨ 32 < cap then (2, 0)
  else if 0x8000 < fld (rd Off.RENG_T_STOP) 0 16 then (3, 0)
  else match (List.range 64).find? bad with
    | some r => (4, r)
    | none =>
      if bitOf (rd Off.RENG_WB_CTRL) 0 = true ∧ (hbmBytes s < base + 8 * cnt ∨ 2 ^ 30 < fld (rd Off.RENG_WB_TRIM_LO) 0 30 + cnt)
        then (5, 0) else (0, 0)

/-- SCAL (R264): code and profile. -/
def scalCode (rd : Nat → Word) : Nat × Nat :=
  let code (k : Nat) : Nat :=
    let w := rd (Off.SCAL_PROF + 4 * k)
    let taps (t : Nat) : Bool := decide (t = 2) || decide (t = 4) || decide (t = 6) || decide (t = 8)
    if outside w (shadowMask .scal (Off.SCAL_PROF + 4 * k)) then 1
    else if !taps (pfTh w) || !taps (pfTv w) then 2 else 0
  match (List.range 64).find? (fun k => decide (code k ≠ 0)) with
  | some k => (code k, k)
  | none => (0, 0)

/-- TRIM (R316, R317): the first type whose selected set is invalid. -/
def trimCode (s : State) (rd : Nat → Word) : Option Nat :=
  (List.range 64).find? (fun t => !tsetValid s.trim.tsets t (tsetSel (rd Off.TRIM_TSET_LO) (rd Off.TRIM_TSET_HI) t))

/-- BGRP (R340). -/
def bgrpCode (s : State) (g : Nat) (rd : Nat → Word) : Nat :=
  let w := rd Off.BGRP_REF_CFG
  if fld w 1 2 = 3 then 1
  else if w ≠ force s (bgrpPage g) Off.BGRP_REF_CFG
          ∧ (List.range 16).any (fun i => decide ((ringAt s (16 * g + i)).st ≠ 0)) = true then 2
  else 0

/-- DIAG (R408). -/
def diagCode (rd : Nat → Word) : Nat :=
  let c := rd Off.DIAG_PRB_CFG
  if fld c 4 4 = 0 ∨ 8 < fld c 4 4 ∨ fld c 8 8 < 2 then 2
  else if fld (rd Off.DIAG_PRB_WINDOW) 0 16 < 256 then 3 else 0

/-- HBM (R441, R442). -/
def hbmCode (rd : Nat → Word) : Nat :=
  let c := rd Off.HBM_CFG
  let most := fld c 0 4
  let urg := fld c 4 4
  if most = 0 ∨ 8 < most ∨ urg = 0 ∨ most < urg ∨ 8 < fld c 8 4 then 2
  else if fld c 16 8 < 70 ∨ 95 < fld c 16 8 ∨ fld c 16 8 ≤ fld c 24 8 then 3 else 0

/-- HBMPC (R444). -/
def hbmpcCode (rd : Nat → Word) : Nat :=
  let c := rd Off.HBMPC_PAGE_CFG
  if fld c 0 2 = 3 ∨ fld c 8 8 = 0 then 1 else 0

/-- FAB (R438). -/
def fabCode (rd : Nat → Word) : Nat :=
  let c := rd Off.FAB_ARB_CFG
  let out (v hi : Nat) : Bool := decide (v = 0) || decide (hi < v)
  if out (fld c 0 8) 96 || out (fld c 8 8) 96 || out (fld c 16 6) 32 || decide (fld (rd Off.FAB_ARB_STARVE) 0 16 = 0) then 2 else 0

/-- NVME (R478). -/
def nvmeCode (rd : Nat → Word) : Nat := if fld (rd Off.NVME_CMD_TMO) 0 16 = 0 then 1 else 0

/-- NET (R500). -/
def netCode (s : State) (rd : Nat → Word) : Nat :=
  let fec := fld (rd Off.NET_PORT_CFG) 1 2
  let mtu := fld (rd Off.NET_MTU) 0 14
  if fec = 3 ∨ (fec = 1 ∧ s.netMode4 = true) then 2
  else if mtu < 1518 ∨ 9216 < mtu then 3 else 0

/-- FLOW (R502): one flow's code. -/
def flowCode (s : State) (rd : Nat → Word) (f : Nat) : Nat :=
  let at_ (o : Nat) : Word := rd (o + 64 * f)
  let now (o : Nat) : Word := force s .flow (o + 64 * f)
  let fmt := at_ Off.FLOW_FL_FMT
  let size := at_ Off.FLOW_FL_SIZE
  let regs := [Off.FLOW_FL_CFG, Off.FLOW_FL_SIZE, Off.FLOW_FL_FMT, Off.FLOW_FL_BUF, Off.FLOW_FL_STAGE_LO, Off.FLOW_FL_STAGE_HI]
  let mask (o : Nat) : Nat := if o = Off.FLOW_FL_CFG then 0x37FF else if o = Off.FLOW_FL_FMT then 0xFF else 0xFFFFFFFF
  if (List.range 12).any (fun i => outside (at_ (0x400 + 4 * i)) (shadowMask .flow (0x400 + 4 * i + 64 * f))) then 1
  else if 7679 < fld size 0 13 ∨ 4319 < fld size 16 13 ∨ (fld fmt 0 2 = 0 ∧ fld size 0 1 = 0) ∨ fld fmt 0 2 = 3
          ∨ fld fmt 4 2 = 3 ∨ fld fmt 6 2 = 3 ∨ fld (at_ Off.FLOW_FL_CFG) 16 16 = 0 then 2
  else if (flowAt s f).st ≠ 0 ∧ regs.any (fun o => decide ((at_ o).toNat &&& mask o ≠ (now o).toNat &&& mask o)) = true then 3
  else 0

/-- FLOW (R502): code and flow, the lowest flow that fails. -/
def flowCodes (s : State) (rd : Nat → Word) : Nat × Nat :=
  match (List.range 8).find? (fun f => decide (flowCode s rd f ≠ 0)) with
  | some f => (flowCode s rd f, f)
  | none => (0, 0)

/-- CAM (R523). -/
def camCode (s : State) (rd : Nat → Word) : Nat :=
  let f (off lo len : Nat) : Nat := cfF rd off lo len
  let d := signed 32 (rd Off.CAM_TRIG_DLY).toNat
  let w := f Off.CAM_TRIG_WID 0 24
  let adr (lo hi : Nat) : Nat := (rd lo).toNat + f hi 0 3 * 2 ^ 32
  if f Off.CAM_CSI_CFG 0 2 = 3 ∨ (dtDepth (f Off.CAM_CSI_CFG 4 6)).isNone ∨ f Off.CAM_BIN 0 2 = 3 ∨ f Off.CAM_TRIG_CFG 0 2 = 3
     ∨ f Off.CAM_SPOT_CFG 4 2 = 3 ∨ f Off.CAM_I2C_CFG 0 2 = 3 then 1
  else if 8192 < cfW rd ∨ 8192 < cfH rd ∨ cfW rd < cfX0 rd + cfWc rd ∨ cfH rd < cfY0 rd + cfHc rd
          ∨ (cfCfa rd = true ∧ (cfX0 rd % 2 = 1 ∨ cfY0 rd % 2 = 1 ∨ cfB rd ≠ 1))
          ∨ (f Off.CAM_STATS_CFG 0 1 = 1 ∧ (cfWb rd < f Off.CAM_STATS_CFG 8 5 + 1 ∨ cfHb rd < f Off.CAM_STATS_CFG 16 5 + 1)) then 2
  else if d < -1000000 ∨ 1000000 < d ∨ w < 1000 ∨ 10000000 < w ∨ f Off.CAM_TRIG_COUNT 0 16 = 0 ∨ f Off.CAM_FR_TMO 0 16 = 0
          ∨ 10000 < f Off.CAM_I2C_CFG 16 16 ∨ 2 ^ phasesOf s (f Off.CAM_TRIG_CFG 2 4) ≤ f Off.CAM_TRIG_CFG 6 4 then 3
  else if hbmBytes s < adr Off.CAM_STATS_LO Off.CAM_STATS_HI + 69888 * 2 ^ f Off.CAM_STATS_CFG 24 3
          ∨ hbmBytes s < adr Off.CAM_SPOT_IN_LO Off.CAM_SPOT_IN_HI + 12 * spotCount rd
          ∨ hbmBytes s < adr Off.CAM_SPOT_OUT_LO Off.CAM_SPOT_OUT_HI + 12 * spotCount rd then 4
  else 0

/-- AUD (R536). -/
def audCode (s : State) (a : Nat) (rd : Nat → Word) : Nat :=
  let cfg := rd Off.AUD_CFG
  let slots := fld cfg 2 4 + 1
  let fmt := fld cfg 8 3
  let size (tx : Bool) : Nat := fld (rd (Off.AUD_RX_SIZE + audDir tx)) 0 17
  let mask (tx : Bool) : Nat := fld (rd (Off.AUD_RX_MASK + audDir tx)) 0 16
  let base (tx : Bool) : Nat := (rd (Off.AUD_RX_BASE_LO + audDir tx)).toNat + fld (rd (Off.AUD_RX_BASE_HI + audDir tx)) 0 3 * 2 ^ 32
  let stamp := (rd Off.AUD_STAMP_BASE_LO).toNat + fld (rd Off.AUD_STAMP_BASE_HI) 0 3 * 2 ^ 32
  let sizeOk (n : Nat) : Bool := (List.range 11).any (fun k => decide (n = 64 * 2 ^ k))
  let ringBad (tx : Bool) : Bool := decide (2 ^ slots ≤ mask tx) || !sizeOk (size tx)
    || decide (hbmBytes s < base tx + size tx * ((maskSlots (mask tx)).length * sfmtBytes fmt))
  let rate := fld (rd Off.AUD_NOM_RATE) 0 18
  let regs := [Off.AUD_CFG, Off.AUD_NOM_RATE] ++ [false, true].flatMap (fun tx =>
    [Off.AUD_RX_MASK, Off.AUD_RX_BASE_LO, Off.AUD_RX_BASE_HI, Off.AUD_RX_SIZE].map (· + audDir tx))
  if fld cfg 6 2 = 3 ∨ fld cfg 13 2 = 3 ∨ 4 < fmt ∨ (fld cfg 0 2 ≤ 1 ∧ slots ≠ 2) then 1
  else if [16, 24, 32].getD (fld cfg 6 2) 32 < sfmtWidth fmt ∨ rate < 32000 ∨ 192000 < rate ∨ ringBad false = true
          ∨ ringBad true = true ∨ hbmBytes s < stamp + 1024 then 2
  else if (audAt s a).st ≠ 0 ∧ regs.any (fun o => decide (rd o ≠ force s (audPage a) o)) = true then 3
  else 0

/-- THRM (R597). -/
def thrmCode (s : State) (rd : Nat → Word) : Nat :=
  let c := rd Off.THRM_GOV_CFG
  if s.cpm.policy.govMax < fld c 0 8 ∨ s.cpm.policy.hbmGovMax < fld c 16 8 ∨ fld c 8 4 = 0 ∨ 8 < fld c 12 4
     ∨ fld (rd Off.THRM_RISE_CFG) 0 8 = 0 ∨ fld (rd Off.THRM_ALERT_CFG) 0 8 = 0 then 2 else 0

/-- CAL (R599). -/
def calCode (rd : Nat → Word) : Nat := if fld (rd Off.CAL_CAL_CFG) 0 16 = 0 then 1 else 0

/-- The code a page's chapter gives for a reserved bit in a snapshot (R56). -/
def reservedCode : PageKind → Nat
  | .layr => 8
  | .geom => 9
  | _ => 1

/-- REJ_REASON, where the page has it. -/
def rejOff : PageKind → Option Nat
  | .layr => some Off.LAYR_REJ_REASON | .geom => some Off.GEOM_REJ_REASON | .reng => some Off.RENG_REJ_REASON
  | .scal => some Off.SCAL_REJ_REASON | .trim => some Off.TRIM_REJ_REASON | .bgrp => some Off.BGRP_REJ_REASON
  | .diag => some Off.DIAG_REJ_REASON | .hbm => some Off.HBM_REJ_REASON | .fab => some Off.FAB_REJ_REASON
  | .net => some Off.NET_REJ_REASON | .flow => some Off.FLOW_REJ_REASON | .cam => some Off.CAM_REJ_REASON
  | .aud => some Off.AUD_REJ_REASON | .thrm => some Off.THRM_REJ_REASON
  | _ => none

/-- The refusal of a page's or bank's snapshot `snap`: `none` where it passes, else the REJ_REASON word. The checks of LAYR's
descriptors and GEOM's list follow once they are loaded (R170, R199). -/
def snapRefused (s : State) (p : Page) (b : Nat) (snap : AMap Word) : Option Nat :=
  let rd (off : Nat) : Word := snapRead snap p b off
  let only (c : Nat) : Option Nat := if c = 0 then none else some c
  let pair (x : Nat × Nat) : Option Nat := if x.1 = 0 then none else some (x.1 + x.2 * 2 ^ 8)
  match p with
  | .scal => pair (scalCode rd)
  | .flow => pair (flowCodes s rd)
  | _ =>
    if snapReserved p snap then some (reservedCode (kindOf p) + (match domainOf p with
      | .banked => b * 2 ^ 8
      | _ => 0))
    else match p with
      | .time => only (timeCode rd)
      | .sync => only (syncCode rd)
      | .tgen _ => only (tgenCode s rd)
      | .reng _ => pair (rengCode s rd)
      | .trim => (trimCode s rd).map (fun t => 2 + b * 2 ^ 8 + t * 2 ^ 16)
      | .bgrp g => only (bgrpCode s g.val rd)
      | .diag => if diagCode rd = 0 then none else some (diagCode rd + b * 2 ^ 8)
      | .hbm => only (hbmCode rd)
      | .hbmpc _ => only (hbmpcCode rd)
      | .fab => only (fabCode rd)
      | .nvme => only (nvmeCode rd)
      | .net _ => only (netCode s rd)
      | .cam _ => only (camCode s rd)
      | .aud a => only (audCode s a.val rd)
      | .thrm => only (thrmCode s rd)
      | .cal => only (calCode rd)
      | _ => none

end Sys2Proof.Machine
end

