-- ==== Sys2Proof/Machine/Ptp.lean ====
section
/-!
DEFINITION. PTP on the control processor: an IEEE 1588 ordinary clock (spec/04_time_and_sync.md R102 to R104, R120;
spec/17_network_ingest.md R482, R483). Message layouts and the port states are IEEE 1588's (log 31); its best master clock
algorithm's verdict on an Announce comes with the command.
-/
namespace Sys2Proof.Machine

def ptpOf (s : State) : PtpState := s.time.ptp
def setPtp (s : State) (v : PtpState) : State := { s with time := { s.time with ptp := v } }

/-- PTP_CTRL in force. -/
def ptpF (s : State) (lo len : Nat) : Nat := forceF s .time Off.TIME_PTP_CTRL lo len
def ptpEn (s : State) : Bool := decide (ptpF s 0 1 = 1)
def ptpMay (s : State) : Bool := ptpEn s && islandRuns s islCtl && s.cpm.up

/-- A new port state; a change raises PTP_PORT (R121). -/
def ptpState (s : State) (n : Nat) : State :=
  if (ptpOf s).portState = n then s else raise (setPtp s { ptpOf s with portState := n }) .time 4

/-- The port of the primary or the standby leg. -/
def ptpPort (s : State) (standby : Bool) : Nat := if standby then ptpF s 6 4 else ptpF s 1 4

def ptpLeg (s : State) (standby : Bool) : PtpLeg := if standby then (ptpOf s).stby else (ptpOf s).leg
def setLeg (s : State) (standby : Bool) (v : PtpLeg) : State :=
  setPtp s (if standby then { ptpOf s with stby := v } else { ptpOf s with leg := v })

/-- A commit has changed PTP_CTRL: PTP starts LISTENING on its primary port, or is DISABLED. -/
def ptpApply (s : State) : State :=
  let t := setPtp s { ptpOf s with activePort := ptpF s 1 4, onStandby := false, leg := PtpLeg.initial, stby := PtpLeg.initial }
  ptpState t (if ptpEn s then 4 else 3)

/-! ## Messages -/

/-- A PTP message: its type, domain, flags, correction, sequenceId, logMessageInterval, sender and body after the header. -/
structure PtpMsg where
  type : Nat
  domain : Nat
  flags : Nat
  corr : Int
  seq : Nat
  log : Int
  /-- sourcePortIdentity. -/
  src : Nat
  body : List Byte
deriving DecidableEq, Repr

def ptpMsgOf (bs : List Byte) : PtpMsg :=
  { type := beVal bs 0 1 % 16, domain := beVal bs 4 1, flags := beVal bs 6 2, corr := signed 64 (beVal bs 8 8)
    seq := beVal bs 30 2, log := signed 8 (beVal bs 33 1), src := beVal bs 20 10, body := bs.drop 34 }

/-- A ten-byte timestamp, 2^-16 ns. -/
def ptpTime (bs : List Byte) : Int := (((beVal bs 0 6 * nsPerSec + beVal bs 6 4) * 2 ^ 16 : Nat) : Int)

/-- The message of a frame in the transport of PTP_CTRL: Ethernet, UDP over IPv4, UDP over IPv6 (R102). -/
def ptpPayload (s : State) (bytes : List Byte) : Option (List Byte) :=
  let e := ethOf bytes
  match ptpF s 19 2 with
  | 0 => if e.ethertype = 0x88F7 then some e.body else none
  | 1 => if e.ethertype = 0x0800 ∧ (udpPort e = 319 ∨ udpPort e = 320) then (udpOf e).map (·.payload) else none
  | _ => if e.ethertype = 0x86DD ∧ (udpPort e = 319 ∨ udpPort e = 320) then some (e.body.drop 48) else none

/-- The address that a frame comes from, in the transport of PTP_CTRL (R102). -/
def ptpAddr (s : State) (bytes : List Byte) : List Byte :=
  let e := ethOf bytes
  match ptpF s 19 2 with
  | 0 => (bytes.drop 6).take 6
  | 1 => (e.body.drop 12).take 4
  | _ => (e.body.drop 8).take 16

/-- A message interval field of PTP_RATES in force, s4 (R120). -/
def ptpRate (s : State) (lo : Nat) : Int := signed 4 (forceF s .time Off.TIME_PTP_RATES lo 4)

/-- The asymmetry in the master-to-slave direction, 2^-16 ns (R104). -/
def ptpAsym (s : State) : Int := signed 32 (force s .time Off.TIME_PTP_ASYM).toNat * 256

/-- t1 and t2 of a Sync are known: on the port in use, the offset is a sample for the servo with source 1 (R105). -/
def ptpSample (s : State) (standby : Bool) : State :=
  let l := ptpLeg s standby
  match l.t1, l.t2 with
  | some a, some b =>
    if standby ≠ (ptpOf s).onStandby then s
    else
      let s := ptpState s 9
      if forceF s .time Off.TIME_SRV_CTRL 0 3 = 1 then
        { s with time := { s.time with sample := some (b - a - l.mpd - ptpAsym s, l.syncLog) } }
      else s
  | _, _ => s

/-- The message comes from the master selected on a leg. -/
def fromMaster (l : PtpLeg) (m : PtpMsg) : Bool := l.master && decide (l.masterId = m.src)

/-- A message received on a leg with its receive stamp and the address it came from. Sync, Follow_Up and Delay_Resp count from the selected
master alone. An Announce that the verdict selects names the leg's master; one that it does not select ends the selection of the master
that sent it. As master, the device answers a Delay_Req with the stamp it was received at. -/
def ptpTake (s : State) (standby best : Bool) (m : PtpMsg) (rx : Int) (addr : List Byte) : State :=
  let l := ptpLeg s standby
  match m.type with
  | 0 =>
    if fromMaster l m = false then s
    else if m.flags / 2 ^ 9 % 2 = 1 then
      setLeg s standby { l with t1 := none, t2 := some (rx - m.corr), syncSeq := some m.seq, syncLog := m.log }
    else ptpSample (setLeg s standby { l with t1 := some (ptpTime m.body + m.corr), t2 := some rx, syncSeq := none, syncLog := m.log })
      standby
  | 8 =>
    if fromMaster l m = true ∧ l.syncSeq = some m.seq then
      ptpSample (setLeg s standby { l with t1 := some (ptpTime m.body + m.corr), syncSeq := none }) standby
    else s
  | 9 =>
    match l.t1, l.t2, l.t3 with
    | some a, some b, some c =>
      if fromMaster l m = true ∧ l.dreqSeq = m.seq then
        let d := ptpTime m.body - m.corr
        setLeg s standby { l with mpd := halfEven (b - a + (d - c)) 2, t3 := none }
      else s
    | _, _, _ => s
  | 1 =>
    if (ptpOf s).portState = 6 ∧ standby = (ptpOf s).onStandby then
      setPtp s { ptpOf s with sent := ⟨ptpPort s standby, 9, m.seq, none, some rx, m.corr, ptpRate s 4,
        if m.flags / 2 ^ 10 % 2 = 1 then some addr else none, m.src, (0, 0)⟩ :: (ptpOf s).sent }
    else s
  | 11 =>
    let s := setLeg s standby (if best then { l with master := true, masterId := m.src, masterAddr := addr }
                               else if l.masterId = m.src then { l with master := false } else l)
    if standby = (ptpOf s).onStandby ∧ best = true then
      let s := setPtp s { ptpOf s with gmId := BitVec.ofNat 64 (beVal m.body 19 8), utcOff := BitVec.ofNat 16 (beVal m.body 10 2) }
      if (ptpOf s).portState = 8 ∨ (ptpOf s).portState = 9 then s else ptpState s 8
    else s
  | _ => s

/-- The oldest PTP frame that waits for the control processor, and the rest (newest first). -/
def oldestPtp (l : List (Nat × Option Int × List Byte)) : Option ((Nat × Int × List Byte) × List (Nat × Option Int × List Byte)) :=
  match (l.reverse).find? (fun x => x.2.1.isSome) with
  | some (n, some t, bs) => some ((n, t, bs), l.reverse.eraseP (fun x => x.2.1.isSome) |>.reverse)
  | _ => none

/-- R102: the oldest waiting PTP message is processed; `best` is the verdict of the best master clock algorithm on an Announce. -/
def ptpRx (s : State) (best : Bool) : State :=
  match oldestPtp s.net.toCtl with
  | none => s
  | some ((n, t, bs), rest) =>
    let s := setNet s { s.net with toCtl := rest }
    let standby := decide (n ≠ ptpPort s false)
    if ptpMay s = false ∨ (standby = true ∧ (ptpF s 5 1 = 0 ∨ n ≠ ptpPort s true)) then s
    else match ptpPayload s bs with
      | none => s
      | some p =>
        let m := ptpMsgOf p
        if m.domain = ptpF s 12 7 ∧ beVal p 1 1 % 16 = 2 then ptpTake s standby best m t (ptpAddr s bs) else s

def execPtpMessageRx (best : Bool) (s : State) : Res := done (ptpRx s best)

/-- The Announce receipt timeout of a leg (R103): failover to the standby port where a selected master is heard there. -/
def ptpTimeout (s : State) (standby : Bool) : State :=
  if ptpMay s = false then s
  else
    let s := setLeg s standby { ptpLeg s standby with master := false }
    if standby ≠ (ptpOf s).onStandby then s
    else if standby = false ∧ ptpF s 5 1 = 1 ∧ (ptpOf s).stby.master = true then
      raise (setPtp s { ptpOf s with activePort := ptpPort s true, onStandby := true }) .time 5
    else ptpState s (if ptpF s 21 1 = 1 then 6 else 4)

def execPtpAnnounceTimeout (standby : Bool) (s : State) : Res := done (ptpTimeout s standby)

/-- A message sent on a leg's port at its interval (R102, R120): as master, a two-step Sync with its Follow_Up at log_sync, and an Announce
with clockClass 248 and clockAccuracy 0xFE at log_announce; towards a master, a Delay_Req, by unicast to that master with unicast_dreq. -/
def ptpTx (s : State) (kind : Nat) (standby : Bool) : State :=
  let n := ptpPort s standby
  let v := ptpOf s
  let l := ptpLeg s standby
  let q := mapGet (fun _ => 0) v.seq kind
  let may := if kind = 2 then l.master else decide (v.portState = 6) && decide (standby = v.onStandby)
  if ptpMay s = false ∨ may = false ∨ (portAt s n).link = false ∨ (standby = true ∧ ptpF s 5 1 = 0) then s
  else
    let stamp := txStamp s n
    let out : List PtpSent := match kind with
      | 0 => [⟨n, 8, q, none, some stamp, 0, ptpRate s 0, none, 0, (0, 0)⟩, ⟨n, 0, q, some stamp, none, 0, ptpRate s 0, none, 0, (0, 0)⟩]
      | 1 => [⟨n, 11, q, none, none, 0, ptpRate s 8, none, 0, (248, 0xFE)⟩]
      | _ => [⟨n, 1, q, some stamp, none, 0, 127, if ptpF s 22 1 = 1 then some l.masterAddr else none, 0, (0, 0)⟩]
    let s := setPtp s { v with seq := mapSet (fun _ => 0) v.seq kind ((q + 1) % 2 ^ 16), sent := out ++ v.sent }
    if kind = 2 then setLeg s standby { l with t3 := some stamp, dreqSeq := q } else s

def execPtpMessageTx (kind : Fin 3) (standby : Bool) (s : State) : Res := done (ptpTx s kind.val standby)

end Sys2Proof.Machine
end

