-- ==== Sys2Proof/Machine/Commit.lean ====
section
/-!
DEFINITION. The commit model: arming, cancelling, the commit gate, holds, and what coming into force does
(spec/02_register_pages.md R52 to R61; spec/05_output_timing.md R134 to R138).
-/
namespace Sys2Proof.Machine

/-! ## Pages, banks and groups -/

/-- The group whose closes a page's bank follows; local pages have none. -/
def commitGroup (p : Page) (b : Nat) : Option Nat :=
  match domainOf p with
  | .group g => some g.val
  | .banked => some b
  | _ => none

/-- The bank of a page that group g's gate judges. -/
def bankAt (p : Page) (g : Nat) : Nat :=
  match domainOf p with
  | .banked => g
  | _ => 0

/-- The page lies in island PGRP g: TGEN, BPORT, BGRP. -/
def inPgrp : Page → Bool
  | .tgen _ | .bport _ | .bgrp _ => true
  | _ => false

/-- Writes a slot's pending commit. -/
def setPending (s : State) (p : Page) (b : Nat) (pd : Option Pending) : State :=
  setCslot s p b { cslot s p b with pending := pd }

/-- An arm that missed its close or was late (R53, R58, R59). -/
def cmtMissed (s : State) (p : Page) (b : Nat) : State :=
  raise (setCslot s p b { cslot s p b with missed := true }) p evCmtMissed

/-- Bit g of GLB.CMT_HOLD. -/
def holdBit (s : State) (g : Nat) : Bool := bitOf (reg s .glb Off.GLB_CMT_HOLD) g

/-- CMT_TIME of a pending commit as an instant, ns (R97). -/
def dueTime (s : State) (pd : Pending) : Rat := genTimeNs s pd.sec pd.ns

/-- Every pending commit of group g's pages and banks: page, bank, commit. -/
def groupPending (s : State) (g : Nat) : List (Page × Nat × Pending) :=
  s.commits.filterMap (fun e => match pageOfSlot (e.1 / 16), e.2.pending with
    | some p, some pd => if commitGroup p (e.1 % 16) = some g then some (p, e.1 % 16, pd) else none
    | _, _ => none)

/-! ## Coming into force (R60) -/

/-- The key belongs to bank `b` of page `p`. -/
def keyOf (p : Page) (b k : Nat) : Bool := decide (k / 4096 = pageSlot p + b * 2 ^ 14)

/-- The snapshot comes into force as a whole. -/
def putForce (s : State) (p : Page) (b : Nat) (snap : AMap Word) : State :=
  { s with inForce := mapOver regDefault (mapKeep (fun k => !keyOf p b k) s.inForce) snap }

/-- L_F of a frame, where it is scheduled. -/
def latchOf (s : State) (g : Nat) (f : Word) : Option Rat :=
  let t := tgen s g
  if f = t.closed + 1 then some t.sched else (planOf t f).map (·.latch)

/-- What a page's blocks do as a commit comes into force, from the state `o` before it. -/
def commitEffect (o s : State) (p : Page) (b : Nat) (pd : Pending) (frames : Bool) (f : Word) : State :=
  match p with
  | .time =>
    let s := if forceF o .time Off.TIME_SRV_CTRL 0 3 = forceF s .time Off.TIME_SRV_CTRL 0 3 then s else servoSourceCommit s
    if force o .time Off.TIME_PTP_CTRL = force s .time Off.TIME_PTP_CTRL then s else ptpApply s
  | .sync => (List.range 3).foldl trkCommit s
  | .tgen g =>
    let same := decide (forceF o p Off.TGEN_MODE 0 7 = forceF s p Off.TGEN_MODE 0 7)
      && decide (force o p Off.TGEN_PERIOD_NS = force s p Off.TGEN_PERIOD_NS)
      && decide (force o p Off.TGEN_PERIOD_FRAC = force s p Off.TGEN_PERIOD_FRAC)
      && decide (force o p Off.TGEN_LATCH_OFS = force s p Off.TGEN_LATCH_OFS)
    let t := tgen s g.val
    allTgenLevels (setTgen s g.val { t with dirty := t.dirty || (!same && decide (t.gen ≠ .stopped))
                                            refused := t.refused && same, onTrk := t.onTrk && same
                                            period := if t.gen = .stopped then periodNow s g.val else t.period })
  | .layr => layrApply s b pd
  | .geom => geomApply s b pd
  | .fade => fadeApply s b (match (if frames then latchOf s b f else none) with
      | some l => l
      | none => nowNs s)
  | .diag =>
    if forceBank o p b Off.DIAG_PRB_WINDOW = forceBank s p b Off.DIAG_PRB_WINDOW then s
    else (List.range 16).foldl (fun (t : State) i => if ringUp t (16 * b + i) then
      setRing t (16 * b + i) { ringAt t (16 * b + i) with diagDue := true } else t) s
  | .bgrp g => if force o p Off.BGRP_REF_CFG = force s p Off.BGRP_REF_CFG then s else refChange s g.val
  | .reng g => dcapLevel s g.val
  | .net n => netApply s n.val (force o p Off.NET_PORT_CFG)
  | .flow => (List.range 8).foldl flowRematch s
  | .thrm => thermLevels s
  | _ => s

/-- The stored snapshot as it comes into force: RP_CFG changes only while no stream runs and no request is in progress (R474). -/
def forceSnap (s : State) (p : Page) (snap : AMap Word) : AMap Word :=
  match p with
  | .nvme => if storeBusy s then mapSet regDefault snap (regKey .nvme Off.NVME_RP_CFG 0) (force s .nvme Off.NVME_RP_CFG) else snap
  | _ => snap

/-- A bank of LAYR that loses its pending commit is not held by it any more (R175). -/
def unhold (s : State) (p : Page) (b : Nat) : State := if p = .layr then setHolding s b false else s

/-- The record of an applied commit: pending clears, applied_seq and CMT_FRAME follow, CMT_APPLIED is raised (R53, R60). -/
def commitDone (s : State) (p : Page) (b : Nat) (pd : Pending) (f : Word) : State :=
  let s := unhold s p b
  raise (setCslot s p b { cslot s p b with pending := none, appliedSeq := pd.seq, frame := f }) p evCmtApplied

/-- R60: a commit comes into force for frame f, or, without frames, with the frame counter at f. -/
def applyCommit (s : State) (p : Page) (b : Nat) (pd : Pending) (frames : Bool) (f : Word) : State :=
  commitDone (commitEffect s (putForce s p b (forceSnap s p pd.snap)) p b pd frames f) p b pd f

/-! ## Arming (R54 to R57) -/

/-- The banks a CMT_CTRL word selects: bank 0 stands for a page without banks. -/
def selBanks (p : Page) (v : Word) : List Nat :=
  match domainOf p with
  | .banked => (List.range 16).filter (fun b => bitOf v (16 + b))
  | _ => [0]

/-- R56's first four cases. -/
def armRefused (s : State) (p : Page) (banks : List Nat) (mode : Nat) : Bool :=
  decide (mode = 3) || decide (999999999 < regF s p Off.HDR_CMT_TIME_LO 0 30) || banks.isEmpty
  || (decide (domainOf p = .banked) && banks.any (fun b => decide (groupCount s.part ≤ b)))
  || (decide (mode = 1) && banks.any (fun b => match commitGroup p b with
      | some g => tgenRuns s g
      | none => false))

/-- A refused arm: rejected, CMT_REJECT and REJ_REASON; nothing else changes (R56). With no bank selected, the bank that view
shows carries rejected. -/
def refuseArm (s : State) (p : Page) (banks : List Nat) (reason : Option Nat) : State :=
  let marked := if banks.isEmpty then [regF s p Off.HDR_CMT_CTRL 8 4] else banks
  let s := marked.foldl (fun (t : State) b => setCslot t p b { cslot t p b with rejected := true }) s
  let s := match reason, rejOff (kindOf p) with
    | some r, some o => setReg s p o (word r)
    | _, _ => s
  raise s p evCmtReject

/-- The snapshot of an arm. -/
def armOf (s : State) (p : Page) (b mode : Nat) : Pending :=
  { snap := shadowsOf s p b, mode := mode, ns := regF s p Off.HDR_CMT_TIME_LO 0 30, sec := (reg s p Off.HDR_CMT_TIME_HI).toNat
    frame := 0, seq := 0, seen := false, held := false, taken := false, descs := [], phases := if p = .layr then phasesOf s b else 0, ctxs := [] }

/-- F of R58 for an arm accepted now on page p: the frame after the first close whose notice has not reached its island. -/
def armFrame (s : State) (p : Page) (g : Nat) : Word :=
  let late := if inPgrp p then 0 else mapGet (fun _ => 0) s.unnoticed (islandOf p * 16 + g)
  nextClose (tgen s g) - BitVec.ofNat 32 late

/-! ## The gate (R58, R61) -/

/-- The frame whose close is the first that judges an arm seen now: the next close, or, where the instant of that close has passed, the
one after it (R58, R134). -/
def gateNext (s : State) (g : Nat) : Word := nextClose (tgen s g) + (if closePast s g then 1 else 0)

/-- A known frame's close that has passed: the last frame whose close instant has passed latches at or after CMT_TIME. -/
def schedLate (s : State) (g : Nat) (pd : Pending) : Bool :=
  (match planOf (tgen s g) (tgen s g).closed with
  | some pl => decide (dueTime s pd ≤ pl.latch)
  | none => false) || (closePast s g && decide (dueTime s pd ≤ (tgen s g).sched))

/-- An arm is seen at group g's gate: held by CMT_HOLD, or judged. While TGEN g is in RUN its target is fixed; a frame-mode arm
seen after its close, and a scheduled one whose frame's close has passed, takes the next close with missed. -/
def gateSee (s : State) (p : Page) (b g : Nat) : State :=
  match (cslot s p b).pending with
  | none => s
  | some pd =>
    if pd.taken then s
    else if holdBit s g then setPending s p b (some { pd with held := true, seen := false })
    else
      let next := gateNext s g
      let pd := { pd with held := false, seen := true }
      if tgenRuns s g = false then setPending s p b (some (if pd.mode = 0 then pd else { pd with frame := next }))
      else
        let late : Bool := match pd.mode with
          | 0 => decide (pd.frame ≠ next) && frameGe next pd.frame
          | 2 => schedLate s g pd
          | _ => false
        let pd := if late || decide (pd.mode ≠ 0) then { pd with frame := next } else pd
        let t := setPending s p b (some pd)
        if late then cmtMissed t p b else t

/-- An accepted arm takes the pending slot of a page or bank (R53, R55): arm_seq advances, missed and rejected clear. A commit
that a close has taken already comes into force first. A local page sees it at once; a scheduled time already past sets missed
(R59). A page in PGRP g is at the gate; an arm of another page is held from its acceptance while the hold bit is 1 (R61). -/
def acceptArm (s : State) (p : Page) (b : Nat) (pd : Pending) : State :=
  let s := match (cslot s p b).pending with
    | some old => if old.taken then applyCommit s p b old true old.frame else s
    | none => s
  let s := unhold s p b
  let c := cslot s p b
  let f := match commitGroup p b with
    | some g => armFrame s p g
    | none => 0
  let seq := c.armSeq + 1
  let s := setCslot s p b { c with pending := some { pd with seq := seq, frame := f }, armSeq := seq, missed := false
                                   rejected := false }
  match commitGroup p b with
  | some g => if inPgrp p then gateSee s p b g
    else if holdBit s g then setPending s p b (some { pd with seq := seq, frame := f, held := true }) else s
  | none =>
    let s := setPending s p b (some { pd with seq := seq, frame := 0, seen := true })
    if pd.mode = 2 ∧ 0 < sinceTime s pd.sec pd.ns then cmtMissed s p b else s

/-- R57: a cancel drops the selected banks' pending commits, but for those a close has taken, and arms still loading. -/
def cancelArm (s : State) (p : Page) (banks : List Nat) : State :=
  banks.foldl (fun (t : State) b =>
    let c := cslot t p b
    let keep := match c.pending with
      | some pd => pd.taken
      | none => false
    setCslot (unhold t p b) p b { c with pending := if keep then c.pending else none, loading := [] }) s

/-- LAYR and GEOM arms wait for their descriptors or list (R170, R199). -/
def loadsArm : Page → Bool
  | .layr | .geom => true
  | _ => false

/-- The place of the next arm of the page to be loaded, above every place still taken. -/
def nextLoad (s : State) (p : Page) : Nat :=
  (List.range 16).foldl (fun acc b => (cslot s p b).loading.foldl (fun a x => max a (x.order + 1)) acc) 0

/-- The first bank whose snapshot is refused, with its REJ_REASON word. -/
def banksRefused (s : State) (p : Page) (banks : List Nat) : Option Nat :=
  banks.findSome? (fun b => snapRefused s p b (shadowsOf s p b))

/-- An arm of the selected banks (R54, R56). -/
def doArm (s : State) (p : Page) (banks : List Nat) (mode : Nat) : State :=
  if armRefused s p banks mode then refuseArm s p banks none
  else match banksRefused s p banks with
    | some r => refuseArm s p banks (some r)
    | none =>
      if loadsArm p then
        let n := nextLoad s p
        banks.foldl (fun (t : State) b =>
          setCslot t p b { cslot t p b with loading := (cslot t p b).loading ++ [⟨n, banks, armOf s p b mode⟩] }) s
      else banks.foldl (fun (t : State) b => acceptArm t p b (armOf s p b mode)) s

/-- A write of CMT_CTRL (R52, R53): the RW fields, then cancel, then arm. -/
def writeCmtCtrl (s : State) (p : Page) (v : Word) : State :=
  if domainOf p = .none then s
  else
    let banked := decide (domainOf p = .banked)
    let s := setReg s p Off.HDR_CMT_CTRL (v &&& word (if banked then 0xFFFF0F0C else 0xF0C))
    let banks := selBanks p v
    let s := if bitOf v 1 then cancelArm s p banks else s
    if bitOf v 0 then doArm s p banks (fld v 2 2) else s

/-- R54: a write of CMT_CTRL with arm set. -/
def execCmtArm (p : Page) (v : Word) (s : State) : Res := done (onPage s p (fun (t : State) => writeCmtCtrl t p (putBit v 0 true)))

/-- R57: a write of CMT_CTRL with cancel set. -/
def execCmtCancel (p : Page) (v : Word) (s : State) : Res := done (onPage s p (fun (t : State) => writeCmtCtrl t p (putBit v 1 true)))

/-! ## LAYR and GEOM loads (R170, R171, R199) -/

/-- The place of the arm of the page written first among those that load. -/
def firstLoad (s : State) (p : Page) : Option Nat :=
  (List.range 16).foldl (fun (a : Option Nat) b => match (cslot s p b).loading, a with
    | x :: _, some n => some (min n x.order)
    | x :: _, none => some x.order
    | [], _ => a) none

/-- What bank b loads for the arm written first. -/
def loadOf (s : State) (p : Page) (b : Nat) : Option Pending :=
  match (cslot s p b).loading, firstLoad s p with
  | x :: _, some n => if x.order = n then some x.arm else none
  | _, _ => none

/-- The banks of the arm that was written first and loads next; a cancelled bank has left it. -/
def loadingBanks (s : State) (p : Page) : List Nat := (List.range 16).filter (fun b => (loadOf s p b).isSome)

/-- The arm has been loaded in these banks. -/
def dropLoading (s : State) (p : Page) (banks : List Nat) : State :=
  banks.foldl (fun (t : State) b => setCslot t p b { cslot t p b with loading := (cslot t p b).loading.drop 1 }) s

/-- The snapshot of a bank's load. -/
def loadSnap (s : State) (p : Page) (b : Nat) : AMap Word :=
  match loadOf s p b with
  | some pd => pd.snap
  | none => []

/-- The phases in use as a bank of LAYR was armed (R172). -/
def loadPhases (s : State) (b : Nat) : Nat :=
  match loadOf s .layr b with
  | some pd => pd.phases
  | none => 0

/-- Codes 1 to 7 of R169 over the banks of an arm, as a REJ_REASON word. -/
def layrArmCode (s : State) (banks : List Nat) : Option Nat :=
  match banks.findSome? (fun b => (layrBankCheck s (loadSnap s .layr b) b (loadPhases s b)).map (fun e => e.1 + e.2.1 * 2 ^ 4 + b * 2 ^ 8 + e.2.2 * 2 ^ 16)) with
  | some w => some w
  | none =>
    let n := (List.range 16).foldl (fun acc b => acc + bankCount s b (if banks.contains b then some (loadSnap s .layr b, loadPhases s b) else none)) 0
    if 256 < n then some (6 + banks.headD 0 * 2 ^ 8) else none

/-- The descriptors a bank's arm loads (R170). -/
def layrLoaded (s : State) (b : Nat) : AMap (List Word) :=
  (stackIds (snapRead (loadSnap s .layr b) .layr b) (loadPhases s b)).foldl (fun m id => mapSet (fun _ => []) m id (layerDesc s id)) []

/-- The words a LAYR arm reads meet stored ECC faults (R425). -/
def layrTouch (s : State) (banks : List Nat) : State :=
  if s.ecc.isEmpty then s
  else banks.foldl (fun (t : State) b => (stackIds (snapRead (loadSnap s .layr b) .layr b) (loadPhases s b)).foldl (fun (u : State) id =>
    eccTouch u (addrPair u .layr Off.LAYR_LAYER_TBL_BASE_LO Off.LAYR_LAYER_TBL_BASE_HI + 64 * id) 64) t) s

/-- R170: the arm is refused, or accepted in every bank with the descriptors loaded; served layers raise their requests (R254). -/
def layrArmLoaded (s : State) : State :=
  match loadingBanks s .layr with
  | [] => s
  | b0 :: rest =>
    let banks := b0 :: rest
    match layrArmCode s banks with
    | some r => refuseArm (dropLoading (layrTouch s banks) .layr banks) .layr banks (some r)
    | none =>
      let accept (t : State) (b : Nat) : State := match loadOf s .layr b with
        | some pd => acceptArm t .layr b { pd with descs := layrLoaded s b }
        | none => t
      let t := banks.foldl accept (dropLoading (layrTouch s banks) .layr banks)
      scalRequests t ((banks.flatMap (fun b => (layrLoaded s b).map (·.2))).filter dPsEn)

def execLayrArmLoaded (s : State) : Res := done (onPage s .layr layrArmLoaded)

/-- R199: the arm is refused, or accepted in every bank with its records. -/
def geomArmLoaded (s : State) : State :=
  match loadingBanks s .geom with
  | [] => s
  | b0 :: rest =>
    let banks := b0 :: rest
    let load (b : Nat) : (Nat × Nat) ⊕ List (List Word) := geomBankLoad s (loadSnap s .geom b) b
    let bad := banks.findSome? (fun b => match load b with
      | .inl e => some (e.1 + b * 2 ^ 8 + e.2 * 2 ^ 16)
      | .inr _ => none)
    match bad with
    | some r => refuseArm (dropLoading s .geom banks) .geom banks (some r)
    | none =>
      banks.foldl (fun (t : State) b => match load b, loadOf s .geom b with
        | .inr rs, some pd => acceptArm t .geom b { pd with ctxs := rs.map (fun r => (fld (r.getD 0 0) 0 16, r)) }
        | _, _ => t) (dropLoading s .geom banks)

def execGeomArmLoaded (s : State) : Res := done (onPage s .geom geomArmLoaded)

/-! ## Gate and hold events -/

/-- R58: an arm of a RENG or banked page leaves the Weir into PGRP g. -/
def armAtGate (s : State) (p : Page) (g : Nat) : State :=
  let b := bankAt p g
  match (cslot s p b).pending with
  | some pd => if commitGroup p b = some g ∧ pd.seen = false ∧ pd.held = false ∧ islandUp s (islPgrp g) = true then gateSee s p b g else s
  | none => s

def execCmtArmAtGate (p : Page) (g : Fin 16) (s : State) : Res := done (armAtGate s p g.val)

/-- R61: a hold bit set keeps the group's commits from every close, those already seen at the gate too (log 57); a bit cleared presents
every held arm on one edge. -/
def cmtHoldWrite (s : State) (v : Word) : State :=
  let old := reg s .glb Off.GLB_CMT_HOLD
  let s := writePlain s .glb Off.GLB_CMT_HOLD v
  (List.range 16).foldl (fun (t : State) g =>
    if bitOf old g = bitOf v g then t
    else (groupPending t g).foldl (fun (u : State) x =>
      if bitOf v g then
        if x.2.2.taken then u else setPending u x.1 x.2.1 (some { x.2.2 with held := true, seen := false })
      else if x.2.2.held then gateSee u x.1 x.2.1 g else u) t) s

def execCmtHoldWrite (v : Word) (s : State) : Res := done (cmtHoldWrite s v)

/-- R58: the notice of a close of group g reaches island i. -/
def closeNotice (s : State) (i g : Nat) : State :=
  { s with unnoticed := mapSet (fun _ => 0) s.unnoticed (i * 16 + g) (mapGet (fun _ => 0) s.unnoticed (i * 16 + g) - 1) }

def execCloseNoticeArrival (i : Fin 44) (g : Fin 16) (s : State) : Res := done (closeNotice s i.val g.val)

/-! ## Local pages (R59) -/

/-- The pending commit of a local page. -/
def localPending (s : State) (p : Page) : Option Pending :=
  match domainOf p with
  | .loc => (cslot s p 0).pending
  | _ => none

/-- R59: a frame or immediate arm, or a scheduled one armed late, applies on the first island edge. -/
def localApply (s : State) (p : Page) : State :=
  match localPending s p with
  | some pd => if pd.mode ≠ 2 ∨ (cslot s p 0).missed = true then applyCommit s p 0 pd false 0 else s
  | none => s

def execLocalCommitApply (p : Page) (s : State) : Res := done (onPage s p (fun (t : State) => localApply t p))

/-- R59: a scheduled commit applies once the time base is at or after CMT_TIME. -/
def localDue (s : State) (p : Page) : State :=
  match localPending s p with
  | some pd => if pd.mode = 2 ∧ 0 ≤ sinceTime s pd.sec pd.ns then applyCommit s p 0 pd false 0 else s
  | none => s

def execLocalSchedCommitDue (p : Page) (s : State) : Res := done (onPage s p (fun (t : State) => localDue t p))

/-! ## No frames, and the banks after a close (R58, R135) -/

/-- The layer IDs in force in a bank. -/
def layrIds (s : State) (g : Nat) : List Nat := (layrBank s g).descs.map (·.1)

/-- R58: while TGEN g is not in RUN a commit applies, and the bank's content is selected anew (R173). With PGRP g down its banks' commits
apply unseen (R146), but not while CMT_HOLD keeps them from the gate (R61). -/
def noframeApply (s : State) (p : Page) (g : Nat) : State :=
  let b := bankAt p g
  match (cslot s p b).pending with
  | some pd =>
    if commitGroup p b = some g ∧ (pd.seen = true ∨ islandUp s (islPgrp g) = false) ∧ pd.held = false ∧ pd.taken = false
       ∧ tgenRuns s g = false then
      let old := layrIds s g
      let t := applyCommit s p b pd false (tgen s g).cur
      if islandUp t islFab then layrLevels (selectBank t .idle g old none) else t
    else s
  | none => s

def execNoframeCommitApply (p : Page) (g : Fin 16) (s : State) : Res := done (onPage s p (fun (t : State) => noframeApply t p g.val))

/-- R135: the commits of RENG g and of bank g that the close took come into force. LAYR's values are in force since the close,
at which its content was selected. -/
def bankApply (s : State) (g : Nat) : State :=
  (groupPending s g).foldl (fun (t : State) x =>
    if x.2.2.taken = false ∨ pageUp t x.1 = false then t
    else match x.1 with
      | .layr => commitDone t .layr g x.2.2 x.2.2.frame
      | p => applyCommit t p x.2.1 x.2.2 true x.2.2.frame) s

def execBankCommitApply (g : Fin 16) (s : State) : Res := done (bankApply s g.val)

end Sys2Proof.Machine
end

