-- ==== Sys2Proof/Machine/Close.lean ====
section
/-!
DEFINITION. Generator requests, the commit close, stream starts, Ensign frames, withdrawals, and the region slots that
follow the frames (spec/05_output_timing.md R134 to R145, spec/08_ray_compositing.md R226, R227, R235 to R237,
spec/11_lamp_correction.md R321, spec/13_bunting_protocol.md R380, R382).
-/
namespace Sys2Proof.Machine

/-! ## Commits at a close (R58, R135, R138) -/

/-- A pending commit of the group that the close of frame f with latch `l` takes: its target has come, and, in scheduled mode, the
latch is at or after its time (R58, R61). -/
def dueAt (s : State) (f : Word) (l : Rat) (pd : Pending) : Bool :=
  pd.seen && !pd.held && !pd.taken && frameGe f pd.frame && (decide (pd.mode ≠ 2) || decide (dueTime s pd ≤ l))

/-- A LAYR commit of bank g among `due` calls for a held frame (R138, R175). -/
def closeHolds (s : State) (g : Nat) (due : List (Page × Nat × Pending)) : Bool :=
  due.any (fun x => decide (x.1 = .layr) && holdsFrame s g x.2.2.descs)

/-- A due commit at the close of frame f: a page of PGRP g comes into force on the edge; LAYR's values are in force for the
selection; the rest comes into force at the bank's application (R135, R173). -/
def closeOne (f : Word) (s : State) (x : Page × Nat × Pending) : State :=
  if inPgrp x.1 then applyCommit s x.1 x.2.1 x.2.2 true f
  else
    let s := setPending s x.1 x.2.1 (some { x.2.2 with taken := true, frame := f })
    match x.1 with
    | .layr => layrApply (putForce s .layr x.2.1 x.2.2.snap) x.2.1 x.2.2
    | _ => s

/-- The due commits of group g come into force for frame f, or a held frame keeps every one for f + 1 and the
layer that holds it raises NOT_READY (R138, R174). -/
def closeCommits (s : State) (g : Nat) (f : Word) (due : List (Page × Nat × Pending)) : State :=
  if closeHolds s g due then
    let s := due.foldl (fun (t : State) x => setPending t x.1 x.2.1 (some { x.2.2 with frame := f + 1 })) s
    raiseIf (islandUp s islFab) .layr 0 (raise (setHolding s g true) (tgenPage g) 8)
  else due.foldl (closeOne f) (setHolding s g false)

/-! ## The close (R134, R135, R140, R173, R321) -/

/-- The islands at which notice of a close of group g is awaited. -/
def noticeIslands (s : State) (g : Nat) : List Nat := [islRay g, islFab, islCtl].filter (islandUp s)

/-- Notices of a close leave for them. -/
def sendNotices (s : State) (g : Nat) : State :=
  { s with unnoticed := (noticeIslands s g).foldl (fun m i =>
      mapSet (fun _ => 0) m (i * 16 + g) (mapGet (fun _ => 0) m (i * 16 + g) + 1)) s.unnoticed }

/-- A generator enters a state on a close edge (R139, R140). From SLACK to RUN every module takes FULL parts. -/
def genEnter (s : State) (g : Nat) (want : GenState) : State :=
  let t := tgen s g
  let s := raiseIf (decide (t.gen ≠ want)) (tgenPage g) 1 (setTgen s g { t with gen := want, req := none })
  if t.gen = .slack ∧ want = .run then
    (List.range 16).foldl (fun (u : State) i => markFull u (16 * g + i) (List.range (ringAt u (16 * g + i)).n)) s
  else s

/-- The state that a pending request asks for at the close of a frame with latch `l` (R140). -/
def reqDue (s : State) (g : Nat) (l : Rat) : Option GenState :=
  match (tgen s g).req with
  | some q => match q.atTime with
    | none => some q.want
    | some (sec, ns) => if genTimeNs s sec ns ≤ l then some q.want else none
  | none => none

/-- The wear half of group g flips at its close (R307). -/
def wearFlip (s : State) (g : Nat) : State :=
  if s.trim.flip.contains g then
    setTrim s { s.trim with half := mapSet (fun _ => false) s.trim.half g (!(mapGet (fun _ => false) s.trim.half g))
                            flip := s.trim.flip.filter (fun x => decide (x ≠ g)) }
  else s

/-- The work of the close of frame f of group g that `gov` governs, with latch `l`; `ran` where the gate's rules are those of
RUN (R135). -/
def closeFrame (s : State) (g : Nat) (gov : GenState) (ran : Bool) (f : Word) (l : Rat) : State :=
  let l0 := (tgen s g).latch
  let l0 := match planOf (tgen s g) (f - 1) with
    | some p => p.latch
    | none => l0
  let old := layrIds s g
  let s := if ran then closeCommits s g f ((groupPending s g).filter (fun x => dueAt s f l x.2.2)) else s
  let s := if islandUp s islFab then
      scalLate (layrLevels (selectBank s .frame g old (if gov = .run then some f else none))) g
    else s
  let s := wearFlip (rgnClose s g f l l0) g
  let s := planFrame s g gov (decide (gov = .run))
  sendNotices (storeClose s g f) g

/-- The commit close of the next frame of group g (R134, R135). A request that is due takes effect first; to STOPPED there is no
frame. -/
def commitClose (s : State) (g : Nat) : State :=
  let t := tgen s g
  let f := nextClose t
  let was := t.gen
  match reqDue s g t.sched with
  | some .stopped =>
    let s := wearTry (genEnter s g .stopped) g
    tgenLevels (setTgen (rgnStopped s g f) g { tgen (rgnStopped s g f) g with realigning := false }) g
  | some w => closeFrame (genEnter s g w) g w (decide (was = .run) || decide (w = .run)) f t.sched
  | none => closeFrame s g was (decide (was = .run)) f t.sched

/-- The close of the next frame has come: at C_F = L_{F-1} - CLOSE_LEAD or after it, and no more than one frame ahead of the next latch
(R134). -/
def closeDue (s : State) (g : Nat) : Bool :=
  let t := tgen s g
  frameGe (t.cur + 1) t.closed && (match closeTime s g with
    | some c => decide (c ≤ nowNs s)
    | none => false)

/-- R135. -/
def execCommitClose (g : Fin 16) (s : State) : Res :=
  done (onPage s (.tgen g) (fun (t : State) => if closeDue t g.val then commitClose t g.val else t))

/-! ## Generator requests (R140, R141) -/

/-- The close that a timed request names has passed: the last frame closed latches at or after GEN_TIME (R140). -/
def reqLateNow (s : State) (g : Nat) (tm : Option (Nat × Nat)) : Bool :=
  match tm, planOf (tgen s g) (tgen s g).closed with
  | some (sec, ns), some p => decide (genTimeNs s sec ns ≤ p.latch)
  | _, _ => false

/-- A start from STOPPED: the first latch is chosen, and its close is taken on the same edge (R141). -/
def genStart (s : State) (g : Nat) (want : GenState) (tm : Option (Nat × Nat)) : State :=
  let s := setTgen s g { tgen s g with dirty := false, stepped := false, refused := false, onTrk := false, schedOn := false
                                       realigning := false }
  let (l, late) := firstLatch s g tm
  let f := nextClose (tgen s g)
  let on := (gridOf s g).isSome && decide (tgF s g Off.TGEN_MODE 5 2 = 2)
  let s := setTgen s g { tgen s g with sched := l, reqLate := late, onTrk := on, schedOn := on }
  closeFrame (genEnter s g want) g want (decide (want = .run)) f l

/-- GEN_CTRL with go = 1 (R140, R141). -/
def genRequest (s : State) (g : Nat) (want : GenState) (atTime : Bool) : State :=
  let p := tgenPage g
  let tm := if atTime then some ((reg s p Off.TGEN_GEN_TIME_HI).toNat, regF s p Off.TGEN_GEN_TIME_LO 0 30) else none
  let s := setTgen s g { tgen s g with reqLate := false }
  let t := tgen s g
  if t.gen = .stopped then (if want = .stopped then s else genStart s g want tm)
  else if want = t.gen then setTgen s g { t with req := none }
  else
    let late := reqLateNow s g tm
    setTgen s g { t with req := some ⟨want, if late then none else tm⟩, reqLate := late }

/-- A write of GEN_CTRL (R148). -/
def writeGenCtrl (s : State) (g : Nat) (v : Word) : State :=
  let s := writePlain s (tgenPage g) Off.TGEN_GEN_CTRL v
  if bitOf v 8 then genRequest s g (genOf (fld v 0 2)) (bitOf v 4) else s

/-- The GEN_CTRL word of a request. -/
def genWord (req : Nat) (atTime : Bool) : Word := BitVec.ofNat 32 (req + b2n atTime * 16 + 256)

def execGenReqStopped (g : Fin 16) (atTime : Bool) (s : State) : Res :=
  done (onPage s (.tgen g) (fun (t : State) => writeGenCtrl t g.val (genWord 0 atTime)))
def execGenReqSlack (g : Fin 16) (atTime : Bool) (s : State) : Res :=
  done (onPage s (.tgen g) (fun (t : State) => writeGenCtrl t g.val (genWord 1 atTime)))
def execGenReqRun (g : Fin 16) (atTime : Bool) (s : State) : Res :=
  done (onPage s (.tgen g) (fun (t : State) => writeGenCtrl t g.val (genWord 2 atTime)))
def execGenReqEnsign (g : Fin 16) (atTime : Bool) (s : State) : Res :=
  done (onPage s (.tgen g) (fun (t : State) => writeGenCtrl t g.val (genWord 3 atTime)))

/-! ## The stream start (R135, R192, R226, R304, R313, R380, R403) -/

/-- A layer of bank g as a frame composes it: the surface sampled is the working surface where there is one, and the layer's
parameters then address the oriented source (R209, R244). -/
def layerView (s : State) (d : List Word) (sel : LayerSel) : LayerView :=
  let buf := match sel.work with
    | some w => w
    | none => sel.content.getD 0
  let ratio : Option (Nat × Nat) := match sel.work, sel.content with
    | some _, some c =>
      let f := surfOf (bufEntry s c)
      some (layoutDims sel.orient f.w f.h)
    | _, _ => none
  { desc := d, shown := sel.shown && sel.content.isSome, buf := buf, entry := bufEntry s buf, ratio := ratio }

def LayerView.none0 : LayerView := ⟨[], false, 0, [], none⟩

/-- The registers of RENG g in force, by offset. -/
def rengForce (s : State) (g : Nat) : AMap Word :=
  let p := engPage g
  s.inForce.foldl (fun m e => if keyOf p 0 e.1 then mapSet (regResetOf .reng) m (e.1 % 4096) e.2 else m) []

/-- The contexts of group g, with the bands of the moment (R304). -/
def groupCtx (s : State) (g : Nat) : AMap Word := mapKeep (fun k => decide (ctxGroup (k / 16) = g)) s.geom.ctx

/-- The snapshots of the frame-start command of a planned frame (R135). -/
def frameStart (s : State) (g : Nat) (pl : FramePlan) : EngFrame × State :=
  let bk := layrBank s g
  let (att, s) := fadeFrame s g pl.latch
  let rd (off : Nat) := forceBank s .layr g off
  let layers := bk.descs.foldl (fun m e => mapSet (fun _ => LayerView.none0) m e.1
    (layerView s e.2 (mapGet (fun _ => LayerSel.initial) bk.sels e.1))) []
  ({ frame := pl.frame, latch := pl.latch, phases := pl.phases
     dcap := min (forceF s (engPage g) Off.RENG_DEPTH 0 6) (eng s g).therm
     regs := rengForce s g
     stackIds := (List.range pl.phases).map (fun k => if k < bk.loaded then stackOf rd k else [])
     sampled := sampledFor s g pl
     layers := layers, ctx := groupCtx s g, types := s.geom.types, tsets := s.trim.tsets
     trips := (eng s g).trips.filterMap (·.2)
     trimCtl := forceBank s .trim g Off.TRIM_CTRL, tsetLo := forceBank s .trim g Off.TRIM_TSET_LO
     tsetHi := forceBank s .trim g Off.TRIM_TSET_HI
     att := att, half := mapGet (fun _ => false) s.trim.half g
     windows := (windowsOf s g).map (fun w => (rgnLo s w.1, rgnCnt s w.1, stageAt s w.1)) }, s)

/-- Rings of group g that are UP. -/
def upRings (s : State) (g : Nat) : List Nat := (List.range 16).filter (fun i => ringUp s (16 * g + i))

/-- The contexts that carry drive codes in a frame. -/
def codeCtxs (g : Nat) (plans : List (Nat × ServePlan)) : List Nat :=
  plans.flatMap (fun x => ((x.2.pos.zipIdx).filter (fun q => decide (q.1.kind = 0))).map (fun q => ctxNum (16 * g + x.1) q.2))

/-- Served contexts that no module of an UP ring answers for: MOD_MISSING (R380). -/
def missingMods (s : State) (g : Nat) (fr : EngFrame) (i : Nat) : Bool :=
  (List.range 192).any (fun m => decide ((ringAt s (16 * g + i)).n ≤ m) && ctxServed fr.types (frCtx fr g i m))

/-- The UP rings of group g take up a frame of RUN with its probes (R379, R380, R403); a further attempt keeps its probes. -/
def serveFrame (s : State) (g : Nat) (fr : EngFrame) (still : Nat) (again : Bool) : State :=
  let plans := (upRings s g).map (fun i => (i, ringPlan s fr g i))
  let cs := codeCtxs g plans
  let (ps, s) := if again then ([], s) else probeFrame s g still cs
  let s := plans.foldl (fun (t : State) x =>
    let p := 16 * g + x.1
    let es := if again then (bgrpAt t g).probes.filter (fun e => decide (e.1 / 192 = p)) else ps.filter (fun e => decide (e.1 / 192 = p))
    let t := addPlan t p { x.2 with probes := es.map (fun e => (e.1 % 192, e.2)) }
    ringLevels (setRing t p { ringAt t p with modMissing := missingMods t g fr x.1 }) p) s
  let s := if again then s else setBgrp s g { bgrpAt s g with probes := ps, probesFor := some fr.frame }
  let bad := !(dgstValid s g) && decide ((bgrpAt s g).dgstFrame ≠ some fr.frame)
  let s := if bad then raise (setBgrp s g { bgrpAt s g with dgstFrame := some fr.frame }) (bgrpPage g) 11 else s
  if again then s else diagLevels (tempFrame s g cs)

/-- The frame-start command reaches RAY g: it begins, waits behind the frame in progress, or is answered ABSENT (R85, R135,
R627). Every stream start invalidates the texel cache (R214). -/
def frameCmd (s : State) (g : Nat) (fr : EngFrame) : State :=
  if islandRuns s (islRay g) = false then s
  else match (eng s g).cur with
    | none => engBegin s g fr
    | some _ => setEng s g { eng s g with waiting := some fr, cache := [] }

/-- A valid context of an undefined type is treated for the frame as not valid, and GEOM_ABSENT is raised (R188). -/
def geomAstray (s : State) (g : Nat) : State := raiseIf (ctxAstray s.geom.types (groupCtx s g)) .geom 4 s

/-- The stream start of a planned frame (R135): every commit taken for it is in force before the frame-start command (R60, R200). -/
def streamStart (s : State) (g : Nat) (pl : FramePlan) (again : Bool) : State :=
  let s := bankApply s g
  let t := tgen s g
  let s := setTgen s g { t with plans := t.plans.map (fun q => if q.frame = pl.frame then { q with started := true } else q) }
  let s := if islandUp s (islRay g) then dcapLevel (setEng s g { eng s g with therm := thermOf (govStep s g) }) g else s
  let (fr, s) := frameStart (geomAstray s g) g pl
  frameCmd (serveFrame s g fr (pl.still / 1000) again) g fr

/-- The frame of the latest close, where it is composed for RUN. -/
def runPlan (s : State) (g : Nat) : Option FramePlan :=
  match planOf (tgen s g) (tgen s g).closed with
  | some pl => if pl.gov = .run ∧ pl.composed = true then some pl else none
  | none => none

/-- R135. A frame that has been withdrawn waits for WITHDRAW_RESTART. -/
def execStreamStart (g : Fin 16) (s : State) : Res :=
  done (onPage s (.tgen g) (fun (t : State) => match runPlan t g.val with
    | some pl => if pl.started = false ∧ (bgrpAt t g.val).wdWait = false then streamStart t g.val pl false else t
    | none => t))

/-- R227: notice that the last Pennant of the engine's frame has left. -/
def execFrameAbandon (e : Fin 16) (s : State) : Res :=
  done (match (eng s e.val).cur with
    | some fr => if frameFinished s e.val fr.frame then engAbandon s e.val fr else s
    | none => s)

/-! ## Ensign (R145, R235 to R237) -/

/-- The lamps of the Ensign region's enabled rings, in region order: (ring, module, lamp) of the valid contexts in range. -/
def ensOrder (s : State) (g : Nat) : List (Nat × Nat × Nat) :=
  s.ens.rings.flatMap (fun e => match e.2 with
    | none => []
    | some (a, b) => (List.range 192).flatMap (fun m =>
        let x := ctxWords s.geom.ctx (ctxNum (16 * g + e.1) m)
        if a ≤ m ∧ m ≤ b ∧ ctxServed s.geom.types x = true then (List.range (tLamps (typeCfg s (cType x)))).map (fun l => (e.1, m, l)) else []))

/-- The drive code of region lamp n (R235, R236). -/
def ensCode (s : State) (n : Nat) : Nat :=
  let by_ := (mapGet (fun _ => (0 : Byte)) s.ens.store (n / 2)).toNat
  mapGet (fun _ => 0) s.ens.palette (if n % 2 = 0 then by_ % 16 else by_ / 16)

/-- How an enabled ring is served in an Ensign frame: every module with a context that can be served gets drive codes. -/
def ensPlan (s : State) (g i : Nat) (f : Word) : ServePlan :=
  { frame := f, phases := 1, delta := false, probes := []
    pos := (List.range (ringAt s (16 * g + i)).n).map (fun m =>
      let x := ctxWords s.geom.ctx (ctxNum (16 * g + i) m)
      let tc := typeCfg s (cType x)
      if ctxServed s.geom.types x = false ∨ (ringAt s (16 * g + i)).idMis.contains m = true then ⟨1, 0, 0⟩ else ⟨0, tLamps tc, tHW tc * tVW tc⟩) }

/-- Splits codes into chunks of up to 48. -/
def chunks48 (f : Word) (ring : Nat) : Nat → List (Nat × Nat × Nat) → List Chunk
  | 0, _ => []
  | n + 1, l => if l.isEmpty then [] else ⟨f, 0, ring, l.take 48⟩ :: chunks48 f ring n (l.drop 48)

/-- The chunks of an Ensign frame on ring i: region codes in range, codes of 0 outside it, modules in order. -/
def ensChunks (s : State) (g i : Nat) (f : Word) (codes : List ((Nat × Nat × Nat) × Nat)) : List Chunk :=
  let mine := codes.filter (fun x => decide (x.1.1 = i))
  let all := (List.range (ringAt s (16 * g + i)).n).flatMap (fun m =>
    let x := ctxWords s.geom.ctx (ctxNum (16 * g + i) m)
    let inRange := mine.filter (fun y => decide (y.1.2.1 = m))
    if ctxServed s.geom.types x = false then []
    else if inRange.isEmpty then (List.range (tLamps (typeCfg s (cType x)))).map (fun l => (m, l, 0))
    else inRange.map (fun y => (m, y.1.2.2, y.2)))
  chunks48 f i (all.length / 48 + 1) all

/-- The Ensign renderer at a close of group g (R237): rings left dark, and, where the region, palette or store has changed or the
frame is the first of ENSIGN, the frame's codes. -/
def ensRender (s : State) (g : Nat) (pl : FramePlan) : State :=
  let t := tgen s g
  let mine := decide (s.ens.group = some g)
  let first := match planOf t (pl.frame - 1) with
    | some q => decide (q.gov ≠ .ensign)
    | none => true
  let go := mine && (s.ens.changed || first)
  let dark := (List.range 16).filter (ensDark s g)
  let s := setTgen s g { t with plans := t.plans.map (fun q =>
    if q.frame = pl.frame then { q with dark := dark, composed := go, started := true } else q) }
  if go = false then s
  else
    let s := geomAstray s g
    let codes := ((ensOrder s g).zipIdx).map (fun x => (x.1, ensCode s x.2))
    let lit := (List.range 16).filter (fun i => !ensDark s g i && ringUp s (16 * g + i))
    let s := lit.foldl (fun (u : State) i => addPlan u (16 * g + i) (ensPlan u g i pl.frame)) s
    let cs := lit.flatMap (fun i => ensChunks s g i pl.frame codes)
    let s := setBgrp s g { bgrpAt s g with ens := (bgrpAt s g).ens ++ cs }
    { s with ens := { s.ens with changed := false } }

/-- R237. -/
def execEnsignRender (g : Fin 16) (s : State) : Res :=
  done (onPage s (.tgen g) (fun (t : State) => match planOf (tgen t g.val) (tgen t g.val).closed with
    | some pl => if pl.gov = .ensign ∧ pl.started = false ∧ islandUp t islCtl = true then ensRender t g.val pl else t
    | none => t))

/-! ## Withdrawal (R382) -/

/-- Withdrawals of frame f so far. -/
def wdSoFar (s : State) (g : Nat) (f : Word) : Nat := genOfFrame s g f

/-- WITHDRAW goes out on ring p: the attempt's parts are forgotten, and modules whose part had started take FULL parts. -/
def withdrawRing (f : Word) (gen : Nat) (s : State) (p : Nat) : State :=
  if ringUp s p = false then s
  else
    let mineNow := decide ((ringAt s p).pf = some f)
    let s := match (ringAt s p).serve.find? (fun q => decide (q.frame = f)) with
      | some pl => if mineNow then truncate s p pl else s
      | none => s
    let s := emit s p [withdrawBlock gen f]
    let r := ringAt s p
    let s := setRing s p { r with
      serve := r.serve.filter (fun q => decide (q.frame ≠ f))
      pf := if mineNow then none else r.pf
      sent := if mineNow then [] else r.sent
      started := if mineNow then [] else r.started
      asm := if mineNow then [] else r.asm }
    if mineNow then markFull s p r.started else s

/-- RAY g discards its attempt at frame f (R382). -/
def engWithdraw (s : State) (g : Nat) (f : Word) : State :=
  let v := dropCodes (eng s g) f
  let v := if frameIs f v.waiting then { v with waiting := none } else v
  let v := { v with stream := v.stream.filter (fun c => decide (c.frame ≠ f)) }
  setEng s g (if frameIs f v.cur then
    { v with cur := none, rays := [], loads := [], at_ := [], faults := [], wbDue := v.wbDue.filter (fun q => decide (q ≠ f)) }
  else v)

/-- Frame f is laid out again where a TGEN commit has come into force for it: L_F stands (R142). -/
def replan (s : State) (g : Nat) (pl : FramePlan) : State :=
  let t := tgen s g
  let s := setTgen s g { t with closed := pl.frame - 1, sched := pl.latch, schedOn := pl.grid, plans := t.plans.filter (fun q => decide (q.frame ≠ pl.frame)) }
  let s := planFrame s g .run true
  let t := tgen s g
  setTgen s g { t with plans := t.plans.map (fun q => if q.frame = pl.frame then { q with transition := q.transition || pl.transition } else q) }

/-- The commits that a withdrawal brings into force for frame f. -/
def wdDue (s : State) (g : Nat) (f : Word) : List (Page × Nat × Pending) :=
  (groupPending s g).filter (fun x => x.2.2.seen && !x.2.2.held && !x.2.2.taken && decide (x.2.2.mode ≠ 2)
    && decide (x.2.2.frame = f + 1))

/-- WD_CMD.go for the frame of the latest close (R382). -/
def withdraw (s : State) (g : Nat) (pl : FramePlan) : State :=
  let f := pl.frame
  let n := wdSoFar s g f
  let s := (List.range 16).foldl (fun (t : State) i => withdrawRing f n t (16 * g + i)) s
  let s := engWithdraw s g f
  let due := wdDue s g f
  let old := layrIds s g
  let held := closeHolds s g due
  let s := closeCommits s g f due
  let s := if islandUp s islFab then layrLevels (selectBank s .again g old (some f)) else s
  let t := tgen s g
  let s := setTgen s g { t with plans := t.plans.map (fun q => if q.frame = f then { q with started := false } else q) }
  let s := if !held && due.any (fun x => decide (x.1 = tgenPage g)) then replan s g pl else s
  raise (setBgrp s g { bgrpAt s g with wdCount := n + 1, wdFrame := f, wdWait := true }) (bgrpPage g) 8

/-- WD_CMD.go: refused, or carried out (R382). -/
def withdrawCmd (s : State) (g : Nat) : State :=
  match (if (tgen s g).gen = .run then runPlan s g else none) with
  | some pl =>
    if pl.latch - 64000 ≤ nowNs s ∨ 4 ≤ wdSoFar s g pl.frame then raise s (bgrpPage g) 9
    else withdraw s g pl
  | none => raise s (bgrpPage g) 9

/-- R382. -/
def execWithdrawCmd (g : Fin 16) (s : State) : Res := done (onPage s (.bgrp g) (fun (t : State) => withdrawCmd t g.val))

/-- The plan of the frame withdrawn last, while it has not latched; a later close may have come since (R382). -/
def wdPlan (s : State) (g : Nat) : Option FramePlan :=
  match planOf (tgen s g) (bgrpAt s g).wdFrame with
  | some pl => if pl.gov = .run ∧ pl.composed = true ∧ frameGe (tgen s g).cur pl.frame = false then some pl else none
  | none => none

/-- The next attempt of the withdrawn frame starts (R382). -/
def withdrawRestart (s : State) (g : Nat) : State :=
  let b := bgrpAt s g
  if b.wdWait = false then s
  else
    let s := setBgrp s g { b with wdWait := false }
    match wdPlan s g with
    | some pl => streamStart s g pl (decide (b.probesFor = some pl.frame))
    | none => s

def execWithdrawRestart (g : Fin 16) (s : State) : Res := done (onPage s (.bgrp g) (fun (t : State) => withdrawRestart t g.val))

/-! ## Region slots that follow the frames (R321) -/

/-- Frame T - 1 has finished: the slot's words are copied. -/
def execUpdCopyStart (r : Fin 64) (s : State) : Res :=
  let v := rgn s r.val
  done (if v.st = 3 ∧ islandUp s islFab = true ∧ (v.past || frameFinished s (rgnGroup s r.val) (v.frameT - 1)) = true then
    setRgn s r.val { v with st := 4 } else s)

/-- The table's new words, as the copy reads them from staging; a word that cannot be read leaves the table's. -/
def copyWords (s : State) (r : Nat) : List (Nat × List Byte) :=
  (List.range (rgnCnt s r)).filterMap (fun k =>
    if hbmReadOk s (stageAt s r + 4 * k) 4 then some (tblBase s + 4 * (rgnLo s r + k), memBytes s (stageAt s r + 4 * k) 4) else none)

/-- The copy is visible; while HBM is away its writes are reissued. In STOPPED the window is dropped at once, and a slot that waits for
it takes it. -/
def copyDone (s : State) (r : Nat) : State :=
  let v := rgn s r
  if v.st ≠ 4 ∨ hbmLive s = false then s
  else
    let g := rgnGroup s r
    let s := hbmPut (eccTouchAll s [(stageAt s r, 4 * rgnCnt s r)]) (copyWords s r)
    let s := setRgn s r { v with st := 5 }
    if (tgen s g).gen = .stopped then rgnStopped s g (nextClose (tgen s g)) else s

/-- R321. -/
def execUpdCopyDone (r : Fin 64) (s : State) : Res := done (copyDone s r.val)

/-- Frame U - 1 has finished: the slot is IDLE and a queued request starts (R320, R321). -/
def execUpdDrainDone (r : Fin 64) (s : State) : Res :=
  let v := rgn s r.val
  done (if v.st = 6 ∧ (v.past || frameFinished s (rgnGroup s r.val) (v.frameU - 1)) = true then
    updNext (raise (setRgn s r.val { v with st := 0, req := none }) .trim 7) r.val else s)

end Sys2Proof.Machine
end

