-- ==== Sys2Proof/Machine/Firmware.lean ====
section
/-!
DEFINITION. The control processor: verification of images, start, recovery, helpers, campaigns, handover, settings and
lifetime counts (spec/21_firmware_and_update.md R551 to R578, spec/16_host_and_scene_store.md R472, R473,
spec/23_bringup.md R601 to R603).
-/
namespace Sys2Proof.Machine

def setCpm (s : State) (v : Cpm) : State := { s with cpm := v }

/-! ## Keys and verification (R555 to R560) -/

/-- The digest of root-key slot k, where it is programmed. -/
def keySlot (s : State) (k : Nat) : Option (List Byte) :=
  if k = 0 then some Config.rootKeyDigest else if k < 4 then mapGet (fun _ => none) s.last.keys k else none

/-- A slot is programmed and not revoked. -/
def keyUsable (s : State) (k : Nat) : Bool := (keySlot s k).isSome && !s.last.revoked.contains k

/-- The minimum security version of a class. -/
def minSvn (s : State) (cls : Nat) : Nat := mapGet (fun _ => 0) s.last.svn cls

/-- Bytes `lo` to `lo + n - 1` are all 0. -/
def zeroAt (l : List Byte) (lo n : Nat) : Bool := (slice l lo n).all (fun b => decide (b = 0))

/-- The form of an image: format, class, length and reserved bytes. -/
def imgFormOk (img : List Byte) : Bool :=
  decide (4096 ≤ img.length) && decide (leAt img 0 1 = 1) && decide (1 ≤ imgClass img) && decide (imgClass img ≤ 4)
  && decide (imgLen img ≤ if imgClass img = 4 then 2 ^ 21 else 2 ^ 20) && decide (img.length = 4096 + imgLen img)
  && zeroAt img 2 2 && zeroAt img 0xF 1 && zeroAt img 0x14 0x2C && zeroAt img 0x79 7 && zeroAt img 0x132 0xECE

/-- A target that its class allows (R557). -/
def imgTargetOk (cls target : Nat) : Bool :=
  match cls with
  | 1 => decide (target = 0)
  | 2 => decide (target < 8)
  | 3 => decide (target < 7)
  | _ => true

/-- The detail of R556 at which an image fails; 0 where it passes. -/
def imgDetail (s : State) (img : List Byte) : Nat :=
  if imgFormOk img = false then 1
  else if imgTargetOk (imgClass img) (imgTarget img) = false then 2
  else if keyUsable s (imgSlot img) = false then 3
  else if some (Config.shake256 (imgKey img) 64) ≠ keySlot s (imgSlot img) then 4
  else if (s.cpm.policy.masks.getD (imgClass img - 1) 0).testBit (imgSlot img) = false then 5
  else if imgSvn img < minSvn s (imgClass img) then 6
  else if imgWhole img = false then 7
  else if Config.ed448Verify (imgKey img) (img.take 0xC0) (slice img 0xC0 114) = false then 8
  else 0

/-- Verifies an image; a failure raises VERIFY_FAIL. -/
def verify (s : State) (img : List Byte) : Nat × State :=
  let d := imgDetail s img
  (d, raiseIf (decide (d ≠ 0)) .sec 0 s)

/-- The detail of a control processor image: also one of another class fails, at its target. -/
def cpDetail (s : State) (img : List Byte) : Nat :=
  if imgDetail s img = 0 ∧ imgClass img ≠ 1 then 2 else imgDetail s img

/-! ## Records read at start (R566, R568 to R570) -/

/-- The privileged settings of a POLICY body (R569; the places of the fields are log 29): key masks of classes 1 to 4, debug_en,
trip_c, hbm_trip, gov_max, hbm_gov_max. -/
def policyOf (body : List Byte) : Policy :=
  { masks := (List.range 4).map (leAt body · 1), debug := (leAt body 4 1).testBit 0, trip := leAt body 5 1
    hbmTrip := leAt body 6 1, govMax := leAt body 7 1, hbmGovMax := leAt body 8 1 }

/-- The limits of R586. -/
def policyOk (p : Policy) : Bool :=
  decide (105 ≤ p.trip) && decide (p.trip ≤ 120) && decide (90 ≤ p.hbmTrip) && decide (p.hbmTrip ≤ 105)
  && decide (90 ≤ p.govMax) && decide (p.govMax ≤ 110) && decide (80 ≤ p.hbmGovMax) && decide (p.hbmGovMax ≤ 100)

/-- The policy record in force, or the defaults (R566). -/
def readPolicy (s : State) : State :=
  match nvBest s nvPolA nvPolB 0x11 with
  | some r => setCpm s { s.cpm with policy := policyOf (slice r.payload 0x60 9), policySeq := BitVec.ofNat 16 r.seq.toNat }
  | none => setCpm s { s.cpm with policy := .default, policySeq := 0 }

/-- The settings version of the firmware that this edition describes (R569). -/
def settingsVersion : Nat := 1

/-- The settings in force: the record's, or the defaults where there is none or it is newer (R570). -/
def readSettings (s : State) : State :=
  match nvBest s nvSetA nvSetB 0x10 with
  | some r =>
    if settingsVersion < r.version then setCpm s { s.cpm with settings := defaultSettings }
    else setCpm s { s.cpm with settings := (List.range 8).map (fun i => BitVec.ofNat 32 (leAt r.payload (4 * i) 4)) }
  | none => setCpm s { s.cpm with settings := defaultSettings }

/-! ## Start (R568, R601) -/

/-- A control processor image starts: CTL enters RUN; its settings are not yet migrated. -/
def cpStart (s : State) (ver : Word) (svn : Nat) : State :=
  let s := setCpm s { s.cpm with up := true, migrated := false, ver := ver, svn := svn, ho := 0, switched := false }
  islandRise (setIsland s 1 { island s 1 with imgVer := ver }) 1 .run

/-- CTL is held in ROM and waits for recovery (R472). -/
def recWait (s : State) : State :=
  let s := if (island s 1).st = .reset then s else islandClose (setCpm s { s.cpm with up := false }) 1 .reset
  recLevel (setReg { s with recov := ⟨1, [], false⟩ } .pcie Off.PCIE_REC_LEN 0)

/-- The ROM reads its records, fixes the straps, and starts the image of the active slot where it is valid; it never tries the
other slot. -/
def bootRom (s : State) : State :=
  if s.pins.strapped ∨ s.pins.porst = false ∨ s.pins.tripped = true then s
  else
    let s := readSettings (readPolicy { s with pins := { s.pins with strapped := true } })
    let s := thermLevels (setTherm s { s.therm with untrimmed := (nvGet s (nvCal 2) 0x22).isNone })
    let s := hostFollow (setCpm s { s.cpm with debug := s.cpm.policy.debug })
    match nvBest s nvBootA nvBootB 0x13 with
    | none => recWait s
    | some b => match nvGet s (nvCp (leAt b.payload 0 1 % 2)) 0x14 with
      | none => recWait s
      | some r =>
        if cpDetail s r.payload = 0 then
          let t := cpStart s (imgVersion r.payload) (imgSvn r.payload)
          setCpm t { t.cpm with auto := if bitOf (t.cpm.settings.getD 6 0) 0 then some 0 else none, autoTried := false }
        else recWait s

/-- R568. -/
def execBootRom (s : State) : Res := done (bootRom s)

/-! ## ROM recovery (R472, R473) -/

/-- REC_CTRL.enter with a key. -/
def recEnter (s : State) (key : Nat) : State :=
  if key = 0x5AFE ∧ (s.recov.st = 0 ∨ s.recov.st = 1 ∨ s.recov.st = 3) then recWait s else s

def execRecEnter (key : BitVec 16) (s : State) : Res := done (if pageUp s .pcie then recEnter s key.toNat else s)

/-- REC_CTRL.go. -/
def recGo (s : State) (src : Bool) : State :=
  if s.recov.st = 1 ∨ s.recov.st = 3 then recLevel { s with recov := { s.recov with st := 2, src := src } } else s

def execRecGo (src : Bool) (s : State) : Res := done (if pageUp s .pcie then recGo s src else s)

/-- A write of REC_DATA in WAIT: the word is appended at REC_LEN. -/
def recData (s : State) (v : Word) : State :=
  let n := regF s .pcie Off.PCIE_REC_LEN 0 23
  if s.recov.st ≠ 1 ∨ 2 ^ 21 + 4096 < n + 4 then s
  else
    let img := (leBytes 4 v.toNat).zipIdx.foldl (fun m x => mapSet (fun _ => 0) m (n + x.2) x.1) s.recov.image
    setReg { s with recov := { s.recov with image := img } } .pcie Off.PCIE_REC_LEN (BitVec.ofNat 32 (n + 4))

def execRecDataWrite (v : Word) (s : State) : Res := done (if pageUp s .pcie then recData s v else s)

/-- The image under check: written through REC_DATA, or in HBM; none where it cannot be read. -/
def recImage (s : State) : Option (List Byte) :=
  let n := regF s .pcie Off.PCIE_REC_LEN 0 23
  let a := addrPair s .pcie Off.PCIE_REC_SRC_LO Off.PCIE_REC_SRC_HI
  if s.recov.src then (if hbmReadOk s a n then some (memBytes s a n) else none)
  else some ((List.range n).map (mapGet (fun _ => 0) s.recov.image))

/-- The verdict of the check. -/
def recCheck (s : State) : State :=
  if s.recov.st ≠ 2 then s
  else match (recImage s).filter (fun img => decide (cpDetail s img = 0)) with
    | some _ => { s with recov := { s.recov with st := 4 } }
    | none => raise { s with recov := { s.recov with st := 3 } } .pcie 6

def execRecCheckDone (s : State) : Res := done (recCheck s)

/-- The recovered image signals that it has started. -/
def recStarted (s : State) : State :=
  if s.recov.st ≠ 4 ∨ (island s 1).st ≠ .reset then s
  else match recImage s with
    | some img => cpStart { s with recov := Recovery.initial } (imgVersion img) (imgSvn img)
    | none => s

def execRecImageStarted (s : State) : Res := done (recStarted s)

/-! ## Helpers (R552) -/

/-- A HELPER_UPDATE may be carried out: the update agent runs (its own update is the ROM's), the helper's island answers and an
image is found. -/
def hlpMayUpdate (s : State) (h : Nat) : Bool :=
  decide (h < 23) && islandPresent s.part (hlpIsland h) && islandUp s (hlpIsland h)
  && (decide (h = 21) || hlpRun s 21) && decide ((hlpAt s h).st ≠ 4) && (hlpImage s h).isSome

/-- The helper enters UPDATE. -/
def hlpUpdate (s : State) (h : Nat) : State := hlpStop s h 4

/-- Its watchdog expires: it restarts from its microcode. -/
def hlpRestart (s : State) (h : Nat) : State :=
  if hlpRun s h then raise (hlpEnter (hlpStop s h 1) h (hlpAt s h).ver) .cpm 3 else s

def execHelperWatchdogExpiry (h : Fin 23) (s : State) : Res := done (hlpRestart s h.val)

/-! ## Campaigns (R573 to R575) -/

/-- T as an instant, ns. -/
def campTime (s : State) : Rat := genTimeNs s s.cpm.campSec s.cpm.campNs

/-- X_g: the frame whose latch is the first at or after T. -/
def campFrame (s : State) (g : Nat) (t : Rat) : Word :=
  let v := tgen s g
  match (v.plans.filter (fun p => !frameGe v.cur p.frame)).find? (fun p => decide (t ≤ p.latch)) with
  | some p => p.frame
  | none => v.closed + 1 + BitVec.ofNat 32 (ratCeil ((t - v.sched) / v.period)).toNat

/-- The groups a module entry names. -/
def campGroups (ws : List Word) : List Nat := (List.range 16).filter (fun g => bitOf (ws.getD 1 0) g)

/-- A module entry is valid (R573). -/
def campModuleOk (s : State) (ws : List Word) : Bool :=
  let dest := fld (ws.getD 2 0) 16 8
  decide (fld (ws.getD 0 0) 2 30 = 0) && decide (fld (ws.getD 1 0) 16 16 = 0) && decide (fld (ws.getD 2 0) 24 8 = 0) && decide (ws.getD 3 0 = 0)
  && !(campGroups ws).isEmpty && (campGroups ws).all (fun g => decide (g < groupCount s.part))
  && decide (fld (ws.getD 2 0) 0 16 ≠ 0) && (decide (dest < 192) || decide (dest = 255))

/-- A helper or island entry is valid. -/
def campOtherOk (s : State) (ws : List Word) : Bool :=
  let k := fld (ws.getD 0 0) 8 6
  decide (fld (ws.getD 0 0) 2 6 = 0) && decide (fld (ws.getD 0 0) 14 2 = 0) && decide (fld (ws.getD 0 0) 17 15 = 0)
  && (if fld (ws.getD 0 0) 0 2 = 1 then decide (k < 23) && islandPresent s.part (hlpIsland k) && !bitOf (ws.getD 0 0) 16
      else islandPresent s.part k && (islKind k).isSome)

/-- An entry as the arm leaves it (R574). -/
def campArmEntry (s : State) (t : Rat) (ws : List Word) : CampEntry :=
  let fail (c : Nat) : CampEntry := ⟨ws, 2, c, [], false⟩
  match fld (ws.getD 0 0) 0 2 with
  | 0 =>
    if campModuleOk s ws = false then fail 1
    else
      let gs := campGroups ws
      let xs := gs.map (fun g => (g, campFrame s g t))
      if gs.any (fun g => decide ((tgen s g).gen = .stopped)) then fail 3
      else if xs.any (fun x => decide ((x.2 - (tgen s x.1).cur).toInt < 4)) then fail 2
      else if gs.any (fun g => !hlpRun s g) then fail 5
      else ⟨ws, 0, 0, xs, false⟩
  | 1 | 2 => if campOtherOk s ws then ⟨ws, 0, 0, [], false⟩ else fail 1
  | _ => fail 1

/-- LINK_REFUSED on the rings of an activation whose group's link manager is not in RUN (R551). -/
def campRefuse (s : State) (e : CampEntry) : State :=
  if e.code ≠ 5 then s
  else ((campGroups e.words).filter (fun g => !hlpRun s g)).foldl (fun (t : State) g =>
    (maskRings g (fld (e.words.getD 2 0) 0 16)).foldl linkRefuse t) s

/-- Writes entry i. -/
def setEntry (s : State) (i : Nat) (e : CampEntry) : State := setCpm s { s.cpm with entries := s.cpm.entries.set i e }

/-- A helper or island entry of a running campaign starts: the first that is pending, when none is under way. Entries that are
refused fail with code 5, and the next is tried (R574). -/
def campNext : Nat → State → State
  | 0, s => s
  | n + 1, s =>
    if s.cpm.camp ≠ 2 ∨ s.cpm.entries.any (fun e => e.going) = true then s
    else match s.cpm.entries.findIdx? (fun e => decide (e.st = 0) && decide (fld (e.words.getD 0 0) 0 2 ≠ 0)) with
      | none => s
      | some i =>
        let e := s.cpm.entries.getD i ⟨[], 0, 0, [], false⟩
        let k := fld (e.words.getD 0 0) 8 6
        if fld (e.words.getD 0 0) 0 2 = 1 then
          if hlpMayUpdate s k then hlpUpdate (setEntry s i { e with going := true }) k
          else campNext n (setEntry s i { e with st := 2, code := 5 })
        else
          let t := pctrlWrite s ((pagesOf k).headD .glb) 5 (bitOf (e.words.getD 0 0) 16)
          if (island t k).target = some .update ∨ (island t k).st = .update then setEntry t i { e with going := true }
          else campNext n (setEntry t i { e with st := 2, code := 5 })

/-- Goes on with a campaign. -/
def campGo (s : State) : State := campCheck (campNext 33 s)

/-- T is reached: island entries whose island is not IDLE fail, and the others are carried out in order. -/
def campT (s : State) : State :=
  if s.cpm.camp ≠ 1 ∨ sinceTime s s.cpm.campSec s.cpm.campNs < 0 then s
  else
    let late (e : CampEntry) : CampEntry :=
      if e.st = 0 ∧ fld (e.words.getD 0 0) 0 2 = 2
         ∧ ((island s (fld (e.words.getD 0 0) 8 6)).st ≠ .idle ∨ (island s (fld (e.words.getD 0 0) 8 6)).target.isSome = true)
      then { e with st := 2, code := 4 } else e
    campGo (setCpm s { s.cpm with camp := 2, entries := s.cpm.entries.map late })

def execCampaignTimeT (s : State) : Res := done (campT s)

/-- An update that a campaign's entry of kind `kind` started for k has ended. -/
def campEnded (s : State) (kind k : Nat) (ok : Bool) : State :=
  match s.cpm.entries.findIdx? (fun e => e.going && decide (fld (e.words.getD 0 0) 0 2 = kind) && decide (fld (e.words.getD 0 0) 8 6 = k)) with
  | none => s
  | some i =>
    let e := s.cpm.entries.getD i ⟨[], 0, 0, [], false⟩
    let e := if e.st = 0 then { e with st := if ok then 1 else 2, code := if ok then 0 else 5 } else e
    campGo (setEntry s i { e with going := false })

/-- A helper's self-check ends: it enters RUN, or is DEAD; a mailbox command that waits for it has its response (R552, R565). -/
def hlpCheckEnd (s : State) (h : Nat) (passed : Bool) : State :=
  if (hlpAt s h).st ≠ 4 then s
  else
    let img := hlpImage s h
    let ok := passed && (match img with
      | some i => i.2
      | none => false)
    let s := if ok then hlpEnter s h ((img.map (·.1)).getD 0) else hlpStop s h 5
    let s := if s.cpm.rspHelper = some h then
        let w (n : Nat) : Word := BitVec.ofNat 32 n
        setCpm s { s.cpm with rspHelper := none
                              rsp := if s.cpm.busy then some [w ((if ok then 0 else 9) + 256 + s.cpm.tag * 2 ^ 24), w (if ok then 3 else 5)] else none }
      else s
    campEnded s 1 h ok

def execHelperSelfCheckEnd (h : Fin 23) (passed : Bool) (s : State) : Res := done (hlpCheckEnd s h.val passed)

/-- An island's self-check ends: it enters RUN or IDLE, or is DEAD (R43, R436, R553). -/
def islCheckEnd (s : State) (k : Nat) (passed : Bool) : State :=
  let v := island s k
  if v.st ≠ .update then s
  else
    let ok := passed && (match v.load with
      | some l => l.2
      | none => false)
    let s := if ok then
        let s := if k = 3 then setHbm s { s.hbm with train := 1 } else s
        islandRise s k (if v.resume ∧ v.updFrom = .run then .run else .idle)
      else islandDown s k .dead
    campEnded s 2 k ok

def execIslandSelfCheckEnd (i : Fin 44) (passed : Bool) (s : State) : Res := done (islCheckEnd s i.val passed)

/-! ## Settings at first start, and the load sequence (R554, R570, R601, R603) -/

/-- The firmware's settings are settled: an older record is converted and the policy record erased; a newer one is left. -/
def migrate (s : State) : State :=
  match nvBest s nvSetA nvSetB 0x10 with
  | none => s
  | some r =>
    if r.version < settingsVersion then
      let s := nvWrite2 s nvSetA nvSetB 0x10 settingsVersion (bytesOfWords s.cpm.settings)
      readPolicy (nvPut (nvPut s nvPolA NvRec.blank) nvPolB NvRec.blank)
    else if settingsVersion < r.version then
      setLevel (setCpm s { s.cpm with newer := true }) .cpm 8 true
    else s

/-- A lane's stored slicer offset is its initial setting; one already in force stands (R594). -/
def laneSeed (pay : List Byte) (s : State) (l : Nat) : State :=
  if (laneSlicer s l).isSome then s
  else if l < 256 then setRing s l { ringAt s l with slicer := pay[2 * l]? }
  else setNet s { s.net with slicer := mapSet (fun _ => none) s.net.slicer (l - 256) pay[2 * l]? }

/-- The stored records seed the first pass and the lanes' initial settings (R594). -/
def calSeed (s : State) : State :=
  let s := match nvGet s (nvCal 0) 0x20 with
    | none => s
    | some r => { s with cal := { s.cal with lines := (List.range 43).foldl (fun m k =>
        mapSet (fun _ => CalLine.initial) m k ⟨leAt r.payload (2 * k) 2, false, 0⟩) s.cal.lines } }
  match nvGet s (nvCal 1) 0x21 with
  | none => s
  | some r => (List.range 272).foldl (laneSeed r.payload) s

/-- R554's order. -/
def autoOrder : List Nat := [3, 2, 43, 37, 38] ++ (List.range 16).map (20 + ·) ++ (List.range 16).map (4 + ·)

/-- The load sequence goes on to the next island. -/
def autoNext (s : State) (i : Nat) : State :=
  setCpm s { s.cpm with auto := if i + 1 < autoOrder.length then some (i + 1) else none, autoTried := false }

/-- One action of the load sequence: the island it has reached is taken to IDLE, then put through UPDATE with resume = 0 where
its kind has an image; then the next. -/
def autoStep (s : State) : State :=
  match s.cpm.auto with
  | none => s
  | some i =>
    let k := autoOrder.getD i 0
    let v := island s k
    let p := (pagesOf k).headD .glb
    if s.cpm.up = false ∨ s.cpm.migrated = false ∨ v.target.isSome ∨ v.st = .update then s
    else if islandPresent s.part k = false then autoNext s i
    else match v.st with
      | .reset => pctrlWrite s p 3 false
      | .idle =>
        if s.cpm.autoTried ∨ (islImage s k).isNone then autoNext s i
        else pctrlWrite (setCpm s { s.cpm with autoTried := true }) p 5 false
      | _ => autoNext s i

/-- R554. -/
def execAutoLoadSequence (s : State) : Res := done (autoStep s)

/-! ## Handover (R571, R572) -/

/-- The image a handover loads, where it can be read. -/
def hoImage (s : State) : Option (List Byte) :=
  if s.cpm.hoSrc = 2 then
    match stagedAt s 1 0 with
    | some g => if hbmReadOk s g.addr g.len then some (memBytes s g.addr g.len) else none
    | none => none
  else (nvGet s (nvCp s.cpm.hoSrc) 0x14).map (·.payload)

/-- A handover fails with a detail: the old image keeps running. -/
def hoFail (s : State) (detail : Nat) : State := raise (setCpm s { s.cpm with ho := 0, hoInfo := detail }) .cpm 5

/-- The new image is loaded and verified; one that cannot be read fails as its digest does. -/
def hoLoaded (s : State) : State :=
  if s.cpm.ho ≠ 1 then s
  else match hoImage s with
    | none => hoFail s 7
    | some img =>
      let d := cpDetail s img
      if d = 0 then setCpm s { s.cpm with ho := 2, hoVer := imgVersion img, hoSvn := imgSvn img }
      else hoFail (raise s .sec 0) d

def execHandoverLoadDone (s : State) : Res := done (hoLoaded s)

/-- The shadow's self-check ends. -/
def hoShadow (s : State) (passed : Bool) : State :=
  if s.cpm.ho ≠ 2 then s else if passed then setCpm s { s.cpm with ho := 3 } else hoFail s 10

def execHandoverShadowDone (passed : Bool) (s : State) : Res := done (hoShadow s passed)

/-- The first watchdog signal in PROBATION. -/
def hoPass (s : State) : State := if s.cpm.ho = 4 then raise (setCpm s { s.cpm with ho := 0 }) .cpm 4 else s

def execHandoverProbationPass (s : State) : Res := done (hoPass s)

/-- The watchdog after SWITCH expires: the control processor is dead, and CTL's Weirs close on its way to DEAD (R78, R572). -/
def cpDies (s : State) : State :=
  if s.cpm.up ∧ s.cpm.switched ∧ s.cpm.ho ≠ 3 ∧ islandUp s 1 = true then
    islandClose (setCpm s { s.cpm with up := false }) 1 .dead
  else s

def execCpWatchdogExpiry (s : State) : Res := done (cpDies s)

/-! ## Lifetime counts (R576) -/

/-- Power-on seconds. -/
def onSeconds (s : State) : Nat := s.last.onEdges / 25000000

/-- The lifetime log's record with the highest sequence, and its place. -/
def logBest (s : State) : Option NvRec :=
  s.last.nvm.foldl (fun (acc : Option NvRec) (e : Nat × NvRec) =>
    if nvLog 0 ≤ e.1 ∧ e.1 < nvLog 4096 ∧ e.2.type = 0x12 then
      (match acc with
       | none => some e.2
       | some r => if nvAfter e.2.seq r.seq then some e.2 else acc)
    else acc) none

/-- The counts are appended; the oldest sector is erased first where the log has wrapped. -/
def logAppend (s : State) (ok : Bool) : State :=
  if s.cpm.up = false then s
  else if ok = false then raise s .cpm 7
  else
    let seq := nvNext (logBest s)
    let i := seq.toNat % 4096
    let s := if i % 64 = 0 then (List.range 64).foldl (fun (t : State) j => nvPut t (nvLog (i + j)) NvRec.blank) s else s
    nvPut s (nvLog i) ⟨0x12, 1, seq, leBytes 8 (onSeconds s) ++ leBytes 8 s.last.hotMs ++ leBytes 4 s.last.cycles ++ leBytes 4 s.last.porsts⟩

def execLifetimeLogAppend (ok : Bool) (s : State) : Res := done (logAppend s ok)

/-- At start the log's record with the highest sequence is in force; the assertion of PORST_N that led to it is counted. -/
def lifetimeStart (s : State) : State :=
  let p := match logBest s with
    | some r => r.payload
    | none => []
  { s with last := { s.last with onEdges := 25000000 * leAt p 0 8, hotMs := leAt p 8 8, cycles := leAt p 16 4
                                 porsts := leAt p 20 4 + 1 } }

/-! ## PORST_N (R93, R601, R615, R618) -/

/-- PORST_N falls: everything but the flash, the fuses, the part, the pins, a trip and the modules on the rings
returns to reset, and stays there;
the nonce is a fresh value. -/
def porstAssert (s : State) : State :=
  let r := { State.reset with
    pending := s.pending, free := s.free + 4, part := s.part, extTemp := s.extTemp, last := s.last, modu := s.modu
    cpm := { Cpm.initial with nonce := s.free }
    pins := { porst := false, perst := s.pins.perst, strapped := false, tripped := s.pins.tripped } }
  setIsland r 0 { island r 0 with st := .reset }

def execPorstNAssert (s : State) : Res := done (porstAssert s)

/-- PORST_N rises: AON runs. After a trip every other island stays OFF. -/
def porstRise (s : State) : State :=
  if s.pins.porst then s
  else
    let s := setIsland { s with pins := { s.pins with porst := true } } 0 (Island.initial 0)
    let s := lifetimeStart s
    if s.pins.tripped then
      (List.range 43).foldl (fun (t : State) k => setIsland t (k + 1) { island t (k + 1) with st := .off }) s
    else s

def execPorstNRise (s : State) : Res := done (porstRise s)

end Sys2Proof.Machine
end

