-- ==== Sys2Proof/Machine/Mailbox.lean ====
section
/-!
DEFINITION. The mailbox, its commands, and what they wait for (spec/21_firmware_and_update.md R556 to R578,
spec/08_ray_compositing.md R235 to R237, spec/23_bringup.md R602). A response other than status 0, and other than the detail of a failed
verification, has no words after word 0 (log 30).
-/
namespace Sys2Proof.Machine

/-- What a command answers: its status and the words that follow. -/
abbrev Ans := Nat × List Word × State

/-- Word i of the request. -/
def mbw (ws : List Word) (i : Nat) : Word := ws.getD i 0

/-- An HBM address in words i and i + 1; a reserved bit. -/
def mbAddr (ws : List Word) (i : Nat) : Nat := (mbw ws i).toNat + fld (mbw ws (i + 1)) 0 3 * 2 ^ 32
def mbAddrBad (ws : List Word) (i : Nat) : Bool := decide (fld (mbw ws (i + 1)) 3 29 ≠ 0)

/-- HBM is in RUN, as a command that needs it asks (R565). -/
def mbHbm (s : State) : Bool := decide (islState s islHbm = .run)

/-- A failure. -/
def mbFail (s : State) (status : Nat) : Ans := (status, [], s)

/-- A program of the flash that fails (R566). -/
def mbNvFail (s : State) : Ans := mbFail (raise s .cpm 7) 6

/-! ## Information (R565, R576) -/

def mbGetInfo (s : State) : Ans :=
  (0, [s.cpm.ver, word (settingsVersion + b2n s.cpm.newer * 2 ^ 16), word s.cpm.svn, Config.deviceId.setWidth 32
       , (Config.deviceId >>> 32).setWidth 32], s)

def mbLifetime (s : State) : Ans :=
  (0, [word (onSeconds s), word (onSeconds s / 2 ^ 32), word s.last.hotMs, word (s.last.hotMs / 2 ^ 32), word s.last.cycles
       , word s.last.porsts], s)

/-! ## Images (R556, R566 to R568) -/

/-- IMG_STAGE: the image is verified, and recorded where its class is loaded from HBM; class 4 is not recorded. -/
def mbImgStage (s : State) (ws : List Word) : Ans :=
  let a := mbAddr ws 1
  let n := (mbw ws 3).toNat
  if mbAddrBad ws 1 then mbFail s 2
  else if mbHbm s = false then mbFail s 3
  else if 2 ^ 21 + 4096 < n then (4, [1, 0, 0, 0], raise s .sec 0)
  else if hbmReadOk s a n = false then mbFail (eccTouchAll s [(a, n)]) 6
  else
    let img := memBytes s a n
    let r := verify (eccTouchAll s [(a, n)]) img
    let words : List Word := [word r.1, word (imgClass img), word (imgTarget img), imgVersion img]
    if r.1 ≠ 0 then (4, words, r.2)
    else if imgClass img = 4 then (0, words, r.2)
    else (0, words, setStaged r.2 (imgClass img) (imgTarget img) (some ⟨a, n, imgDigest img, imgVersion img⟩))

/-- Class and target of a request's word 1, and its form. -/
def mbClass (ws : List Word) : Nat := fld (mbw ws 1) 0 4
def mbTarget (ws : List Word) : Nat := fld (mbw ws 1) 8 8
def mbClassBad (ws : List Word) (boot : Bool) : Bool :=
  decide (fld (mbw ws 1) 4 4 ≠ 0) || decide (fld (mbw ws 1) (if boot then 17 else 16) (if boot then 15 else 16) ≠ 0)
  || decide (mbClass ws = 0) || decide (3 < mbClass ws) || !imgTargetOk (mbClass ws) (mbTarget ws)

/-- The slot that the boot record in force does not name. -/
def idleSlot (s : State) : Nat :=
  match nvBest s nvBootA nvBootB 0x13 with
  | some b => 1 - leAt b.payload 0 1 % 2
  | none => 0

/-- IMG_STORE: the staged image is stored; one of class 1 in the slot that is not active. -/
def mbImgStore (s : State) (ws : List Word) (nv : Bool) : Ans :=
  let cls := mbClass ws
  let target := mbTarget ws
  if mbClassBad ws true then mbFail s 2
  else if mbHbm s = false then mbFail s 3
  else match stagedAt s cls target with
    | none => mbFail s 3
    | some g =>
      let s := eccTouchAll s [(g.addr, g.len)]
      if hbmReadOk s g.addr g.len = false then mbFail s 6
      else if stagedWhole s g = false then (4, [7], raise s .sec 0)
      else if nv = false then mbNvFail s
      else
        let img := memBytes s g.addr g.len
        if cls = 1 then
          let slot := idleSlot s
          let seq := nvNext (nvGet s (nvCp slot) 0x14)
          let t := nvPut s (nvCp slot) ⟨0x14, 1, seq, img⟩
          (0, [seq], if bitOf (mbw ws 1) 16 then nvWrite2 t nvBootA nvBootB 0x13 1 (leBytes 4 slot) else t)
        else
          let b := nvImageBanks cls target
          (0, [nvNext (nvBest s b.1 b.2 0x14)], nvWrite2 s b.1 b.2 0x14 1 img)

def mbImgClear (s : State) (ws : List Word) : Ans :=
  if mbClassBad ws false then mbFail s 2 else (0, [], setStaged s (mbClass ws) (mbTarget ws) none)

/-! ## Handover and helpers (R552, R571) -/

def mbHandover (s : State) (ws : List Word) : Ans :=
  if fld (mbw ws 1) 2 30 ≠ 0 then mbFail s 2
  else if s.cpm.ho ≠ 0 then mbFail s 3
  else (0, [], setCpm s { s.cpm with ho := 1, hoSrc := if bitOf (mbw ws 1) 0 then b2n (bitOf (mbw ws 1) 1) else 2 })

/-- HELPER_UPDATE: the response waits for the self-check. -/
def mbHelper (s : State) (ws : List Word) : Ans ⊕ State :=
  let h := fld (mbw ws 1) 0 5
  if fld (mbw ws 1) 5 27 ≠ 0 ∨ 23 ≤ h ∨ islandPresent s.part (hlpIsland h) = false then .inl (mbFail s 2)
  else if hlpMayUpdate s h = false then .inl (mbFail s 3)
  else
    let t := hlpUpdate s h
    .inr (setCpm t { t.cpm with rspHelper := some h })

/-! ## Settings and signed commands (R559 to R562, R569) -/

/-- The settings payload's reserved bits are 0, and the MAC base's low bits. -/
def settingsOk (p : List Word) : Bool :=
  let w (i : Nat) : Word := p.getD i 0
  decide (fld (w 0) 1 31 = 0) && decide (fld (w 2) 1 31 = 0) && decide (fld (w 3) 0 4 = 0) && decide (fld (w 4) 16 16 = 0)
  && decide (fld (w 5) 18 13 = 0) && decide (fld (w 6) 1 31 = 0) && decide (w 7 = 0)

def mbSettingsWrite (s : State) (ws : List Word) (nv : Bool) : Ans :=
  let p := (ws.drop 1).take 8
  if settingsOk p = false then mbFail s 2
  else if nv = false then mbNvFail s
  else
    let seq := nvNext (nvBest s nvSetA nvSetB 0x10)
    let t := nvWrite2 s nvSetA nvSetB 0x10 settingsVersion (bytesOfWords p)
    (0, [seq], setLevel (setCpm t { t.cpm with settings := p, newer := false }) .cpm 8 false)

/-- A blob's fields (R561). -/
def blobKind (b : List Byte) : Nat := leAt b 1 1
def blobLen (b : List Byte) : Nat := leAt b 4 4
def blobBody (b : List Byte) : List Byte := slice b 0x60 (blobLen b)

/-- The steps of R556 that apply to a blob, and those of R561: the detail at which it fails; 0 where it passes. -/
def blobDetail (s : State) (b : List Byte) : Nat :=
  let n := blobLen b
  if b.length < 0x60 ∨ leAt b 0 1 ≠ 1 ∨ blobKind b = 0 ∨ 4 < blobKind b ∨ n < 4 ∨ 256 < n ∨ b.length ≠ 0x60 + n + 114
     ∨ zeroAt b 3 1 = false ∨ zeroAt b 0x59 7 = false then 1
  else if keyUsable s (leAt b 2 1) = false then 3
  else if some (Config.shake256 (slice b 0x20 57) 64) ≠ keySlot s (leAt b 2 1) then 4
  else if leAt b 8 8 ≠ Config.deviceId.toNat
          ∨ (List.range 4).any (fun k => decide (word (leAt b (0x10 + 4 * k) 4) ≠ nonceWord s k)) = true then 9
  else if Config.ed448Verify (slice b 0x20 57) (b.take (0x60 + n)) (slice b (0x60 + n) 114) = false then 8
  else 0

/-- Usable root-key slots. -/
def usableKeys (s : State) : List Nat := (List.range 4).filter (keyUsable s)

def setLast (s : State) (v : Lasting) : State := { s with last := v }

/-- POLICY: the body's limits are judged, and the blob is stored and in force. -/
def polCmd (s : State) (b : List Byte) (nv : Bool) : Ans :=
  let p := policyOf (blobBody b)
  if blobLen b < 9 ∨ policyOk p = false then mbFail s 2
  else if nv = false then mbNvFail s
  else
    let seq := nvNext (nvBest s nvPolA nvPolB 0x11)
    let t := nvWrite2 s nvPolA nvPolB 0x11 1 b
    (0, [0], setCpm t { t.cpm with policy := p, policySeq := BitVec.ofNat 16 seq.toNat })

/-- KEY_ENROLL: slots 1 to 3, and never one that is programmed (R559). -/
def enrollCmd (s : State) (b : List Byte) : Ans :=
  let k := leAt (blobBody b) 0 1
  if blobLen b < 65 ∨ 4 ≤ k then mbFail s 2
  else if (keySlot s k).isSome then mbFail s 3
  else
    let t := setLast s { s.last with keys := mapSet (fun _ => none) s.last.keys k (some (slice (blobBody b) 1 64)) }
    (0, [0], raise t .sec 1)

/-- KEY_REVOKE. -/
def revokeCmd (s : State) (b : List Byte) : Ans :=
  let k := leAt (blobBody b) 0 1
  if 4 ≤ k then mbFail s 2
  else if (usableKeys s).all (fun j => decide (j = k)) then (4, [11], raise s .sec 0)
  else
    let t := setLast s { s.last with revoked := if s.last.revoked.contains k then s.last.revoked else k :: s.last.revoked }
    (0, [0], raise t .sec 1)

/-- SVN_ADVANCE: a value at or below the present count has no effect. -/
def svnCmd (s : State) (b : List Byte) : Ans :=
  let c := leAt (blobBody b) 0 1
  let v := leAt (blobBody b) 1 1
  if c = 0 ∨ 4 < c ∨ 32 < v then mbFail s 2
  else (0, [0], setLast s { s.last with svn := mapSet (fun _ => 0) s.last.svn c (max v (minSvn s c)) })

/-- SIGNED_CMD: the blob is checked and acts by its kind; the nonce then takes a fresh value. -/
def mbSigned (s : State) (ws : List Word) (nv : Bool) : Ans :=
  let a := mbAddr ws 1
  let n := (mbw ws 3).toNat
  let fresh (r : Ans) : Ans :=
    let t := r.2.2
    (r.1, r.2.1, { t with cpm := { t.cpm with nonce := t.free }, free := t.free + 4 })
  if mbAddrBad ws 1 then fresh (mbFail s 2)
  else if mbHbm s = false then fresh (mbFail s 3)
  else if 0x60 + 256 + 114 < n then fresh (4, [1], raise s .sec 0)
  else if hbmReadOk s a n = false then fresh (mbFail (eccTouchAll s [(a, n)]) 6)
  else
    let s := eccTouchAll s [(a, n)]
    let b := memBytes s a n
    let d := blobDetail s b
    fresh (if d ≠ 0 then (4, [word d], raise s .sec 0)
      else match blobKind b with
        | 1 => polCmd s b nv
        | 2 => enrollCmd s b
        | 3 => revokeCmd s b
        | _ => svnCmd s b)

/-! ## Attestation (R563, R564) -/

/-- Bytes 0x000 to 0x1BF of a report. -/
def attestBody (s : State) (nonce : List Word) : List Byte :=
  let w (x : Word) : List Byte := leBytes 4 x.toNat
  let t := now16 s
  let secs := stampSec t
  w 1 ++ w (pidOf .glb) ++ w (pcapOf s .glb) ++ w (word (sdnOf s)) ++ leBytes 8 Config.deviceId.toNat ++ bytesOfWords nonce
  ++ w (word (stampNs t)) ++ w (word secs) ++ w (word (secs / 2 ^ 32 % 2 ^ 16 + stampFrac t * 2 ^ 16))
  ++ w (keyStat s) ++ w (minSvnWord s) ++ w (word (b2n s.cpm.debug + s.cpm.policySeq.toNat * 2 ^ 16))
  ++ w s.cpm.ver ++ w (word s.cpm.svn)
  ++ (List.range 23).flatMap (fun h => w (hlpAt s h).ver) ++ (List.range 44).flatMap (fun k => w (imgVerOf s k))
  ++ List.replicate 0x1C 0 ++ (Config.attestKey ++ List.replicate 0x40 0).take 0x40

/-- The whole report, 640 bytes. -/
def attestReport (s : State) (nonce : List Word) : List Byte :=
  let b := attestBody s nonce
  (b ++ Config.ed448Sign b ++ List.replicate 192 0).take 640

def mbAttest (s : State) (ws : List Word) : Ans :=
  let a := mbAddr ws 1
  if mbAddrBad ws 1 ∨ a % 64 ≠ 0 then mbFail s 2
  else if mbHbm s = false then mbFail s 3
  else if hbmOk s a 640 = false then mbFail s 6
  else (0, [], hbmPut s [(a, attestReport s ((ws.drop 3).take 8))])

/-! ## Campaigns (R573 to R575) -/

def mbCampArm (s : State) (ws : List Word) : Ans :=
  let a := mbAddr ws 1
  let n := (mbw ws 3).toNat
  if mbAddrBad ws 1 ∨ n = 0 ∨ 32 < n ∨ 999999999 < (mbw ws 4).toNat then mbFail s 2
  else if s.cpm.camp = 1 ∨ s.cpm.camp = 2 ∨ mbHbm s = false then mbFail s 3
  else if hbmReadOk s a (16 * n) = false then mbFail (eccTouchAll s [(a, 16 * n)]) 6
  else
    let s := eccTouchAll s [(a, 16 * n)]
    let s := setCpm s { s.cpm with camp := 1, campSec := (mbw ws 5).toNat, campNs := (mbw ws 4).toNat }
    let es := (List.range n).map (fun i => campArmEntry s (campTime s) (memWords s (a + 16 * i) 4))
    (0, [], campCheck (es.foldl campRefuse (setCpm s { s.cpm with entries := es })))

/-- An entry's state word (R574). -/
def campWord (e : CampEntry) : Word := word (e.st + e.code * 2 ^ 8)

def mbCampStatus (s : State) : Ans :=
  (0, (List.range 32).map (fun i => match s.cpm.entries[i]? with
    | some e => campWord e
    | none => 0), s)

def mbCampCancel (s : State) : Ans :=
  (0, [], if s.cpm.camp = 1 ∨ s.cpm.camp = 2 then
      campCheck (setCpm s { s.cpm with entries := s.cpm.entries.map (fun e => if e.st = 0 then { e with st := 2, code := 6 } else e) })
    else s)

/-! ## Ensign (R235 to R237) -/

/-- The lamps of the enabled rings of a region: valid contexts within each range. -/
def ensignLamps (s : State) (g : Nat) (rings : List (Nat × Nat × Nat)) : Nat :=
  rings.foldl (fun (n : Nat) (r : Nat × Nat × Nat) =>
    ((List.range 192).filter (fun m => decide (r.2.1 ≤ m) && decide (m ≤ r.2.2))).foldl (fun (n : Nat) m =>
      let c := ctxWords s.geom.ctx (ctxNum (16 * g + r.1) m)
      if cValid c then n + tLamps (typeCfg s (cType c)) else n) n) 0

/-- The enabled rings of a request: ring, first module, last module. -/
def ensignRings (ws : List Word) : List (Nat × Nat × Nat) :=
  (List.range 16).filterMap (fun i =>
    let w := mbw ws (2 + i)
    if bitOf w 0 then some (i, fld w 8 8, fld w 16 8) else none)

/-- What an ENSIGN command will change when it completes (R237). -/
def ensNext (s : State) (u : EnsUpd) : State := { s with ens := { s.ens with next := some u } }

/-- The ENSIGN command that has been carried out completes: from now on the renderer's snapshots have it (R237). -/
def ensTake (s : State) : State :=
  let e := { s.ens with next := none, changed := true }
  match s.ens.next with
  | none => s
  | some (.region g r) => { s with ens := { e with group := some g, rings := r } }
  | some (.palette m) => { s with ens := { e with palette := m } }
  | some (.store m) => { s with ens := { e with store := m } }

def mbEnsRegion (s : State) (ws : List Word) : Ans :=
  let g := fld (mbw ws 1) 0 4
  let rings := ensignRings ws
  if fld (mbw ws 1) 4 28 ≠ 0 ∨ groupCount s.part ≤ g
     ∨ (List.range 16).any (fun i => decide (fld (mbw ws (2 + i)) 1 7 ≠ 0) || decide (fld (mbw ws (2 + i)) 24 8 ≠ 0)) = true
     ∨ rings.any (fun r => decide (r.2.2 < r.2.1) || decide (192 ≤ r.2.2)) = true then mbFail s 2
  else if islandUp s islFab = false then mbFail s 3
  else
    let n := ensignLamps s g rings
    if 2097152 < n then mbFail s 5
    else
      let m := rings.foldl (fun (m : AMap (Option (Nat × Nat))) (r : Nat × Nat × Nat) => mapSet (fun _ => none) m r.1 (some r.2)) []
      (0, [word n], ensNext s (.region g m))

def mbEnsPalette (s : State) (ws : List Word) : Ans :=
  if (List.range 16).any (fun k => decide (fld (mbw ws (2 + 2 * k)) 16 16 ≠ 0)) then mbFail s 2
  else
    let p := (List.range 16).foldl (fun (m : AMap Nat) k =>
      mapSet (fun _ => 0) m k ((mbw ws (1 + 2 * k)).toNat + fld (mbw ws (2 + 2 * k)) 0 16 * 2 ^ 32)) s.ens.palette
    (0, [], ensNext s (.palette p))

def mbEnsLoad (s : State) (ws : List Word) : Ans :=
  let a := mbAddr ws 1
  let first := (mbw ws 3).toNat
  let n := (mbw ws 4).toNat
  if mbAddrBad ws 1 ∨ first % 2 ≠ 0 ∨ n % 2 ≠ 0 then mbFail s 2
  else if mbHbm s = false then mbFail s 3
  else if 2097152 < first + n then mbFail s 5
  else if hbmReadOk s a (n / 2) = false then mbFail (eccTouchAll s [(a, n / 2)]) 6
  else
    let s := eccTouchAll s [(a, n / 2)]
    let store := (memBytes s a (n / 2)).zipIdx.foldl (fun (m : AMap Byte) (x : Byte × Nat) =>
      mapSet (fun _ => 0) m (first / 2 + x.2) x.1) s.ens.store
    (0, [], ensNext s (.store store))

/-! ## The mailbox (R565, R602) -/

/-- Request words of each opcode. -/
def mbLen (op : Nat) : Option Nat :=
  match op with
  | 0x01 | 0x20 | 0x31 | 0x41 | 0x42 => some 0
  | 0x10 | 0x22 => some 3
  | 0x11 | 0x12 | 0x13 | 0x14 => some 1
  | 0x21 => some 8
  | 0x30 => some 10
  | 0x40 => some 5
  | 0x50 => some 17
  | 0x51 => some 32
  | 0x52 => some 4
  | _ => none

/-- The answer of a request; none where it comes later. -/
def mbAnswer (s : State) (ws : List Word) (nv : Bool) : Ans ⊕ State :=
  let op := fld (mbw ws 0) 0 16
  if mbLen op ≠ some (fld (mbw ws 0) 16 8) then .inl (mbFail s 1)
  else match op with
    | 0x01 => .inl (mbGetInfo s)
    | 0x10 => .inl (mbImgStage s ws)
    | 0x11 => .inl (mbImgStore s ws nv)
    | 0x12 => .inl (mbImgClear s ws)
    | 0x13 => .inl (mbHandover s ws)
    | 0x14 => mbHelper s ws
    | 0x20 => .inl (0, s.cpm.settings, s)
    | 0x21 => .inl (mbSettingsWrite s ws nv)
    | 0x22 => .inl (mbSigned s ws nv)
    | 0x30 => .inl (mbAttest s ws)
    | 0x31 => .inl (mbLifetime s)
    | 0x40 => .inl (mbCampArm s ws)
    | 0x41 => .inl (mbCampStatus s)
    | 0x42 => .inl (mbCampCancel s)
    | 0x50 => .inl (mbEnsRegion s ws)
    | 0x51 => .inl (mbEnsPalette s ws)
    | _ => .inl (mbEnsLoad s ws)

/-- Carries out a request; its response waits to be shown. -/
def mbTake (s : State) (ws : List Word) (nv : Bool) : State :=
  match mbAnswer s ws nv with
  | .inl a =>
    let t := a.2.2
    setCpm t { t.cpm with rsp := some (word (a.1 + a.2.1.length * 2 ^ 8 + fld (mbw ws 0) 24 8 * 2 ^ 24) :: a.2.1) }
  | .inr t => t

/-- The firmware takes commands: its settings are migrated, and it is not being switched (R571, R602). -/
def cpReady (s : State) : Bool := s.cpm.up && s.cpm.migrated && decide (s.cpm.ho ≠ 3)

/-- MB_CTRL.go: a go written while busy is discarded; a command that the firmware cannot yet take is held. -/
def mbGo (s : State) (nv : Bool) : State :=
  if s.cpm.busy then s
  else
    let ws := (List.range 64).map (fun i => reg s .cpm (Off.CPM_MB_REQ + 4 * i))
    let s := setCpm s { s.cpm with busy := true, timedOut := false, tag := fld (mbw ws 0) 24 8, rsp := none, rspHelper := none }
    if cpReady s then mbTake s ws nv else setCpm s { s.cpm with req := some (ws, nv) }

/-- The commands held are carried out; one that has timed out may be, and its response is discarded (R565). -/
def mbHeld (s : State) : State :=
  let s := match s.cpm.late with
    | none => s
    | some q =>
      let d := draw (setCpm s { s.cpm with late := none })
      if Config.freeBool d.1 then
        let t := ensTake (mbTake d.2 q.1 q.2)
        setCpm t { t.cpm with rsp := none, rspHelper := none }
      else d.2
  match s.cpm.req with
  | some q => mbTake (setCpm s { s.cpm with req := none }) q.1 q.2
  | none => s

/-- A command of the mailbox: the request is written, then go. -/
def mbCmd (s : State) (op : Nat) (body : List Word) (tag : BitVec 8) (nv : Bool) : State :=
  if pageUp s .cpm = false then s
  else
    let ws := word (op + body.length * 2 ^ 16 + tag.toNat * 2 ^ 24) :: body
    mbGo (ws.zipIdx.foldl (fun (t : State) (x : Word × Nat) => setReg t .cpm (Off.CPM_MB_REQ + 4 * x.2) x.1) s) nv

/-- The two words of an HBM address. -/
def mbAddrWords (a : BitVec 35) : List Word := [word a.toNat, word (a.toNat / 2 ^ 32)]

/-- R565. -/
def execGetInfo (tag : BitVec 8) (s : State) : Res := done (mbCmd s 0x01 [] tag true)

/-- R556, R565. -/
def execImgStage (a : BitVec 35) (n : Word) (tag : BitVec 8) (s : State) : Res :=
  done (mbCmd s 0x10 (mbAddrWords a ++ [n]) tag true)

/-- R565 to R568. -/
def execImgStore (cls : Fin 16) (target : BitVec 8) (boot : Bool) (tag : BitVec 8) (nv : Bool) (s : State) : Res :=
  done (mbCmd s 0x11 [word (cls.val + target.toNat * 2 ^ 8 + b2n boot * 2 ^ 16)] tag nv)

/-- R556, R565. -/
def execImgClear (cls : Fin 16) (target tag : BitVec 8) (s : State) : Res :=
  done (mbCmd s 0x12 [word (cls.val + target.toNat * 2 ^ 8)] tag true)

/-- R571. -/
def execCpHandover (nvm slot : Bool) (tag : BitVec 8) (s : State) : Res :=
  done (mbCmd s 0x13 [word (b2n nvm + b2n slot * 2)] tag true)

/-- R552. -/
def execHelperUpdate (h : Fin 32) (tag : BitVec 8) (s : State) : Res := done (mbCmd s 0x14 [word h.val] tag true)

/-- R565. -/
def execSettingsRead (tag : BitVec 8) (s : State) : Res := done (mbCmd s 0x20 [] tag true)

/-- R569. -/
def execSettingsWrite (p : List Word) (tag : BitVec 8) (nv : Bool) (s : State) : Res :=
  done (mbCmd s 0x21 ((p ++ List.replicate 8 0).take 8) tag nv)

/-- R561, R569: SIGNED_CMD of a blob whose kind is POLICY; the blob's own kind decides. -/
def execPolicy (a : BitVec 35) (n : Word) (tag : BitVec 8) (nv : Bool) (s : State) : Res :=
  done (mbCmd s 0x22 (mbAddrWords a ++ [n]) tag nv)

/-- R559, R561. -/
def execKeyEnroll (a : BitVec 35) (n : Word) (tag : BitVec 8) (s : State) : Res :=
  done (mbCmd s 0x22 (mbAddrWords a ++ [n]) tag true)

/-- R559, R561. -/
def execKeyRevoke (a : BitVec 35) (n : Word) (tag : BitVec 8) (s : State) : Res :=
  done (mbCmd s 0x22 (mbAddrWords a ++ [n]) tag true)

/-- R560, R561. -/
def execSvnAdvance (a : BitVec 35) (n : Word) (tag : BitVec 8) (s : State) : Res :=
  done (mbCmd s 0x22 (mbAddrWords a ++ [n]) tag true)

/-- R564. -/
def execAttest (a : BitVec 35) (nonce : List Word) (tag : BitVec 8) (s : State) : Res :=
  done (mbCmd s 0x30 (mbAddrWords a ++ (nonce ++ List.replicate 8 0).take 8) tag true)

/-- R576. -/
def execLifetimeRead (tag : BitVec 8) (s : State) : Res := done (mbCmd s 0x31 [] tag true)

/-- R573, R574. -/
def execCampaignArm (a : BitVec 35) (n ns sec : Word) (tag : BitVec 8) (s : State) : Res :=
  done (mbCmd s 0x40 (mbAddrWords a ++ [n, ns, sec]) tag true)

/-- R574. -/
def execCampaignStatus (tag : BitVec 8) (s : State) : Res := done (mbCmd s 0x41 [] tag true)

/-- R575. -/
def execCampaignCancel (tag : BitVec 8) (s : State) : Res := done (mbCmd s 0x42 [] tag true)

/-- R235. -/
def execEnsignRegion (g : Fin 16) (rings : List Word) (tag : BitVec 8) (s : State) : Res :=
  done (mbCmd s 0x50 (word g.val :: (rings ++ List.replicate 16 0).take 16) tag true)

/-- R236. -/
def execEnsignPalette (words : List Word) (tag : BitVec 8) (s : State) : Res :=
  done (mbCmd s 0x51 ((words ++ List.replicate 32 0).take 32) tag true)

/-- R236. -/
def execEnsignLoad (a : BitVec 35) (first lamps : Word) (tag : BitVec 8) (s : State) : Res :=
  done (mbCmd s 0x52 (mbAddrWords a ++ [first, lamps]) tag true)

/-- The response appears: MB_RSP, busy clears, MB_DONE. -/
def mbResponse (s : State) : State :=
  match s.cpm.rsp with
  | none => s
  | some ws =>
    let s := ws.zipIdx.foldl (fun (t : State) (x : Word × Nat) => setReg t .cpm (Off.CPM_MB_RSP + 4 * x.2) x.1) s
    ensTake (raise (setCpm s { s.cpm with busy := false, rsp := none }) .cpm 0)

/-- R565. -/
def execMbResponse (s : State) : Res := done (mbResponse s)

/-- MB_TMO has passed since the go: status 8; a response that is already there is taken (R87). -/
def mbTimeout (s : State) : State :=
  if s.cpm.busy = false then s
  else if s.cpm.rsp.isSome then mbResponse s
  else
    let s := setReg s .cpm Off.CPM_MB_RSP (word (8 + s.cpm.tag * 2 ^ 24))
    let late := match s.cpm.req with
      | some q => some q
      | none => s.cpm.late
    raise (setCpm s { s.cpm with busy := false, timedOut := true, req := none, late := late, rspHelper := none }) .cpm 1

/-- R565. -/
def execMbTimeout (s : State) : Res := done (mbTimeout s)

/-! ## The firmware's first start, and the end of SWITCH (R570, R571, R601, R602) -/

/-- Migration completes: SDN is written, the CTL helpers enter RUN, and the commands held are taken. -/
def cpMigrated (s : State) : State :=
  if s.cpm.up = false ∨ s.cpm.migrated = true then s
  else
    let s := migrate s
    let s := setReg s .sync Off.SYNC_SDN (word ((s.cpm.settings.getD 5 0).toNat &&& 0x8003FFFF))
    let s := calSeed s
    let s := ctlHelpers.foldl hlpLoad s
    mbHeld (setCpm s { s.cpm with migrated := true })

/-- R570. -/
def execSettingsMigration (s : State) : Res := done (cpMigrated s)

/-- The new image has control. -/
def hoSwitched (s : State) : State :=
  if s.cpm.ho ≠ 3 then s
  else
    let s := setCpm s { s.cpm with ho := 4, ver := s.cpm.hoVer, svn := s.cpm.hoSvn, half := !s.cpm.half, switched := true }
    mbHeld (setIsland s 1 { island s 1 with imgVer := s.cpm.hoVer })

/-- R571. -/
def execHandoverSwitchDone (s : State) : Res := done (hoSwitched s)

end Sys2Proof.Machine
end

