-- ==== Sys2Proof/Machine/Slots.lean ====
section
/-!
DEFINITION. The firing of schedule slots, and the audio islands' clock (spec/03_islands_and_weirs.md R71,
spec/04_time_and_sync.md R114 to R117).
-/
namespace Sys2Proof.Machine

/-! ## Slots (R114 to R117) -/

def gpioAt (s : State) (n : Nat) : Gpio := mapGet (fun _ => Gpio.initial) s.gpio n
def setGpio (s : State) (n : Nat) (v : Gpio) : State := { s with gpio := mapSet (fun _ => Gpio.initial) s.gpio n v }

/-- A slot's time has come (R114). -/
def slotDue (s : State) (k : Nat) : Bool := (slot s k).armed && decide (0 ≤ sinceTime s (slot s k).sec (slot s k).ns)

/-- What a slot's action does; `t` is the instant of its output edge, 2^-16 ns (R116). -/
def slotAct (s : State) (v : Slot) (t : Int) : State :=
  match v.action with
  | 1 => setGpio s v.target ⟨false, some (t + (v.width * 1000 * 2 ^ 16 : Nat)).toNat⟩
  | 2 => setGpio s v.target ⟨true, none⟩
  | 3 => setGpio s v.target ⟨false, none⟩
  | 4 => if h : v.target < 4 then (if pageUp s (.aud ⟨v.target, h⟩) then audStart s v.target else s) else s
  | 5 => if h : v.target < 4 then (if pageUp s (.cam ⟨v.target, h⟩) then trigStart s v.target else s) else s
  | _ => s

/-- The level a GPIO's output driver has at a time, 2^-16 ns. -/
def gpioLevel (s : State) (n t : Nat) : Bool :=
  (gpioAt s n).level || (match (gpioAt s n).pulseEnd with
    | some e => decide (t < e)
    | none => false)

/-- A slot of action 1, 2 or 3 owns its GPIO's output driver while armed (R116). -/
def gpioOwned (s : State) (n : Nat) : Bool :=
  s.slots.any (fun e => e.2.armed && decide (e.2.target = n) && decide (1 ≤ e.2.action) && decide (e.2.action ≤ 3))

/-- SLOT_PEND of slot k is set. -/
def slotPend (s : State) (k : Nat) : State :=
  let off := if k < 32 then Off.TIME_SLOT_PEND_LO else Off.TIME_SLOT_PEND_HI
  slotLevel (setReg s .time off (putBit (reg s .time off) (k % 32) true))

/-- Slot k fires: it acts, sets its SLOT_PEND bit, and disarms or moves on by its period; an arm whose time had passed, and a
slot that skips periods, is late (R115). -/
def slotFire (s : State) (k : Nat) : State :=
  let v := slot s k
  let since : Nat := (sinceTime s v.sec v.ns).toNat
  let one : Nat := v.period * 2 ^ 16
  let n : Nat := since / one + 1
  let late := v.past || (decide (v.period ≠ 0) && decide (1 < n))
  let edge : Int := if v.past then (now16 s : Int) else (now16 s : Int) - since
  let s := slotPend (slotAct s v edge) k
  let v := { v with late := v.late || late, past := false }
  let total := v.ns + n * v.period
  let v := if v.period = 0 then { v with armed := false }
    else { v with ns := total % nsPerSec, sec := (v.sec + total / nsPerSec) % 2 ^ 32 }
  raiseIf late .time 6 (setSlot s k v)

/-- R115: every armed slot whose time has come fires, the higher-numbered last. -/
def execSlotFire (s : State) : Res :=
  done ((List.range 64).foldl (fun (t : State) k => if slotDue s k then slotFire t k else t) s)

/-- A disarm; on the edge on which the slot is due it comes too late, and the slot fires first (R117). -/
def slotDisarm (s : State) (k : Nat) : State :=
  let s := if slotDue s k then slotFire s k else s
  setSlot s k { slot s k with armed := false }

/-- A write of SLOT_CTRL: its RW fields take the word, then arm, then disarm. -/
def writeSlotCtrl (s : State) (k : Nat) (v : Word) : State :=
  let s := writePlain s .time (Off.TIME_SLOT_CTRL + 16 * k) v
  let s := if bitOf v 0 then slotArm s k else s
  if bitOf v 1 then slotDisarm s k else s

/-- R114: SLOT_CTRL is written with arm, and with the action, target and width given. -/
def execSlotArm (k : Fin 64) (action target width : Nat) (s : State) : Res :=
  done (writeSlotCtrl s k.val (BitVec.ofNat 32 (1 + action % 8 * 4 + target % 16 * 256 + width % 256 * 65536)))

/-- R117: SLOT_CTRL is written with disarm, the other fields as they stand. -/
def execSlotDisarm (k : Fin 64) (s : State) : Res :=
  done (writeSlotCtrl s k.val (reg s .time (Off.TIME_SLOT_CTRL + 16 * k.val) ||| 2))

/-! ## The audio islands' clock (R71, R531) -/

/-- The clock of AUD a is lost: the follower PLL, which is AON's, enters holdover in every state of the island, and the port with it. -/
def abclkLoss (s : State) (a : Nat) : State :=
  islLevels (audHold (setIsland s (islAud a) { island s (islAud a) with holdover := true }) a)

def execAbclkLoss (a : Fin 4) (s : State) : Res := done (abclkLoss s a.val)

/-- ABCLKa is back within its lock range. -/
def execAbclkRelock (a : Fin 4) (s : State) : Res :=
  let k := islAud a.val
  done (islLevels (setIsland s k { island s k with holdover := false }))

end Sys2Proof.Machine
end

