-- ==== Sys2Proof/Machine/ViewsA.lean ====
section
/-!
DEFINITION. What the read-only registers of the AON and CTL pages show: each view answers the words it computes from the
state, and `none` for a register that is stored (spec/02_register_pages.md R39 to R53, spec/03_islands_and_weirs.md R88,
spec/04_time_and_sync.md R119 to R122, spec/14_lamp_diagnostics.md R407, spec/21_firmware_and_update.md R577, R578,
spec/22_thermal_and_selfcal.md R595 to R599).
-/
namespace Sys2Proof.Machine

/-- The copy of a repeated register that an offset names. -/
def hit (off base stride n : Nat) : Option Nat :=
  if base ≤ off ∧ (off - base) % stride = 0 ∧ (off - base) / stride < n then some ((off - base) / stride) else none

/-- A word with bit i set where `p i` holds. -/
def maskWord (p : Nat → Bool) : Word :=
  word ((List.range 32).foldl (fun n i => n + b2n (p i) * 2 ^ i) 0)

/-- The word of a 64-bit mask: its low half, or its high half. -/
def maskHalf (hi : Bool) (p : Nat → Bool) : Word := maskWord (fun i => p (if hi then i + 32 else i))

/-- A rounded code of a fixed-point value with 8 more fraction bits than the register shows (log 32). -/
def by256 (x : Int) : Word := word (code 32 (halfEven x 256))

/-! ## The page header (R39, R46, R53) -/

/-- The bank that CMT_STAT, CMT_SEQ and CMT_FRAME show. -/
def viewBank (s : State) (p : Page) : Nat :=
  match domainOf p with
  | .banked => regF s p Off.HDR_CMT_CTRL 8 4
  | _ => 0

/-- CMT_FRAME: a pending commit's target, else the frame of the last application; local pages read 0 (R53, R58). The target of a
scheduled commit is the frame whose latch is the first at or after its time, or a later one whose close is the first to judge it: where it
was late, or after a held frame (R138). -/
def cmtFrame (s : State) (p : Page) (b : Nat) : Word :=
  let c := cslot s p b
  match commitGroup p b with
  | none => 0
  | some g => match c.pending with
    | some pd =>
      if pd.mode = 2 ∧ !pd.taken ∧ tgenRuns s g = true then
        let f := campFrame s g (dueTime s pd)
        if pd.seen = true ∧ frameGe pd.frame f = true then pd.frame else f
      else pd.frame
    | none => c.frame

/-- The header's read-only registers; the commit registers of a page without a commit domain read 0 (R39, R52). -/
def viewHdr (s : State) (p : Page) (off : Nat) : Option Word :=
  let c := cslot s p (viewBank s p)
  if off = Off.HDR_EV_RAW then some (evRaw s p)
  else if off = Off.HDR_EV_PEND then some (evPend s p)
  else if off = Off.HDR_EV_SET then some 0
  else if domainOf p = .none ∧ 0x40 ≤ off ∧ off ≤ 0x54 then some 0
  else if off = Off.HDR_CMT_STAT then
    some (word (b2n c.pending.isSome + b2n c.missed * 2 + b2n c.rejected * 4 + (match c.pending with
      | some pd => b2n pd.held * 8
      | none => 0)))
  else if off = Off.HDR_CMT_SEQ then some (word (c.armSeq.toNat + c.appliedSeq.toNat * 2 ^ 16))
  else if off = Off.HDR_CMT_FRAME then some (cmtFrame s p (viewBank s p))
  else none

/-! ## GLB and ISL (R51, R88) -/

/-- GLB. -/
def viewGlb (s : State) (off : Nat) : Option Word :=
  if off = Off.GLB_SUM_LO ∨ off = Off.GLB_SUM_HI then
    let gs := sumGroups s
    some (maskHalf (decide (off = Off.GLB_SUM_HI)) (fun k => gs.contains k))
  else if off = Off.GLB_VEC_IN_LO ∨ off = Off.GLB_VEC_IN_HI then
    let vs := vecInputs s
    some (maskHalf (decide (off = Off.GLB_VEC_IN_HI)) (fun k => vs.contains k))
  else if off = Off.GLB_EOI then some 0
  else match hit off Off.GLB_GSUM 4 16 with
    | some g => some (maskWord (fun i =>
        if i < 16 then summary s (bportPage (16 * g + i)) else if i = 16 then summary s (tgenPage g)
        else if i = 17 then summary s (engPage g) else if i = 18 then summary s (bgrpPage g) else false))
    | none => none

/-- ISL. -/
def viewIsl (s : State) (off : Nat) : Option Word :=
  if off = Off.ISL_DEAD_LO ∨ off = Off.ISL_DEAD_HI then
    some (maskHalf (decide (off = Off.ISL_DEAD_HI)) (fun k => decide (islState s k = .dead)))
  else if off = Off.ISL_PWR_SEQ then
    some (match s.pwrQueue with
      | [] => 0
      | k :: r => word (k + 2 ^ 8 + r.length * 2 ^ 16))
  else (hit off Off.ISL_ISTAT 4 44).map (istatOf s)

/-! ## TIME and SYNC (R119, R120, R122) -/

/-- TIME. -/
def viewTime (s : State) (off : Nat) : Option Word :=
  let t := s.time
  let p := t.ptp
  let now := now16 s
  if off = Off.TIME_NOW_SEC_LO then some (word (stampSec now))
  else if off = Off.TIME_NOW_SEC_HI then some (word (stampSec now / 2 ^ 32 % 2 ^ 16))
  else if off = Off.TIME_NOW_FRAC then some (word (stampFrac now))
  else if off = Off.TIME_TCTRL then some 0
  else if off = Off.TIME_UTC_OFF then some (word p.utcOff.toNat)
  else if off = Off.TIME_SRV_STAT then some (word t.srv)
  else if off = Off.TIME_SRV_OFFSET then some (by256 t.offset)
  else if off = Off.TIME_SRV_FREQ then some (by256 (fInForce s))
  else if off = Off.TIME_PTP_STAT then some (word (p.portState + p.activePort * 2 ^ 4 + b2n p.onStandby * 2 ^ 8))
  else if off = Off.TIME_PTP_MPD then some (by256 (ptpLeg s p.onStandby).mpd)
  else if off = Off.TIME_GM_ID_LO then some (word p.gmId.toNat)
  else if off = Off.TIME_GM_ID_HI then some (word (p.gmId.toNat / 2 ^ 32))
  else match hit off Off.TIME_SLOT_CTRL 16 64 with
    | some k => some (reg s .time off ||| word (b2n (slot s k).armed * 2 ^ 28 + b2n (slot s k).late * 2 ^ 29))
    | none => none

/-- SYNC: the trackers' status. -/
def viewSync (s : State) (off : Nat) : Option Word :=
  if 0x1C0 ≤ off ∨ off < 0x100 then none
  else
    let v := tracker s ((off - 0x100) / 0x40)
    let o := (off - 0x100) % 0x40 + 0x100
    if o = Off.SYNC_STAT then some (word v.st)
    else if o = Off.SYNC_PERIOD_NS then some (word (v.period / 2 ^ 16))
    else if o = Off.SYNC_PERIOD_FRAC then some (word (v.period % 2 ^ 16))
    else if o = Off.SYNC_EDGE_NS then some (word (stampNs (v.edge.getD 0)))
    else if o = Off.SYNC_EDGE_SEC then some (word (stampSec (v.edge.getD 0)))
    else if o = Off.SYNC_EDGE_FRAC then some (word (stampFrac (v.edge.getD 0)))
    else if o = Off.SYNC_PHASE_ERR then some (by256 v.phaseErr)
    else none

/-! ## CPM, SEC, THRM, CAL and DIAG (R407, R577, R578, R595 to R599) -/

/-- CPM. -/
def viewCpm (s : State) (off : Nat) : Option Word :=
  let c := s.cpm
  if off = Off.CPM_MB_CTRL then some 0
  else if off = Off.CPM_MB_STAT then some (word (b2n c.busy + b2n c.timedOut * 2))
  else if off = Off.CPM_CP_STAT then some (word (c.ho + b2n c.half * 16))
  else if off = Off.CPM_HO_INFO then some (word c.hoInfo)
  else if off = Off.CPM_CAMP_STAT then
    some (word (c.camp + (c.entries.filter (fun e => decide (e.st = 2))).length * 2 ^ 8))
  else match hit off Off.CPM_HLP_STAT 4 23, hit off Off.CPM_HLP_VER 4 23 with
    | some h, _ => some (word (hlpAt s h).st)
    | none, some h => some (hlpAt s h).ver
    | none, none => none

/-- SEC. -/
def viewSec (s : State) (off : Nat) : Option Word :=
  if off = Off.SEC_KEY_STAT then some (keyStat s)
  else if off = Off.SEC_MIN_SVN then some (minSvnWord s)
  else if off = Off.SEC_DEBUG then some (word (b2n s.cpm.debug))
  else if off = Off.SEC_POLICY_SEQ then some (word s.cpm.policySeq.toNat)
  else if off = Off.SEC_DEV_ID_LO then some (word Config.deviceId.toNat)
  else if off = Off.SEC_DEV_ID_HI then some (word (Config.deviceId.toNat / 2 ^ 32))
  else (hit off Off.SEC_NONCE 4 4).map (nonceWord s)

/-- THRM. -/
def viewThrm (s : State) (off : Nat) : Option Word :=
  let steps (lo : Nat) : Word := word ((List.range 8).foldl (fun n g => n + govStep s (lo + g) * 2 ^ (4 * g)) 0)
  if off = Off.THRM_TEMP_MAX then
    some (match tempMax s with
      | some (t, i) => word (code 16 t + i * 2 ^ 16)
      | none => 0)
  else if off = Off.THRM_LIMITS then
    let p := s.cpm.policy
    some (word (p.trip % 256 + p.hbmTrip % 256 * 2 ^ 8 + p.govMax % 256 * 2 ^ 16 + p.hbmGovMax % 256 * 2 ^ 24))
  else if off = Off.THRM_STEP_LO then some (steps 0)
  else if off = Off.THRM_STEP_HI then some (steps 8)
  else (hit off Off.THRM_TEMP 4 25).map (fun i =>
    let v := sensor s i
    word (code 16 v.temp + b2n (if i = 24 then hbmSensor s else v.valid) * 2 ^ 16 + b2n v.fault * 2 ^ 17))

/-- CAL. -/
def viewCal (s : State) (off : Nat) : Option Word :=
  if off = Off.CAL_CMD then some 0
  else if off = Off.CAL_STAT then
    some (word (b2n s.cal.busy + b2n s.calDone * 2 + b2n s.cal.saveBusy * 4 + s.cal.stepped * 2 ^ 8))
  else (hit off Off.CAL_LINE 4 43).map (fun k => word ((calLine s k).p + b2n (calLine s k).valid * 2 ^ 16))

/-- The valid bit of a base as it reads: the stored bit, and the base in order. -/
def validAs (w : Word) (ok : Bool) : Word := putBit w 31 (bitOf w 31 && ok)

/-- DIAG. -/
def viewDiag (s : State) (off : Nat) : Option Word :=
  let d := s.diag
  if off = Off.DIAG_FMAP_BASE_HI then some (validAs (reg s .diag off) (fmapValid s))
  else if off = Off.DIAG_FMAP_CMD then some 0
  else if off = Off.DIAG_FMAP_STAT then some (word (b2n d.cmd.isSome))
  else match hit off Off.DIAG_PRB_STAT 4 64 with
    | some i =>
      let g := i % 16
      some (if i < 16 then mapGet (fun _ => 0) d.prbStat g
        else if i < 32 then mapGet (fun _ => 0x8000) d.tempMax g
        else if i < 48 then mapGet (fun _ => 0) d.hot g
        else mapGet (fun _ => 0) d.staleRings g)
    | none => none

end Sys2Proof.Machine
end

