-- ==== Sys2Proof/Machine/ViewsB.lean ====
section
/-!
DEFINITION. What the read-only registers of the PGRP timing, FAB, RAY and MEDIA pages show (spec/05_output_timing.md R147,
R148, spec/06_layers_and_surfaces.md R178, R179, spec/07_ray_generation.md R205, R206, spec/08_ray_compositing.md R238,
R239, spec/09_prescaler.md R262, R263, spec/10_bamler_codec.md R292, R293, spec/11_lamp_correction.md R327 to R330,
spec/20_blitter.md R549).
-/
namespace Sys2Proof.Machine

/-! ## TGEN (R147, R148) -/

/-- A time in ns to 2^-16 ns (R127). -/
def held (t : Rat) : Nat := (held16 t).toNat

/-- The next scheduled latch, 0 while none is scheduled. -/
def nextOf (t : Tgen) : Rat :=
  match planOf t (t.cur + 1) with
  | some p => p.latch
  | none => if t.gen = .stopped then 0 else t.sched

/-- PHASE_ERR: the last latch minus the grid or tracker instant nearest to it (log 32). -/
def phaseErr (s : State) (g : Nat) : Word :=
  match gridOf s g with
  | some gr => let l := lastLatch (tgen s g)
    word (code 32 (ratHalfEven ((l - gridNear gr l) * 256)))
  | none => 0

/-- TGEN g. -/
def viewTgen (s : State) (g off : Nat) : Option Word :=
  let t := tgen s g
  if off = Off.TGEN_STAT then
    some (word (genCode t.gen + b2n t.req.isSome * 4 + b2n t.reqLate * 8 + srcState s g * 2 ^ 4 + b2n t.transition * 2 ^ 8
      + b2n t.realigning * 2 ^ 9
      + (List.range 4).foldl (fun n k => n + b2n (decide (shutOwner s k = some g)) * 2 ^ (16 + k)) 0
      + t.phase * 2 ^ 24 + b2n t.still * 2 ^ 26))
  else if off = Off.TGEN_LATCH_FRAME then some t.cur
  else if off = Off.TGEN_LATCH_NS then some (word (stampNs (held t.latch)))
  else if off = Off.TGEN_LATCH_SEC then some (word (stampSec (held t.latch)))
  else if off = Off.TGEN_LATCH_FRAC then some (word (stampFrac (held t.latch)))
  else if off = Off.TGEN_NEXT_NS then some (word (stampNs (held (nextOf t))))
  else if off = Off.TGEN_NEXT_SEC then some (word (stampSec (held (nextOf t))))
  else if off = Off.TGEN_PERIOD_NOW_NS then some (word (held t.period / 2 ^ 16))
  else if off = Off.TGEN_PERIOD_NOW_FRAC then some (word (held t.period % 2 ^ 16))
  else if off = Off.TGEN_PHASE_ERR then some (phaseErr s g)
  else none

/-! ## LAYR and GEOM (R178, R179, R205, R206) -/

/-- BUF_HOLD: the groups that hold a buffer, and the pre-scaler. -/
def holdWord (l : List Hold) : Word :=
  maskWord (fun i => l.any (fun h => match h with
    | .sel g => decide (g = i)
    | .frame g _ => decide (g = i)
    | .scal => decide (i = 16)))

/-- LAYR. -/
def viewLayr (s : State) (off : Nat) : Option Word :=
  let v := bufAt s (regF s .layr Off.LAYR_BUF_QUERY 0 14)
  if off = Off.LAYR_BUF_CMD then some 0
  else if off = Off.LAYR_BUF_TBL_BASE_HI then some (validAs (reg s .layr off) (bufTblValid s))
  else if off = Off.LAYR_LAYER_TBL_BASE_HI then some (validAs (reg s .layr off) (layerTblValid s))
  else if off = Off.LAYR_BUF_STATE then
    some (word (v.st + b2n v.freePending * 2 ^ 4 + v.ownerInst * 2 ^ 8 + v.ownerClass * 2 ^ 12))
  else if off = Off.LAYR_BUF_HOLD then some (holdWord v.holds)
  else if off = Off.LAYR_BUF_SEQ then some v.seq
  else if off = Off.LAYR_LUT_STAT then some (word (b2n s.layr.fill.isSome))
  else if off = Off.LAYR_ACTIVE_CNT then
    some (word ((List.range 16).foldl (fun n g => n + (layrBank s g).descs.length) 0
      + (List.range 16).foldl (fun n g => n + bankCount s g none) 0 * 2 ^ 16))
  else (hit off Off.LAYR_NR 4 64).map (fun i => mapGet (fun _ => 0) (layrBank s (i / 4)).nr (i % 4))

/-- GEOM; VIEW_Z is read through its own access. -/
def viewGeom (s : State) (off : Nat) : Option Word :=
  if off = Off.GEOM_TYPE_CFG then some (typeCfg s (typeSel s))
  else if off = Off.GEOM_TYPE_REFS then some (word (typeRefs s (typeSel s)))
  else if off = Off.GEOM_VIEW_XY then some (mapGet (fun _ => 0) s.geom.viewXY (viewKey s))
  else (hit off Off.GEOM_CTX_DATA 4 16).map (fun w =>
    let c := regF s .geom Off.GEOM_CTX_SEL 0 16
    if c < 49152 ∧ ctxPresent s c = true then ctxWord s c w else 0)

/-! ## RENG (R238, R239) -/

/-- RENG g. -/
def viewReng (s : State) (g off : Nat) : Option Word :=
  let v := eng s g
  if off = Off.RENG_DCAP_NOW then some (word (v.dcap + v.therm * 2 ^ 8))
  else if off = Off.RENG_STAT then some (word (b2n v.cur.isSome + b2n v.abandoned * 2 + v.phase * 2 ^ 4))
  else if off = Off.RENG_DONE_FRAME then some v.doneFrame
  else if off = Off.RENG_OLUT_STAT then
    some (word (b2n v.ofill.isSome + forceF s (engPage g) Off.RENG_OLUT_SEL 0 1 * 2))
  else none

/-! ## TRIM and FADE (R327 to R330) -/

/-- RGN_STAT. -/
def rgnStat (v : Rgn) : Word :=
  word (v.st + b2n v.queued.isSome * 2 ^ 4 + b2n v.missed * 2 ^ 5 + v.window * 2 ^ 8)

/-- TRIM. -/
def viewTrim (s : State) (off : Nat) : Option Word :=
  let t := s.trim
  if off = Off.TRIM_TBL_BASE_HI then some (validAs (reg s .trim off) (tblValid s))
  else if off = Off.TRIM_STAGE_BASE_HI then some (validAs (reg s .trim off) (stageValid s))
  else if off = Off.TRIM_WEAR_CTRL then some (putBit (reg s .trim off) 0 (wearEn s))
  else if off = Off.TRIM_WEAR_STAT then
    some (word (t.deferred % 2 ^ 16 + b2n (!t.wearBusy.isEmpty) * 2 ^ 16 + b2n t.ckpt.isSome * 2 ^ 17 + b2n t.ckptImg * 2 ^ 18))
  else if off = Off.TRIM_WEAR_HALF then
    some (maskWord (fun g => decide (g < 16) && mapGet (fun _ => false) t.half g))
  else if off = Off.TRIM_WEAR_SEC then some t.wearSec
  else if off = Off.TRIM_TP_STAT then
    some (word (b2n (tsetBusy s (regF s .trim Off.TRIM_TP_SEL 0 6) (regF s .trim Off.TRIM_TP_SEL 8 1))))
  else if off = Off.TRIM_UPD_CMD then some 0
  else match hit off Off.TRIM_RGN_STAT 16 64, hit off Off.TRIM_RGN_FRAME 4 64 with
    | some r, _ => some (rgnStat (rgn s r))
    | none, some r => some (rgn s r).frameT
    | none, none => none

/-- FADE. -/
def viewFade (s : State) (off : Nat) : Option Word :=
  if off = Off.FADE_MF_CMD then some 0
  else if off = Off.FADE_MF_STAT then some (word (b2n s.fade.masterRun))
  else (hit off Off.FADE_ATT 4 16).map (fun g =>
    let a := mapGet (fun _ => (0, 0)) s.fade.att g
    word (a.1 + a.2 * 2 ^ 16))

/-! ## SCAL, CODEC and BLIT (R262, R263, R292, R293, R549) -/

/-- SCAL; JOB_PROG is read in HostRead.lean. -/
def viewScal (s : State) (off : Nat) : Option Word :=
  let v := s.scal
  if off = Off.SCAL_STAT then
    some (word (b2n v.running.isSome + b2n (!v.queue.isEmpty && !v.queue.any (pairReady s)) * 2 + v.queue.length * 2 ^ 8))
  else if off = Off.SCAL_JOB_CMD then some 0
  else if off = Off.SCAL_COEF_BUSY then some (maskWord (fun b => decide (b < 8) && coefBusy s b))
  else none

/-- The pending entries of a queue of 2^n entries. -/
def queued (size head tail : Nat) : Nat := if size = 0 then 0 else (tail + size - head) % size

/-- CODEC c; CUR_BLOCKS is read in HostRead.lean. -/
def viewCodec (s : State) (c off : Nat) : Option Word :=
  let owned (hi used : Bool) : Word := if c = 0 then maskHalf hi (fun k =>
    let o := (stSlot s k).owner
    if used then decide (o ≠ 0) else decide (o = 1)) else 0
  if off = Off.CODEC_STAT then
    some (word (b2n (codecRun s c).isSome + b2n (decide (slotWait s c ≠ 0)) * 2
      + queued (cqSize s c) (cqHead s c) (cqTail s c) * 2 ^ 8))
  else if off = Off.CODEC_Q_BASE_HI then some (validAs (reg s (codecPage c) off) (cqValid s c))
  else if off = Off.CODEC_STATE_CMD then some 0
  else if off = Off.CODEC_STATE_RESULT then some (if c = 0 then reg s (codecPage c) off else 0)
  else if off = Off.CODEC_STATE_HOST_LO then some (owned false false)
  else if off = Off.CODEC_STATE_HOST_HI then some (owned true false)
  else if off = Off.CODEC_STATE_USED_LO then some (owned false true)
  else if off = Off.CODEC_STATE_USED_HI then some (owned true true)
  else none

/-- BLIT; ROWS of a running operation is read in HostRead.lean. -/
def viewBlit (s : State) (off : Nat) : Option Word :=
  if off = Off.BLIT_CTRL ∨ off = Off.BLIT_CMD then some 0
  else if off = Off.BLIT_STAT then some (word (b2n s.blit.run.isSome + s.blit.result * 2 ^ 4))
  else if off = Off.BLIT_ROWS then some (word s.blit.rows)
  else none

end Sys2Proof.Machine
end

