-- ==== Sys2Proof/Machine/ViewsC.lean ====
section
/-!
DEFINITION. What the read-only registers of the ring, memory, host, network, camera and audio pages show
(spec/12_bunting_physical.md R354, R356, spec/13_bunting_protocol.md R392, R394, spec/15_hbm_controller.md R437 to R444,
spec/16_host_and_scene_store.md R474 to R477, spec/17_network_ingest.md R499, R501, spec/18_camera_pipelines.md R521, R522,
spec/19_audio_ports.md R535).
-/
namespace Sys2Proof.Machine

/-! ## BPORT and BGRP (R354, R356, R392, R394) -/

/-- LINK_STAT; the capability bits stand once an enumeration has returned (R345). -/
def linkStat (r : Ring) : Word :=
  word (r.st + r.step * 2 ^ 4 + b2n r.rxLock * 2 ^ 7 + r.n * 2 ^ 8 + (if r.n = 0 then 0 else lowStep r) * 2 ^ 16
    + b2n (r.enumd && allIdle r) * 2 ^ 19 + b2n (r.enumd && allDeep r) * 2 ^ 20 + b2n r.cblUsed * 2 ^ 21)

/-- One half of MOD_RPT. -/
def modRpt (r : Ring) (m : Nat) : Nat :=
  let v := rptOf r m
  v.gen % 16 + b2n v.flagOk * 2 ^ 4 + b2n v.checkErr * 2 ^ 5 + b2n v.deltaMiss * 2 ^ 6 + b2n v.dark * 2 ^ 7
    + v.fwState * 2 ^ 8 + b2n v.penMissed * 2 ^ 11 + b2n (r.idMis.contains m) * 2 ^ 12
    + b2n (r.needFull.contains m) * 2 ^ 13 + b2n v.reported * 2 ^ 14

/-- A word of a module's enumeration record (R354). -/
def modWord (v : ModEnt) (k : Nat) : Word :=
  match k with
  | 0 => word v.ident
  | 1 => word (v.ident / 2 ^ 32)
  | 2 => word (v.maxStep + b2n v.idleCap * 2 ^ 3 + b2n v.deepCap * 2 ^ 4 + v.version * 2 ^ 8 + v.f * 2 ^ 16)
  | _ => word (v.hop % 2 ^ 24)

/-- BPORT p; RX_STAT is free. -/
def viewBport (s : State) (p off : Nat) : Option Word :=
  let r := ringAt s p
  let sel := regF s (bportPage p) Off.BPORT_RPT_SEL 0 8
  if off = Off.BPORT_LINK_CMD then some 0
  else if off = Off.BPORT_LINK_STAT then some (linkStat r)
  else if off = Off.BPORT_LOOP_DLY then some (word (r.rl % 2 ^ 24))
  else if off = Off.BPORT_TX_STAT then some (word (b2n r.txPending + (fld r.tx 0 12 + min (fld r.tx 12 2) (edgeLimit r.step) * 2 ^ 12) * 2 ^ 16))
  else if off = Off.BPORT_PEN_LEAD then some (word r.dp)
  else if off = Off.BPORT_LAST_PEN then
    some (word (r.vt % 256 + r.rep % 256 * 2 ^ 8 + r.penKind % 4 * 2 ^ 16 + r.penGen % 16 * 2 ^ 20))
  else if off = Off.BPORT_LAST_FRAME then some (r.penFrame.getD 0)
  else if off = Off.BPORT_FRAME_BLOCKS then some (word (r.frameBlocks % 2 ^ 24))
  else if off = Off.BPORT_RPT_FRAME then some (rptOf r sel).frame
  else if off = Off.BPORT_RPT_FW then some (word ((rptOf r sel).fwProg % 256 + (rptOf r sel).fwState * 2 ^ 8))
  else match hit off Off.BPORT_MOD_RPT 4 96, hit off Off.BPORT_MOD_ID_LO 4 768 with
    | some k, _ => some (word (modRpt r (2 * k) + modRpt r (2 * k + 1) * 2 ^ 16))
    | none, some i => some (modWord (modEnt r (i / 4)) (i % 4))
    | none, none => none

/-- BGRP g. -/
def viewBgrp (s : State) (g off : Nat) : Option Word :=
  let v := bgrpAt s g
  let cfg := force s (bgrpPage g) Off.BGRP_REF_CFG
  if off = Off.BGRP_REF_STAT then some (word (b2n v.pll + fld cfg 1 2 * 2 + fld cfg 0 1 * 8))
  else if off = Off.BGRP_RINGS_UP then some (maskWord (fun i => decide (i < 16) && ringUp s (16 * g + i)))
  else if off = Off.BGRP_GRP_CMD ∨ off = Off.BGRP_WD_CMD ∨ off = Off.BGRP_MFW_CMD then some 0
  else if off = Off.BGRP_WD_STAT then some (word (genOfFrame s g (tgen s g).closed))
  else if off = Off.BGRP_DGST_BASE_HI then some (validAs (reg s (bgrpPage g) off) (dgstValid s g))
  else if off = Off.BGRP_MFW_STAT then some (word (b2n v.relay.isSome + v.relayUnits * 2 ^ 4))
  else none

/-! ## FAB, HBM and HBMPC (R437, R440, R441, R444) -/

/-- The tags held in a Weir: requests queued or crossed and not yet answered. -/
def heldTags (s : State) (w : Nat) : List Nat := weirHeld (weirAt s w)

/-- FAB: of a RAY Weir's 96 tags the first 64 are the texel tags (R75; log 33). -/
def viewFab (s : State) (off : Nat) : Option Word :=
  let ray := (List.range 16).flatMap (heldTags s)
  if off = Off.FAB_TAG_RAY then
    some (word ((ray.filter (fun t => decide (t < 64))).length + ((ray.filter (fun t => decide (64 ≤ t))).length + ((List.range 16).map (fun g => trimReads (eng s g))).sum) * 2 ^ 16))
  else if off = Off.FAB_TAG_GEN then some (word (((List.range 21).flatMap (fun k => heldTags s (16 + k))).length))
  else if off = Off.FAB_PCQ_FULL then
    some (maskWord (fun n => decide (n < 16) && decide (128 ≤ (pcAt s n).queue.length)))
  else none

/-- HBM. -/
def viewHbm (s : State) (off : Nat) : Option Word :=
  let v := s.hbm
  if off = Off.HBM_STAT then
    some (word (b2n v.sr + b2n v.doubled * 2 + b2n ((List.range 8).any (fun c => (chanAt s c).retrain)) * 4
      + v.chanFailed % 256 * 2 ^ 8))
  else if off = Off.HBM_TEMP then some (word (code 8 v.temp + b2n v.tempValid * 2 ^ 8))
  else if off = Off.HBM_TRAIN_STAT then some (word (v.train + v.trainChan * 2 ^ 8 + b2n v.repaired * 2 ^ 16))
  else if off = Off.HBM_SCRUB_POS then some (word v.scrub)
  else if off = Off.HBM_INJ_CTRL then some (reg s .hbm off ||| word (b2n v.inj.isSome * 2 ^ 8))
  else none

/-- HBMPC n. -/
def viewHbmpc (s : State) (n off : Nat) : Option Word :=
  let v := pcAt s n
  if off = Off.HBMPC_QSTAT then
    some (word (v.queue.length % 256 + quotaCount v.queue 1 % 256 * 2 ^ 8 + quotaCount v.queue 2 % 256 * 2 ^ 16))
  else if off = Off.HBMPC_REF_STAT then some (word (code 6 v.owed))
  else if off = Off.HBMPC_LANE_STAT then some (word ((chanAt s (n / 2)).lanes % 16))
  else none

/-! ## PCIE and NVME (R474 to R477) -/

/-- PCIE. -/
def viewPcie (s : State) (off : Nat) : Option Word :=
  if off = Off.PCIE_REC_STAT then some (word s.recov.st)
  else if off = Off.PCIE_REC_CTRL ∨ off = Off.PCIE_REC_DATA then some 0
  else match hit off Off.PCIE_DB_SEQ 8 8, hit off Off.PCIE_DMA_STAT 32 4, hit off Off.PCIE_DMA_QB_HI 32 4 with
    | some _, _, _ => some 0
    | none, some c, _ =>
      some (word (b2n (dmaRun s c).isSome + queued (dmaSize s c) (dmaHead s c) (dmaTail s c) * 2 ^ 8))
    | none, none, some c => some (validAs (reg s .pcie off) (dmaValid s c))
    | none, none, none => none

/-- A status word of a stream (R476, R477): `k` counts words from STR_STAT. -/
def strWord (v : Stream) (k : Nat) : Word :=
  let up := v.chunks.filter (fun c => c.prom)
  match k with
  | 0 => word (v.st + b2n v.owed * 4 + v.slot.getD 0 * 2 ^ 8 + v.err * 2 ^ 16)
  | 1 => word v.proms
  | 2 => word v.pos
  | 3 => word (v.pos / 2 ^ 32 % 2 ^ 14)
  | 4 => word ((match up with
    | [] => 0
    | c :: _ => c.slot) + up.length * 2 ^ 8)
  | _ => v.frame

/-- NVME. -/
def viewNvme (s : State) (off : Nat) : Option Word :=
  if off = Off.NVME_REQ_CMD then some 0
  else if off = Off.NVME_REQ_STAT then
    some (word (b2n s.store.req.isSome + s.store.reqStatus * 2 ^ 4 + s.store.reqField * 2 ^ 16))
  else match hit off Off.NVME_DRV_STAT 4 16 with
    | some i =>
      let d := i / 4
      let v := drvAt s d
      some (match i % 4 with
        | 0 => word (v.st + v.speed * 2 ^ 4 + v.width * 2 ^ 8 + v.lbaLog2 * 2 ^ 12 + (drvCmds s d).length * 2 ^ 16)
        | 1 => word v.cap
        | 2 => word (v.cap / 2 ^ 32 % 2 ^ 16)
        | _ => 0)
    | none =>
      if off < Off.NVME_STR_CFG ∨ Off.NVME_STR_CFG + 64 * 32 ≤ off then none
      else
        let i := (off - Off.NVME_STR_CFG) / 64
        let o := Off.NVME_STR_CFG + (off - Off.NVME_STR_CFG) % 64
        if o = Off.NVME_STR_CMD then some 0
        else (hit o Off.NVME_STR_STAT 4 6).map (strWord (strAt s i))

/-! ## NET and FLOW (R499, R501) -/

/-- NET n. -/
def viewNet (s : State) (n off : Nat) : Option Word :=
  let v := portAt s n
  if off = Off.NET_PORT_STAT then
    some (word (b2n v.link + b2n v.align * 2 + b2n v.anDone * 4 + v.fec % 4 * 8))
  else none

/-- FL_STAT. -/
def flStat (v : Flow) : Word :=
  word (v.st + b2n v.signal * 4 + b2n v.legA * 8 + b2n v.legB * 16 + v.slot.getD 0 * 2 ^ 8 + v.startErr * 2 ^ 16
    + v.dropCause * 2 ^ 20)

/-- FLOW; the port mode is 0 for four ports of 100 Gb/s (R480). -/
def viewFlow (s : State) (off : Nat) : Option Word :=
  if off = Off.FLOW_PORT_MODE then some (word (b2n (!s.netMode4)))
  else if off = Off.FLOW_LBUF_USED then some (word (lbufUsed s))
  else match hit off Off.FLOW_FL_CMD 64 8, hit off Off.FLOW_FL_STAT 64 8, hit off Off.FLOW_FL_SEQ 64 8,
      hit off Off.FLOW_FL_RTP 64 8 with
    | some _, _, _, _ => some 0
    | none, some f, _, _ => some (flStat (flowAt s f))
    | none, none, some f, _ => some (flowAt s f).seq
    | none, none, none, some f => some (flowAt s f).rtp
    | none, none, none, none => none

/-! ## CAM and AUD (R521, R522, R535) -/

/-- CAM c. -/
def viewCam (s : State) (c off : Nat) : Option Word :=
  let v := camAt s c
  if off = Off.CAM_TRIG_CMD ∨ off = Off.CAM_SET_CMD then some 0
  else if off = Off.CAM_TRIG_SEQ then some v.trigSeq
  else if off = Off.CAM_SET_STAT then
    some (word (v.setId % 2 ^ 16 + b2n v.writing.isSome * 2 ^ 16 + b2n v.queued.isSome * 2 ^ 17 + v.failCode * 2 ^ 20))
  else if off = Off.CAM_RX_STAT then
    some (word ((if v.frame.isSome then 2 else if v.signal then 1 else 0) + b2n v.ulps * 4 + v.queue.length * 2 ^ 4))
  else none

/-- AUD a. -/
def viewAud (s : State) (a off : Nat) : Option Word :=
  let v := audAt s a
  let st := v.stamp.getD ⟨0, 0, false⟩
  if off = Off.AUD_CMD then some 0
  else if off = Off.AUD_STAT then some (word v.st)
  else if off = Off.AUD_POS then some v.pos
  else if off = Off.AUD_PERIOD then some (word v.period)
  else if off = Off.AUD_LAST_STAMP_NS then some (word (stampNs st.t + b2n st.predicted * 2 ^ 31))
  else if off = Off.AUD_LAST_STAMP_SEC then some (word (stampSec st.t))
  else if off = Off.AUD_LAST_STAMP_FRAC then some (word (stampFrac st.t))
  else if off = Off.AUD_RX_HW then some v.rxHw
  else if off = Off.AUD_TX_HW then some v.txHw
  else none

end Sys2Proof.Machine
end

