-- ==== Sys2Proof/Machine/HostRead.lean ====
section
/-!
DEFINITION. A host read of BAR0: where it is answered, what it captures, and the accesses that read an indexed port
(spec/00_scope.md R4, R6, spec/02_register_pages.md R35, R40, R50, R62 to R65, spec/04_time_and_sync.md R94).
-/
namespace Sys2Proof.Machine

/-- The host reaches the function: HOST is IDLE or RUN and the function is not in D3hot (R446). -/
def hostReach (s : State) : Bool := islandUp s islHost && !s.host.d3

/-- The read-only words of a page. -/
def viewPage (s : State) (p : Page) (off : Nat) : Option Word :=
  match p with
  | .glb => viewGlb s off
  | .isl => viewIsl s off
  | .cpm => viewCpm s off
  | .sec => viewSec s off
  | .time => viewTime s off
  | .sync => viewSync s off
  | .tgen g => viewTgen s g.val off
  | .layr => viewLayr s off
  | .geom => viewGeom s off
  | .reng g => viewReng s g.val off
  | .scal => viewScal s off
  | .codec c => viewCodec s c.val off
  | .trim => viewTrim s off
  | .fade => viewFade s off
  | .bport b => viewBport s b.val off
  | .bgrp g => viewBgrp s g.val off
  | .diag => viewDiag s off
  | .hbm => viewHbm s off
  | .hbmpc n => viewHbmpc s n.val off
  | .fab => viewFab s off
  | .pcie => viewPcie s off
  | .nvme => viewNvme s off
  | .net n => viewNet s n.val off
  | .flow => viewFlow s off
  | .cam c => viewCam s c.val off
  | .aud a => viewAud s a.val off
  | .blit => viewBlit s off
  | .thrm => viewThrm s off
  | .cal => viewCal s off

/-- What a register word reads as: a view, or the stored word; an RWS register shows the shadow of the bank that BANK_SEL
names (R14, R52). -/
def regView (s : State) (p : Page) (off : Nat) : Word :=
  match (if off < 0x80 then viewHdr s p off else viewPage s p off) with
  | some w => w
  | none => match regRow (kindOf p) off with
    | some r => if r.rws ≠ 0 then regBank s p (bankSel s p) off else reg s p off
    | none => 0

/-- A register that shows what no other state of the device fixes: the word is free within its field. -/
def freeView (s : State) (p : Page) (off : Nat) : Option (Nat → Word) :=
  match p with
  | .bport b => if off = Off.BPORT_RX_STAT then
      let cfg := reg s (.bport b) Off.BPORT_RX_CFG
      some (fun n => if bitOf cfg 0 then Config.freeWord n &&& 0xFFFFF
        else (Config.freeWord n &&& 0xFFFF) ||| word (fld cfg 4 4 * 2 ^ 16)) else none
  | _ => none

/-- The _LO registers of changing RO pairs whose _HI word follows at the next offset (R65). -/
def pairLo (p : Page) (off : Nat) : Bool :=
  match p with
  | .glb => decide (off = Off.GLB_SUM_LO) || decide (off = Off.GLB_VEC_IN_LO)
  | .isl => decide (off = Off.ISL_DEAD_LO)
  | .time => decide (off = Off.TIME_NOW_SEC_LO) || decide (off = Off.TIME_GM_ID_LO)
  | .reng _ => decide (off = Off.RENG_SIG_MIS_LO)
  | .codec _ => decide (off = Off.CODEC_STATE_HOST_LO) || decide (off = Off.CODEC_STATE_USED_LO)
  | .bport _ => (hit off Off.BPORT_MOD_ID_LO 16 192).isSome
  | .nvme => (hit off Off.NVME_DRV_CAP_LO 16 4).isSome || (hit off Off.NVME_STR_POS_LO 64 32).isSome
  | .net _ => decide (off = Off.NET_MAC_LO)
  | .thrm => decide (off = Off.THRM_STEP_LO)
  | _ => false

/-- Further words that a read captures (R94, R122, R147). -/
def capturesOf (p : Page) (off : Nat) : List Nat :=
  match p with
  | .sync =>
    match hit off Off.SYNC_EDGE_NS 0x40 3 with
    | some _ => [off + 4, off + 8]
    | none => []
  | .tgen _ =>
    if off = Off.TGEN_LATCH_FRAME then [Off.TGEN_LATCH_NS, Off.TGEN_LATCH_SEC, Off.TGEN_LATCH_FRAC]
    else if off = Off.TGEN_NEXT_NS then [Off.TGEN_NEXT_SEC] else []
  | _ => if pairLo p off then [off + 4] else []

/-- Captures the words that a read of a register takes with it. -/
def captureAll (s : State) (p : Page) (off : Nat) : State :=
  (capturesOf p off).foldl (fun (t : State) o => capture t p o (regView s p o).toNat) s

/-- A read that has an effect of its own: the indexed ports, the capturing reads of TIME, CAM, AUD and GLB.FLUSH, and what running work
shows of its progress. -/
def portRead (s : State) (p : Page) (off : Nat) : Option State :=
  match p with
  | .glb => if off = Off.GLB_FLUSH then some (flushRead s) else none
  | .time => if off = Off.TIME_NOW_NS then some (nowNsRead s) else none
  | .layr => if off = Off.LAYR_LUT_DATA then some (lutData s none) else none
  | .geom => if off = Off.GEOM_VIEW_Z then some (viewZAccess s none) else none
  | .reng g => if off = Off.RENG_OLUT_DATA then some (olutAccess s g.val none)
    else if off = Off.RENG_KERN_DATA then some (kernAccess s g.val none) else none
  | .scal => if off = Off.SCAL_JOB_PROG then some (jobProgRead s)
    else if off = Off.SCAL_PMAP_DATA then some (pmapAccess s none)
    else if off = Off.SCAL_COEF_DATA then some (coefAccess s none) else none
  | .codec c => if off = Off.CODEC_CUR_BLOCKS then some (curBlocksRead s c.val) else none
  | .blit => if off = Off.BLIT_ROWS then some (blitRowsRead s) else none
  | .trim => if off = Off.TRIM_TP_DATA then some (tpAccess s none) else none
  | .bport b => if off = Off.BPORT_CBL_DATA then some (cblAccess s b.val none) else none
  | .cam c => if off = Off.CAM_FR_SEQ then some (frSeqRead s c.val) else none
  | .aud a => if off = Off.AUD_LAST_STAMP_POS then some (lastStampRead s a.val) else none
  | _ => none

/-- A word returned to the host. -/
def answer (s : State) (w : Word) : State := { s with lastRead := w }

/-- A read of a register of a page that answers. -/
def pageRead (s : State) (p : Page) (off : Nat) : State :=
  match mapGet (fun _ => (none : Option Word)) s.captures (regKey p off 0) with
  | some w => answer { s with captures := mapSet (fun _ => none) s.captures (regKey p off 0) none } w
  | none =>
    match portRead s p off, freeView s p off with
    | some t, _ => t
    | none, some f => let (n, t) := draw s
                      answer t (f n)
    | none, none => answer (captureAll s p off) (regView s p off)

/-- The registers that AON serves for every present page (R40). -/
def aonRead (s : State) (p : Page) (off : Nat) : Option Word :=
  let k := islandOf p
  if off = Off.HDR_PID then some (pidOf p)
  else if off = Off.HDR_PCAP then some (pcapOf s p)
  else if off = Off.HDR_PISL then some (pislOf s p)
  else if off = Off.HDR_PSTATE then some (pstateOf s k)
  else if off = Off.HDR_PCTRL then some (pctrlOf s k)
  else if off = Off.HDR_IMG_VER then some (imgVerOf s k)
  else none

/-- A word of the MSI-X table or pending bit array (R50; the layout is PCI Express's, log 23). -/
def msixWord (s : State) (o : Nat) : Word :=
  if o < 0x400 then
    let v := o / 16
    match o % 16 / 4 with
    | 0 => mapGet (fun _ => 0) s.msix.addrLo v
    | 1 => mapGet (fun _ => 0) s.msix.addrHi v
    | 2 => mapGet (fun _ => 0) s.msix.data v
    | _ => word (b2n (!s.msix.unmasked.contains v))
  else if o = 0x1000 then maskHalf false (fun v => s.msix.pend.contains v)
  else if o = 0x1004 then maskHalf true (fun v => s.msix.pend.contains v)
  else 0

/-- An aligned 32-bit read of BAR0. -/
def bar0Read (s : State) (a : Nat) : State :=
  if a < 2 ^ 24 then
    match pageOfSlot (a / 4096) with
    | none => answer s 0
    | some p =>
      if pagePresent s p then
        match aonRead s p (a % 4096) with
        | some w => answer s w
        | none => if pageUp s p then pageRead s p (a % 4096) else answer s 0xFFFFFFFF
      else answer s 0
  else if a < 2 ^ 25 then answer s (msixWord s (a - 2 ^ 24))
  else if pageUp s .geom then answer s (meshWord s ((a - 2 ^ 25) / 16) ((a - 2 ^ 25) % 16 / 4))
  else answer s 0xFFFFFFFF

/-- A 64-bit read: the low word, then the high word, at one instant (R62, R65). -/
def wideRead (s : State) (a : Nat) : State :=
  let t := bar0Read s a
  let u := bar0Read t (a + 4)
  { u with lastRead := t.lastRead, lastReadHi := u.lastRead }

/-- All ones returned to the host. -/
def readNone (s : State) (wide : Bool) : State :=
  { s with lastRead := 0xFFFFFFFF, lastReadHi := if wide then 0xFFFFFFFF else s.lastReadHi }

/-- A host read of 32 bits, or of 64: an access error where it is misaligned (R62); all ones where the host is not reached. -/
def hostRead (s : State) (a : Nat) (wide : Bool) : State :=
  if hostReach s = false then readNone s wide
  else if a % (if wide then 8 else 4) ≠ 0 then readNone (raise s .glb 0) wide
  else if wide then wideRead s a
  else bar0Read s a

/-- R62, R65: a read of BAR0. -/
def execPairLoRead (r : BarRead) (s : State) : Res := done (hostRead s r.addr.toNat r.wide)

/-- R62: a misaligned or partial access. -/
def execAccessErr (_addr : BitVec 26) (isWrite : Bool) (s : State) : Res :=
  done (if hostReach s then
    let t := raise s .glb 0
    if isWrite then t else answer t 0xFFFFFFFF
  else if isWrite then s else answer s 0xFFFFFFFF)

end Sys2Proof.Machine
end

