-- ==== Sys2Proof/Machine/WritesA.lean ====
section
/-!
DEFINITION. Host writes to registers with a behaviour of their own, first half: GLB and MSI-X, TIME, CPM, FAB, RAY and MEDIA
pages. Each answers the state after the write, or `none` where the register has no behaviour of its own and the write takes
effect by its access code (R14).
-/
namespace Sys2Proof.Machine

/-- R50: a write of GLB.EOI sends the vector's message if its input is 1. -/
def glbEoi (s : State) (v : Word) : State :=
  let k := fld v 0 6
  if (vecInputs s).contains k then sendMsg s k else s

/-- R50. -/
def execGlbEoi (v : Word) (s : State) : Res := done (glbEoi s v)

/-- The host clears a vector's mask bit: a pending message is sent and its pending bit clears (R50). -/
def msixUnmask (s : State) (v : Nat) : State :=
  let m := s.msix
  let m := if m.unmasked.contains v then m else { m with unmasked := v :: m.unmasked }
  if m.pend.contains v && m.enable && !m.funcMask then
    { s with msix := { m with pend := m.pend.filter (fun x => decide (x ≠ v)), sent := v :: m.sent } }
  else { s with msix := m }

/-- R50. -/
def execMsixUnmask (v : Fin 64) (s : State) : Res := done (if islandUp s islHost then msixUnmask s v.val else s)

/-- A write to the MSI-X table; the pending bit array is read-only. -/
def msixWrite (s : State) (o : Nat) (w : Word) : State :=
  if 0x400 ≤ o then s
  else
    let v := o / 16
    let m := s.msix
    match o % 16 / 4 with
    | 0 => { s with msix := { m with addrLo := mapSet (fun _ => 0) m.addrLo v (w &&& 0xFFFFFFFC) } }
    | 1 => { s with msix := { m with addrHi := mapSet (fun _ => 0) m.addrHi v w } }
    | 2 => { s with msix := { m with data := mapSet (fun _ => 0) m.data v w } }
    | _ => if bitOf w 0 then { s with msix := { m with unmasked := m.unmasked.filter (fun x => decide (x ≠ v)) } }
           else msixUnmask s v

/-- R47: EV_PEND bits written as 1 clear, but for those that are set again on the same edge. -/
def pendClear (s : State) (p : Page) (v same : Word) : State := setPend s p (evPend s p &&& (~~~v ||| same))

/-- R47. -/
def execEvPendClear (p : Page) (v same : Word) (s : State) : Res :=
  done (onPage s p (fun (t : State) => pendClear t p v same))

/-- R47: a write to EV_SET. -/
def evSet (s : State) (p : Page) (v : Word) : State := setPend s p (evPend s p ||| (v &&& pageEvents p))

/-- R47. -/
def execEvSetWrite (p : Page) (v : Word) (s : State) : Res := done (onPage s p (fun (t : State) => evSet t p v))

/-- A write to a header register; PCTRL is served from AON (R40, R42, R46, R52). -/
def hdrWrite (s : State) (p : Page) (off : Nat) (v : Word) : Option State :=
  if off = Off.HDR_EV_EN then some (setReg s p off (v &&& pageEvents p))
  else if off = Off.HDR_EV_PEND then some (pendClear s p v 0)
  else if off = Off.HDR_EV_SET then some (evSet s p v)
  else if off = Off.HDR_CMT_CTRL then some (writeCmtCtrl s p v)
  else if domainOf p = .none ∧ 0x40 ≤ off ∧ off ≤ 0x54 then some s
  else none

/-- GLB. -/
def glbWrite (s : State) (off : Nat) (v : Word) : Option State :=
  if off = Off.GLB_EOI then some (glbEoi s v)
  else if off = Off.GLB_CMT_HOLD then some (cmtHoldWrite s v)
  else none

/-- CPM: go; whether a record's write to NVM succeeds is free (log 34). -/
def cpmWrite (s : State) (off : Nat) (v : Word) : Option State :=
  if off = Off.CPM_MB_CTRL then
    some (if bitOf v 0 then
      let (n, t) := draw s
      mbGo t (Config.freeBool n) else s)
  else none

/-- TIME. -/
def timeWrite (s : State) (off : Nat) (v : Word) : Option State :=
  if off = Off.TIME_TCTRL then some (writeTctrl s v)
  else if Off.TIME_SLOT_PEND_LO ≤ off ∧ off ≤ Off.TIME_SLOT_IE_HI then some (slotLevel (writePlain s .time off v))
  else (hit off Off.TIME_SLOT_CTRL 16 64).map (fun k => writeSlotCtrl s k v)

/-- TGEN g. -/
def tgenWrite (s : State) (g off : Nat) (v : Word) : Option State :=
  if off = Off.TGEN_GEN_CTRL then some (writeGenCtrl s g v) else none

/-- LAYR.BUF_CMD (R164). A reserved op is refused with result 1, whether or not BUF_TBL_BASE is valid: results 1 and 4 both fit where
it is not (DESIGN CHOICE, log 63). -/
def bufCmd (s : State) (v : Word) : State :=
  let b := fld v 0 14
  match fld v 16 4 with
  | 1 => hostClaim s b
  | 2 => hostReadyCmd s b
  | 3 => hostFree s b
  | _ => bufResult s 1

/-- LAYR. -/
def layrWrite (s : State) (off : Nat) (v : Word) : Option State :=
  if off = Off.LAYR_BUF_TBL_BASE_LO then some (layrBaseWrite s false false v)
  else if off = Off.LAYR_BUF_TBL_BASE_HI then some (layrBaseWrite s false true v)
  else if off = Off.LAYR_LAYER_TBL_BASE_LO then some (layrBaseWrite s true false v)
  else if off = Off.LAYR_LAYER_TBL_BASE_HI then some (layrBaseWrite s true true v)
  else if off = Off.LAYR_BUF_CMD then some (bufCmd s v)
  else if off = Off.LAYR_LUT_CTRL then some (writeLutCtrl s v)
  else if off = Off.LAYR_LUT_DATA then some (lutData s (some v))
  else none

/-- GEOM. -/
def geomWrite (s : State) (off : Nat) (v : Word) : Option State :=
  if off = Off.GEOM_TYPE_CFG then some (typeCfgWrite s v)
  else if off = Off.GEOM_VIEW_XY then some (viewXYWrite s v)
  else if off = Off.GEOM_VIEW_Z then some (viewZAccess s (some v))
  else (hit off Off.GEOM_CTX_DATA 4 16).map (fun w => ctxDataWrite s w v)

/-- RENG g. -/
def rengWrite (s : State) (g off : Nat) (v : Word) : Option State :=
  if off = Off.RENG_OLUT_CTRL then some (writeOlutCtrl s g v)
  else if off = Off.RENG_OLUT_DATA then some (olutAccess s g (some v))
  else if off = Off.RENG_KERN_DATA then some (kernAccess s g (some v))
  else if off = Off.RENG_SIG_TRIP_LO then some (writeSigTrip s g false v)
  else if off = Off.RENG_SIG_TRIP_HI then some (writeSigTrip s g true v)
  else none

/-- SCAL. -/
def scalWrite (s : State) (off : Nat) (v : Word) : Option State :=
  if off = Off.SCAL_JOB_CMD then some (if bitOf v 16 then scalCmd s (fld v 0 12) (fld v 12 4) else s)
  else if off = Off.SCAL_PMAP_DATA then some (pmapAccess s (some v))
  else if off = Off.SCAL_COEF_DATA then some (coefAccess s (some v))
  else none

/-- CODEC c; how many blocks an aborted job has done is free (log 34). -/
def codecWrite (s : State) (c off : Nat) (v : Word) : Option State :=
  if off = Off.CODEC_CTRL then
    let t := writePlain s (codecPage c) off v
    some (if bitOf v 1 then
      let (n, u) := draw t
      codecAbort u c (Config.freeNat n) else t)
  else if off = Off.CODEC_Q_BASE_LO ∨ off = Off.CODEC_Q_BASE_HI ∨ off = Off.CODEC_Q_SIZE then some (codecCfgWrite s c off v)
  else if off = Off.CODEC_Q_TAIL then some (codecTailWrite s c v)
  else if off = Off.CODEC_STATE_CMD then
    some (if c ≠ 0 then s else match fld v 8 2 with
      | 1 => stateClaim s (fld v 0 6)
      | 2 => stateRelease s (fld v 0 6)
      | _ => s)
  else none

/-- TRIM. -/
def trimWrite (s : State) (off : Nat) (v : Word) : Option State :=
  if off = Off.TRIM_WEAR_CTRL then some (writeWearCtrl s v)
  else if off = Off.TRIM_TP_DATA then some (tpAccess s (some v))
  else if off = Off.TRIM_UPD_CMD then
    some (if bitOf v 16 then updCmd s (fld v 0 6) (fld v 8 2) (bitOf v 12) else s)
  else match hit off Off.TRIM_RGN_LO 16 64, hit off Off.TRIM_RGN_CNT 16 64, hit off Off.TRIM_RGN_CFG 16 64 with
    | some r, _, _ => some (rgnWrite s r 0 v)
    | none, some r, _ => some (rgnWrite s r 1 v)
    | none, none, some r => some (rgnWrite s r 2 v)
    | none, none, none => none

/-- FADE. -/
def fadeWrite (s : State) (off : Nat) (v : Word) : Option State :=
  if off = Off.FADE_MF_CMD then some (if bitOf v 0 then masterFadeGo s (bitOf v 1) else s) else none

/-- BLIT; how many rows an aborted operation has done is free (log 34). -/
def blitWrite (s : State) (off : Nat) (v : Word) : Option State :=
  if off = Off.BLIT_CTRL then
    some (if bitOf v 0 then
      let (n, t) := draw s
      blitAbort t (Config.freeNat n) else s)
  else if off = Off.BLIT_CMD then some (if bitOf v 0 then blitGo s else s)
  else none

end Sys2Proof.Machine
end

