-- ==== Sys2Proof/Machine/HostWrite.lean ====
section
/-!
DEFINITION. Host writes to registers with a behaviour of their own, second half, and the host write of BAR0: where it goes,
what it does by its access code, and what is discarded (spec/00_scope.md R4, R6, R14, spec/02_register_pages.md R35, R40,
R62).
-/
namespace Sys2Proof.Machine

/-- LINK_CFG: loopback takes a write only in DOWN (R354). -/
def linkCfgWrite (s : State) (p : Nat) (v : Word) : State :=
  let pg := bportPage p
  let v := if (ringAt s p).st = 0 then v else putBit v 7 (bitOf (reg s pg Off.BPORT_LINK_CFG) 7)
  ringLevels (writePlain s pg Off.BPORT_LINK_CFG v) p

/-- BPORT p. -/
def bportWrite (s : State) (p off : Nat) (v : Word) : Option State :=
  if off = Off.BPORT_LINK_CMD then some (writeLinkCmd s p v)
  else if off = Off.BPORT_LINK_CFG then some (linkCfgWrite s p v)
  else if off = Off.BPORT_CBL_DATA then some (cblAccess s p (some v))
  else if off = Off.BPORT_TX_CFG then some (txCfgWrite s p v)
  else none

/-- BGRP g; the relay's source, length and destination stand while it runs (R394). -/
def bgrpWrite (s : State) (g off : Nat) (v : Word) : Option State :=
  if off = Off.BGRP_GRP_CMD then some (grpCmd s g (fld v 16 4) (fld v 0 16))
  else if off = Off.BGRP_WD_CMD then some (if bitOf v 0 then withdrawCmd s g else s)
  else if off = Off.BGRP_MFW_CMD then some (writeMfwCmd s g v)
  else if Off.BGRP_MFW_SRC_LO ≤ off ∧ off ≤ Off.BGRP_MFW_DEST ∧ (bgrpAt s g).relay.isSome = true then some s
  else none

/-- DIAG; the fault map's place stands while it is enabled (R407). -/
def diagWrite (s : State) (off : Nat) (v : Word) : Option State :=
  if off = Off.DIAG_FMAP_CMD then some (if bitOf v 4 then fmapGo s (fld v 0 2) else s)
  else if Off.DIAG_FMAP_BASE_LO ≤ off ∧ off ≤ Off.DIAG_FMAP_LEN ∧ fmapEn s = true then some s
  else none

/-- HBM. -/
def hbmWrite (s : State) (off : Nat) (v : Word) : Option State :=
  if off = Off.HBM_INJ_CTRL then some (writeInjCtrl s v)
  else if off = Off.HBM_PWR_CFG then some (pwrCfgWrite s v) else none

/-- A write of DB_SEQ i waits for the posted writes before it (R451). -/
def bellWrite (s : State) (i : Nat) (seq : Word) : State :=
  setHost s { s.host with bells := s.host.bells ++ [(i, seq)] }

/-- REC_CTRL: enter with its key, then go (R472). -/
def recCtrl (s : State) (v : Word) : State :=
  let t := if bitOf v 0 then recEnter s (fld v 16 16) else s
  if bitOf v 1 then recGo t (bitOf v 2) else t

/-- PCIE. -/
def pcieWrite (s : State) (off : Nat) (v : Word) : Option State :=
  if off = Off.PCIE_REC_CTRL then some (recCtrl s v)
  else if off = Off.PCIE_REC_DATA then some (recData s v)
  else match hit off Off.PCIE_DB_SEQ 8 8 with
    | some i => some (bellWrite s i v)
    | none =>
      if off < Off.PCIE_DMA_CTRL ∨ Off.PCIE_DMA_CTRL + 128 ≤ off then none
      else
        let c := (off - Off.PCIE_DMA_CTRL) / 32
        let o := Off.PCIE_DMA_CTRL + (off - Off.PCIE_DMA_CTRL) % 32
        if o = Off.PCIE_DMA_CTRL then
          let t := writePlain s .pcie off v
          some (if bitOf v 1 then dmaAbort t c else t)
        else if o = Off.PCIE_DMA_QB_LO ∨ o = Off.PCIE_DMA_QB_HI ∨ o = Off.PCIE_DMA_QSIZE then some (dmaCfgWrite s c off v)
        else if o = Off.PCIE_DMA_QTAIL then some (dmaTailWrite s c v)
        else none

/-- STR_CMD, its bits in order (R466); new work needs HOST in RUN. -/
def strCmd (s : State) (i : Nat) (v : Word) : State :=
  let t := if bitOf v 0 && storeUp s then strStart s i else s
  let t := if bitOf v 1 then strStop t i else t
  let t := if bitOf v 2 && storeUp t then strBegin t i else t
  if bitOf v 3 then strConsume t i else t

/-- NVME; a running stream's settings stand (R477). -/
def nvmeWrite (s : State) (off : Nat) (v : Word) : Option State :=
  if off = Off.NVME_CTRL then some (driveEnable s v)
  else if off = Off.NVME_REQ_CMD then
    some (if bitOf v 8 && storeUp s then reqStart s (fld v 0 2) (fld v 4 2) else s)
  else if off < Off.NVME_STR_CFG ∨ Off.NVME_STR_CFG + 64 * 32 ≤ off then none
  else
    let i := (off - Off.NVME_STR_CFG) / 64
    let o := Off.NVME_STR_CFG + (off - Off.NVME_STR_CFG) % 64
    if o = Off.NVME_STR_CMD then some (strCmd s i v)
    else if (o ≤ Off.NVME_STR_STAGE_HI ∨ o = Off.NVME_STR_DEC) ∧ (strAt s i).st = 1 then some s
    else none

/-- FLOW: start, then stop (R485). -/
def flowWrite (s : State) (off : Nat) (v : Word) : Option State :=
  (hit off Off.FLOW_FL_CMD 64 8).map (fun f =>
    let t := if bitOf v 0 && islandRuns s islNet then flowStart s f else s
    if bitOf v 1 then flowStop t f else t)

/-- CAM c. -/
def camWrite (s : State) (c off : Nat) (v : Word) : Option State :=
  if off = Off.CAM_TRIG_CMD then
    let t := if bitOf v 0 then trigStart s c else s
    some (if bitOf v 1 then trigStop t c else t)
  else if off = Off.CAM_SET_CMD then some (if bitOf v 0 then setArm s c (bitOf v 1) else s)
  else none

/-- AUD a. -/
def audWrite (s : State) (a off : Nat) (v : Word) : Option State :=
  if off = Off.AUD_CMD then
    let t := if bitOf v 0 then audStart s a else s
    some (if bitOf v 1 then audStop t a else t)
  else none

/-- CAL: run, then save (R591, R594). -/
def calWrite (s : State) (off : Nat) (v : Word) : Option State :=
  if off = Off.CAL_CMD then
    let t := if bitOf v 0 then calRequest s else s
    some (if bitOf v 1 && hlpRun t 19 then calSave t else t)
  else none

/-- The behaviour of its own that a register of a page has. -/
def actWrite (s : State) (p : Page) (off : Nat) (v : Word) : Option State :=
  if off < 0x80 then hdrWrite s p off v
  else match p with
    | .glb => glbWrite s off v
    | .isl => none
    | .cpm => cpmWrite s off v
    | .sec => none
    | .time => timeWrite s off v
    | .sync => none
    | .tgen g => tgenWrite s g.val off v
    | .layr => layrWrite s off v
    | .geom => geomWrite s off v
    | .reng g => rengWrite s g.val off v
    | .scal => scalWrite s off v
    | .codec c => codecWrite s c.val off v
    | .trim => trimWrite s off v
    | .fade => fadeWrite s off v
    | .bport b => bportWrite s b.val off v
    | .bgrp g => bgrpWrite s g.val off v
    | .diag => diagWrite s off v
    | .hbm => hbmWrite s off v
    | .hbmpc _ => none
    | .fab => none
    | .pcie => pcieWrite s off v
    | .nvme => nvmeWrite s off v
    | .net _ => none
    | .flow => flowWrite s off v
    | .cam c => camWrite s c.val off v
    | .aud a => audWrite s a.val off v
    | .blit => blitWrite s off v
    | .thrm => none
    | .cal => calWrite s off v

/-- A write to a register of a page that answers: its own behaviour, else its access code (R14). -/
def pageWrite (s : State) (p : Page) (off : Nat) (v : Word) : State :=
  match actWrite s p off v with
  | some t => t
  | none => writePlain s p off v

/-- An aligned 32-bit write of BAR0. -/
def bar0Write (s : State) (a : Nat) (v : Word) : State :=
  if a < 2 ^ 24 then
    match pageOfSlot (a / 4096) with
    | none => s
    | some p =>
      if pagePresent s p = false then s
      else if a % 4096 = Off.HDR_PCTRL then pctrlWrite s p (fld v 0 3) (bitOf v 8)
      else if pageUp s p then pageWrite s p (a % 4096) v
      else s
  else if a < 2 ^ 25 then msixWrite s (a - 2 ^ 24) v
  else if pageUp s .geom then meshWrite s ((a - 2 ^ 25) / 16) ((a - 2 ^ 25) % 16 / 4) v
  else s

/-- A host write of 32 bits, or of 64 bits as its low word and then its high word (R62). -/
def hostWrite (s : State) (a : Nat) (wide : Bool) (v : BitVec 64) : State :=
  if hostReach s = false then s
  else if a % (if wide then 8 else 4) ≠ 0 then raise s .glb 0
  else
    let t := bar0Write s a (v.setWidth 32)
    if wide then bar0Write t (a + 4) (word (v.toNat / 2 ^ 32)) else t

/-- R14. -/
def execRegWrite (addr : BitVec 26) (wide : Bool) (v : BitVec 64) (s : State) : Res :=
  done (hostWrite s addr.toNat wide v)

end Sys2Proof.Machine
end

