-- ==== Sys2Proof/Machine/Module.lean ====
section
/-!
DEFINITION. What a compatible module does with the stream of its ring (spec/12_bunting_physical.md R344, R346, R349,
R351, R357; spec/13_bunting_protocol.md R367 to R391; spec/14_lamp_diagnostics.md R396, R397, R405, R410).
-/
namespace Sys2Proof.Machine

/-- The module at a place along a ring. -/
def moduAt (s : State) (p k : Nat) : Modu := mapGet (fun _ => Modu.initial) s.modu (256 * p + k)
def setModu (s : State) (p k : Nat) (v : Modu) : State := { s with modu := mapSet (fun _ => Modu.initial) s.modu (256 * p + k) v }

/-- The module inserts a control block, then data blocks. -/
def moduOut (v : Modu) (out : List Nat) : Modu := { v with out := out, runs := v.runs + 1 }

/-- A change of the module at a place. -/
def onModu (p : Fin 256) (k : Fin 256) (f : Modu → Modu) (s : State) : Res :=
  done (setModu s p.val k.val (f (moduAt s p.val k.val)))

/-- What the module has just inserted, in the line code of its lane (R332, R333). -/
def moduLine (lane : Nat) (old v : Modu) : Modu :=
  if v.runs = old.runs then v
  else { v with line := lineRun ((v.out.zipIdx).map (fun x => ⟨decide (x.2 = 0), x.1⟩)) (Config.laneState lane old.runs).toNat [] }

/-- A change of the module at a place that may insert blocks. -/
def onModuOut (p : Fin 256) (k : Fin 256) (f : Modu → Modu) (s : State) : Res :=
  onModu p k (fun v => moduLine (256 + 256 * p.val + k.val) v (f v)) s

/-- A block reaches a module that forwards. -/
def onLane (p : Fin 256) (k : Fin 256) (f : Modu → Modu) (s : State) : Res :=
  onModu p k (fun v => if v.link = 1 then f v else v) s

/-! ## The lane (R344, R346, R349, R351, R357) -/

/-- The ENUM_SLOT a module fills (R335). -/
def enumSlot (d : ModDesc) (pos : Nat) : Nat :=
  0xF3 + at_ 1 1 8 + at_ pos 8 16 + at_ d.version.toNat 8 24 + at_ d.maxStep.val 3 32 + at_ (b2n d.idleCap) 1 35
    + at_ (b2n d.deepCap) 1 36 + at_ d.ident.toNat 64 48

/-- R344: `filled` slots lie ahead of the first empty one; with 192 the module sets overflow and takes no position. -/
def moduEnum (d : ModDesc) (filled : Nat) (v : Modu) : Modu :=
  if filled < 192 then moduOut { v with desc := d, pos := some filled } [enumSlot d filled]
  else moduOut { v with desc := d, pos := none } [0xF4 + at_ 1 1 8]

def execModuleEnumSlot (p : Fin 256) (k : Fin 256) (d : ModDesc) (filled : Nat) (s : State) : Res :=
  onModuOut p k (moduEnum d filled) s

/-- R346: the module fills a MEAS_SLOT with its position and f. -/
def execModuleMeasSlot (p : Fin 256) (k : Fin 256) (s : State) : Res :=
  onModuOut p k (fun (v : Modu) => match (if v.link = 1 then v.pos else none) with
    | some m => moduOut v [0xF6 + at_ 1 1 8 + at_ m 8 16 + at_ v.desc.f.toNat 16 32]
    | none => v) s

/-- R357: the receiver gains block lock; the module forwards. -/
def execModuleRxBlockLock (p : Fin 256) (k : Fin 256) (s : State) : Res :=
  onModu p k (fun (v : Modu) => { v with link := 1 }) s

/-- Display of 0 in every lamp, with dark = 1 (R376, R388). -/
def moduDark (v : Modu) : Modu := { v with shown := { v.shown with codes := [], dark := true } }

/-- A link reset: the position goes, and the module sends TRAIN until it has lock; it keeps displaying its content, or
goes dark at once without a measured period (R357, R388, R405). -/
def moduReset (v : Modu) : Modu :=
  let v := { v with link := 0, step := 0, pos := none, parts := [], probes := [], cond := [] }
  if v.latches < 2 then moduDark v else v

/-- R357, R388: loss of signal or lock for 50 µs; a module asleep does not take it as loss (R351). -/
def execModuleLinkLoss (p : Fin 256) (k : Fin 256) (s : State) : Res :=
  onModu p k (fun (v : Modu) => if v.link = 2 ∨ v.link = 3 then v else moduReset v) s

/-- R388: 250 ms after the last valid Pennant. -/
def execModuleHoldExpiry (p : Fin 256) (k : Fin 256) (s : State) : Res := onModu p k moduDark s

/-- R349: the module switches to the target and trains; a target above its own max_step is loss (R357). -/
def execModuleStepRx (p : Fin 256) (k : Fin 256) (target : Fin 8) (s : State) : Res :=
  onLane p k (fun (v : Modu) =>
    if v.desc.maxStep.val < target.val then moduReset v else { v with step := target.val, link := 0 }) s

/-- R351: SLEEP, for a state the module declares. -/
def execModuleSleepRx (p : Fin 256) (k : Fin 256) (kind : Fin 4) (s : State) : Res :=
  onLane p k (fun (v : Modu) =>
    if kind = 1 ∧ v.desc.idleCap = true then { v with link := 2 }
    else if kind = 2 ∧ v.desc.deepCap = true then { v with link := 3 }
    else v) s

/-! ## Control blocks for the module -/

/-- A control block of a type that is addressed to the module and passes its CRC (R358). -/
def forMe (v : Modu) (ty b : Nat) (all : Bool) : Bool :=
  crcOk b && decide (nfld b 0 8 = ty) && ((match v.pos with
    | some m => decide (nfld b 8 8 = m)
    | none => false) || (all && decide (nfld b 8 8 = 0xFF)))

/-- R373: the hold value of an ASSIGN block acts from the next Pennant. -/
def execModuleAssignRx (p : Fin 256) (k : Fin 256) (payload : BitVec 128) (s : State) : Res :=
  onLane p k (fun (v : Modu) =>
    if forMe v 0x40 payload.toNat false then { v with holdNext := some (nfld payload.toNat 16 24) } else v) s

/-- R410: a DIAG_CFG acts from the next frame. -/
def execModuleDiagCfgRx (p : Fin 256) (k : Fin 256) (payload : BitVec 128) (s : State) : Res :=
  onLane p k (fun (v : Modu) =>
    if forMe v 0x71 payload.toNat true then { v with windowNext := some (nfld payload.toNat 16 16) } else v) s

/-- R383: the module discards what it holds of the frame and gen, and its probes of the frame (R405). -/
def moduWithdraw (b : Nat) (v : Modu) : Modu :=
  if crcOk b = true ∧ nfld b 0 8 = 0x10 then
    let f : Word := BitVec.ofNat 32 (nfld b 32 32)
    { v with parts := v.parts.filter (fun q => !(decide (q.frame = f) && decide (q.gen = nfld b 8 4)))
             probes := v.probes.filter (fun q => decide (q.frame ≠ f)) }
  else v

def execModuleWithdrawRx (p : Fin 256) (k : Fin 256) (payload : BitVec 128) (s : State) : Res :=
  onLane p k (moduWithdraw payload.toNat) s

/-- The valid entries of a PROBE block (R404). -/
def probeEntries (b : Nat) : List Probe :=
  ([nfld b 48 24, nfld b 72 24].filter (fun e => e.testBit 23)).map (fun e =>
    ⟨BitVec.ofNat 32 (nfld b 16 32), nfld e 0 16, nfld e 16 2, nfld e 18 3⟩)

/-- R405: the entries are kept once for each frame, lamp and slot. -/
def execModuleProbeRx (p : Fin 256) (k : Fin 256) (payload : BitVec 128) (s : State) : Res :=
  onLane p k (fun (v : Modu) =>
    if forMe v 0x70 payload.toNat false then
      (probeEntries payload.toNat).foldl (fun (w : Modu) e =>
        if (w.probes ++ w.pulsed).any (fun q => decide (q.frame = e.frame) && decide (q.lamp = e.lamp) && decide (q.slot = e.slot)) then w
        else { w with probes := w.probes ++ [e] }) v
    else v) s

/-! ## Flags and reports (R361 to R370) -/

/-- The data payloads of a part from the blocks that follow its header: each segment with its CHECK. The payloads, and
whether every segment passed; the part ends at its stated end, or at the first control block that is not a CHECK. -/
def partData (dest limit : Nat) : Nat → List (Bool × Nat) → List Nat → List Nat → Bool → List Nat × Bool
  | _, [], acc, seg, ok => (acc.reverse, ok && seg.isEmpty)
  | n, (true, b) :: r, acc, seg, ok =>
    if nfld b 0 8 = 2 ∧ seg ≠ [] then
      let good := decide (b = (checkBlock dest (n % 256) seg.reverse).payload)
      if limit ≠ 0 ∧ limit ≤ acc.length then (acc.reverse, ok && good) else partData dest limit (n + 1) r acc [] (ok && good)
    else (acc.reverse, ok && seg.isEmpty)
  | n, (false, b) :: r, acc, seg, ok =>
    if seg.length = 30 then (acc.reverse, false) else partData dest limit n r (b :: acc) (b :: seg) ok

/-- Bits of payloads in sequence (R362). -/
def seqBits : List Nat → Nat
  | [] => 0
  | d :: r => d + 2 ^ 128 * seqBits r

/-- The drive codes of a FULL part's sequence. -/
def fullCodes (n bits : Nat) : List (Nat × Nat) := (List.range n).map (fun l => (l, nfld bits (48 * l) 48))

/-- The changed rows of a DELTA part's sequence of `len` bits: its codes, and whether the sequence holds every row. -/
def deltaCodes (lw : Nat) : Nat → Nat → Nat → Nat → List (Nat × Nat) → List (Nat × Nat) × Bool
  | 0, _, _, _, acc => (acc, true)
  | rows + 1, y, bits, len, acc =>
    if len = 0 then (acc, false)
    else if bits % 2 = 1 then
      if len < 1 + 48 * lw then (acc, false)
      else
        let b := bits / 2
        deltaCodes lw rows (y + 1) (b / 2 ^ (48 * lw)) (len - 1 - 48 * lw)
          (acc ++ (List.range lw).map (fun x => (y * lw + x, nfld b (48 * x) 48)))
    else deltaCodes lw rows (y + 1) (bits / 2) (len - 1) acc

/-- A part as the module takes it (R359 to R364). -/
def partOf (v : Modu) (h : Nat) (body : List (Bool × Nat)) : FlagPart :=
  let kind := nfld h 16 2
  let n := v.desc.lw * v.desc.lh
  let nd := nfld h 56 16
  let (ds, ok) := if kind < 2 then partData (v.pos.getD 0) (if kind = 0 then nd else 0) 0 body [] [] true else ([], true)
  let (codes, full) :=
    if kind = 0 then (fullCodes n (seqBits ds), decide (ds.length = nd) && decide (nd = ceilDiv (48 * n) 128))
    else if kind = 1 then deltaCodes v.desc.lw v.desc.lh 0 (seqBits ds) (128 * ds.length) []
    else ([], true)
  { kind := kind, phase := nfld h 18 2, gen := nfld h 20 4, frame := BitVec.ofNat 32 (nfld h 24 32), base := nfld h 72 16
    ok := ok && full, codes := codes }

/-- fw_progress: what is held without gaps, in 1/256 of the image's length; 0 while the length is not known (R369). -/
def fwPrefix : Nat → List (Nat × Nat) → Nat → Nat
  | 0, _, u => u
  | n + 1, cs, u => match cs.find? (fun c => decide (c.1 ≤ u) && decide (u < c.1 + c.2)) with
    | some c => fwPrefix n cs (c.1 + c.2)
    | none => u

def fwProgress (v : Modu) : Nat :=
  match v.fwEnd with
  | some n => if n = 0 then 0 else min 255 (fwPrefix v.chunks.length v.chunks 0 * 256 / n)
  | none => 0

/-- The report of a module with the entries it carries (R369, R370). -/
def moduReport (v : Modu) (temp : Option (BitVec 16)) : List Nat :=
  let all := v.probeQ ++ v.queue
  let es := all.take 12
  let nb := ceilDiv es.length 4
  let head := 0x30 + at_ (v.pos.getD 0) 8 8 + at_ v.shown.gen 4 16 + at_ (b2n v.flagOk) 1 20 + at_ (b2n v.checkErr) 1 21
    + at_ (b2n v.deltaMiss) 1 22 + at_ (b2n (decide (12 < all.length))) 1 23 + at_ v.shown.frame.toNat 32 24
    + at_ ((temp.getD 0).toNat) 16 56 + at_ (b2n temp.isSome) 1 72 + at_ nb 2 73 + at_ (b2n v.penMissed) 1 75
    + at_ (b2n v.shown.dark) 1 76 + at_ (b2n v.hold.isSome) 1 77 + at_ v.fw 3 80 + at_ (fwProgress v) 8 88
  withCrc head :: (List.range nb).map (fun j => (List.range 4).foldl (fun acc i => acc + es.getD (4 * j + i) 0 * 2 ^ (32 * i)) 0)

/-- R367: a part that is the module's own. Part 0 first gives place to its report, which describes the module as the
header arrives. -/
def moduPart (h : Nat) (body : List (Bool × Nat)) (temp : Option (BitVec 16)) (v : Modu) : Modu :=
  if forMe v 0x01 h false = false then v
  else
    let q := partOf v h body
    let v := if q.phase = 0 ∨ 2 ≤ q.kind then
        moduOut { v with queue := (v.probeQ ++ v.queue).drop 12 |>.drop (v.probeQ.length - 12), probeQ := v.probeQ.drop 12 }
          (moduReport v temp)
      else { v with out := [], line := [] }
    if v.fw = 4 then v
    else
      let same := v.parts.filter (fun o => decide (o.frame = q.frame) && decide (o.gen = q.gen))
      { v with parts := q :: same, checkErr := (if same.isEmpty then false else v.checkErr) || !q.ok }

def execModuleFlagPartRx (p : Fin 256) (k : Fin 256) (head : BitVec 128) (body : List (Bool × BitVec 128))
    (temp : Option (BitVec 16)) (s : State) : Res :=
  onModuOut p k (fun (v : Modu) => if v.link = 1 then moduPart head.toNat (body.map (fun x => (x.1, x.2.toNat))) temp v else v) s

/-! ## Pennants and latches (R375 to R378) -/

/-- A content with a part applied to phase k; a phase the content lacks starts from its phase 0. -/
def applyPart (old : Content) (c : AMap Nat) (q : FlagPart) : AMap Nat :=
  let from_ := if q.phase < old.phases then q.phase else 0
  let base := if q.kind = 1 then (mapKeep (fun a => decide (a / 65536 = from_)) old.codes).map (fun e => (e.1 % 65536, e.2)) else []
  (base ++ q.codes).foldl (fun m e => mapSet (fun _ => 0) m (q.phase * 65536 + e.1) e.2) c

/-- The new content a LATCH Pennant chooses, if the module holds one (R376). -/
def newContent (v : Modu) (f : Word) (gen vt phases : Nat) : Option Content :=
  let ps := v.parts.filter (fun q => decide (q.frame = f) && decide (q.gen = gen))
  let part (k : Nat) : Option FlagPart := ps.find? (fun q => decide (q.phase = k))
  match v.pos, part 0 with
  | some m, some p0 =>
    if vt ≤ m ∨ p0.ok = false then none
    else if p0.kind = 2 then some ⟨[], phases, f, gen, false⟩
    else if p0.kind = 3 then some v.shown
    else
      let all := (List.range phases).map part
      let good := all.all (fun o => match o with
        | some q => q.ok && decide (q.kind < 2) && (decide (q.kind = 0) || decide (q.base = v.shown.frame.toNat % 65536))
        | none => false)
      if good then
        some ⟨all.foldl (fun c o => match o with
          | some q => applyPart v.shown c q
          | none => c) [], phases, f, gen, false⟩
      else none
  | _, _ => none

/-- A Pennant's two blocks are valid (R372). -/
def pennantOk (a b : Nat) : Bool :=
  crcOk a && crcOk b && decide (nfld a 0 8 = 0x20) && decide (nfld b 0 8 = 0x21) && decide (nfld a 8 2 ≠ 3)

/-- R376, R387: the choice at t_rx. A module without a hold value does not latch; one that activates, or is dead, takes
no flag. -/
def moduPennant (a b : Nat) (v : Modu) : Modu :=
  if pennantOk a b = false then { v with penMissed := true }
  else
    let f : Word := BitVec.ofNat 32 (nfld a 38 32)
    let kind := nfld a 8 2
    let gen := nfld a 10 4
    let hold := match v.holdNext with
      | some h => some h
      | none => v.hold
    let act := decide (v.fw = 2) && (match v.actFrame with
      | some x => frameGe f x
      | none => false)
    let fw := if act then 4 else v.fw
    let base := match v.chosen with
      | some c => c
      | none => v.shown
    let v' := { v with shown := base }
    let new := if kind = 0 ∧ fw ≠ 4 ∧ fw ≠ 5 then newContent v' f gen (nfld a 14 8) (nfld b 8 2 + 1) else none
    let c : Content := if kind = 2 ∨ fw = 5 then { base with codes := [], dark := true } else new.getD base
    let miss := v.parts.any (fun q => decide (q.frame = f) && decide (q.gen = gen) && decide (q.kind = 1)
      && decide (q.base ≠ base.frame.toNat % 65536))
    let hadDelta := v.parts.any (fun q => decide (q.kind = 1))
    { v with penMissed := false, hold := hold, holdNext := none, pen := some (f, kind), fw := fw, parts := []
             chosen := if hold.isSome then some c else none
             flagOk := new.isSome && hold.isSome
             deltaMiss := if hadDelta then miss else v.deltaMiss
             window := v.windowNext.getD v.window, windowNext := none
             actFrame := if act then none else v.actFrame
             probes := if kind = 2 then [] else v.probes.filter (fun q => decide (q.frame = f))
             pulsed := [] }

def execModulePennantRx (p : Fin 256) (k : Fin 256) (a b : BitVec 128) (s : State) : Res :=
  onLane p k (moduPennant a.toNat b.toNat) s

/-! ## Conditions and their entries (R396, R397, R405) -/

/-- A diagnostic entry (R370). -/
def condEntry (lamp colour cond : Nat) : Nat := lamp + colour * 2 ^ 16 + (if cond = 0 then 3 else cond - 1) * 2 ^ 18

/-- The entry of a lamp and colour: an entry already queued for it is replaced (R397). -/
def queueEntry (q : List Nat) (lamp colour cond : Nat) : List Nat :=
  q.filter (fun e => decide (nfld e 0 18 ≠ lamp + colour * 2 ^ 16)) ++ [condEntry lamp colour cond]

/-- A measurement of one colour, or what its lack makes of it; the entry is queued where the condition changes. -/
def setCond (v : Modu) (lamp colour cond : Nat) : Modu :=
  let i := 3 * lamp + colour
  let old := mapGet (fun _ => 0) v.cond i
  { v with cond := mapSet (fun _ => 0) v.cond i cond
           queue := if old = cond then v.queue else queueEntry v.queue lamp colour cond }

/-- The measurements that a frame's display has given (R396): a lamp colour whose code is 0 in every phase gives none. -/
def dispMeasure (v : Modu) (x : Nat × Nat × Nat) : Modu :=
  let lit := (List.range v.shown.phases).any (fun k =>
    decide (nfld (mapGet (fun _ => 0) v.shown.codes (k * 65536 + x.1)) (16 * x.2.1) 16 ≠ 0))
  if lit then setCond { v with measured := mapSet (fun _ => 0) v.measured (3 * x.1 + x.2.1) v.latches } x.1 x.2.1 x.2.2 else v

/-- R375: the latch at t_rx + h + φ; `meas` are the display measurements of the frame that ends: lamp, colour, result. -/
def moduLatch (meas : List (Nat × Nat × Nat)) (v : Modu) : Modu :=
  match v.chosen with
  | none => v
  | some c =>
    let v := meas.foldl dispMeasure v
    { v with shown := c, chosen := none, latches := v.latches + 1 }

def execModuleLatch (p : Fin 256) (k : Fin 256) (meas : List (Fin 65536 × Fin 3 × Fin 3)) (s : State) : Res :=
  onModu p k (moduLatch (meas.map (fun x => (x.1.val, x.2.1.val, x.2.2.val)))) s

/-- R396: colours of a lamp not measured for the window become unmeasured; colour 3 names all three. -/
def moduUnmeasured (lamp colour : Nat) (v : Modu) : Modu :=
  let cs := if colour = 3 then [0, 1, 2] else [colour]
  (cs.filter (fun c => decide (mapGet (fun _ => 0) v.measured (3 * lamp + c) + v.window ≤ v.latches))).foldl
    (fun (w : Modu) c => setCond w lamp c 3) v

def execModuleUnmeasuredWindow (p : Fin 256) (k : Fin 256) (lamp : Fin 65536) (colour : Fin 4) (s : State) : Res :=
  onModu p k (moduUnmeasured lamp.val colour.val) s

/-- R405: in a slot of the frame that it has latched, the module pulses and measures; the result is queued ahead of all
others even when the condition is unchanged. `r` gives each colour's result. -/
def moduPulse (slot : Nat) (r : Nat → Nat) (v : Modu) : Modu :=
  match v.pen with
  | none => v
  | some (f, kind) =>
    if 2 ≤ kind ∨ v.chosen.isSome = true ∨ v.hold = none then v
    else
      (v.probes.filter (fun q => decide (q.frame = f) && decide (q.slot = slot))).foldl (fun (w : Modu) q =>
        let cs := if q.colour = 3 then [0, 1, 2] else [q.colour]
        let w := cs.foldl (fun (u : Modu) c =>
          { u with cond := mapSet (fun _ => 0) u.cond (3 * q.lamp + c) (r c)
                   measured := mapSet (fun _ => 0) u.measured (3 * q.lamp + c) u.latches
                   queue := u.queue.filter (fun e => decide (nfld e 0 18 ≠ q.lamp + c * 2 ^ 16)) }) w
        let es := if q.colour = 3 ∧ r 0 = r 1 ∧ r 1 = r 2 then [condEntry q.lamp 3 (r 0)] else cs.map (fun c => condEntry q.lamp c (r c))
        { w with probeQ := w.probeQ ++ es, probes := w.probes.filter (fun x => decide (x ≠ q)), pulsed := q :: w.pulsed }) v

def execModuleProbePulse (p : Fin 256) (k : Fin 256) (slot : Fin 8) (r0 r1 r2 : Fin 3) (s : State) : Res :=
  onModu p k (moduPulse slot.val (fun c => if c = 0 then r0.val else if c = 1 then r1.val else r2.val)) s

/-! ## Firmware (R385, R387) -/

/-- R385: a relay chunk for the module: its MFW_HEAD, data payloads and CHECK. `ok` is what the module's verification of
a whole image finds. -/
def moduChunk (h : Nat) (ds : List Nat) (check : Nat) (ok : Bool) (v : Modu) : Modu :=
  if forMe v 0x50 h true = false ∨ ds.length ≠ nfld h 52 8 ∨ check ≠ (checkBlock (nfld h 8 8) 0 ds).payload ∨ v.fw = 4 then v
  else
    let v := if v.fw = 1 then v else { v with fw := 1, chunks := [], fwEnd := none }
    let off := nfld h 20 32
    let chunks := if v.chunks.contains (off, ds.length) then v.chunks else (off, ds.length) :: v.chunks
    let fwEnd := if h.testBit 60 then some (off + ds.length) else v.fwEnd
    let v := { v with chunks := chunks, fwEnd := fwEnd }
    match fwEnd with
    | some n => if n ≤ fwPrefix chunks.length chunks 0 then { v with fw := if ok then 2 else 3 } else v
    | none => v

def execModuleMfwChunkRx (p : Fin 256) (k : Fin 256) (head : BitVec 128) (data : List (BitVec 128)) (check : BitVec 128)
    (ok : Bool) (s : State) : Res :=
  onLane p k (moduChunk head.toNat (data.map (·.toNat)) check.toNat ok) s

/-- R387: MFW_ACTIVATE reaches a module in STAGED. -/
def execModuleMfwActivateRx (p : Fin 256) (k : Fin 256) (payload : BitVec 128) (s : State) : Res :=
  onLane p k (fun (v : Modu) =>
    if forMe v 0x51 payload.toNat true = true ∧ v.fw = 2 then { v with actFrame := some (BitVec.ofNat 32 (nfld payload.toNat 16 32)) }
    else v) s

/-- R387: the activation ends in RUNNING or DEAD; a dead module displays dark. -/
def execModuleActivationEnd (p : Fin 256) (k : Fin 256) (ok : Bool) (s : State) : Res :=
  onModu p k (fun (v : Modu) =>
    if v.fw ≠ 4 then v
    else if ok then { v with fw := 0, chunks := [], fwEnd := none }
    else moduDark { v with fw := 5, chunks := [], fwEnd := none }) s

end Sys2Proof.Machine
end

