-- ==== Sys2Proof/Machine/Weirs.lean ====
section
/-!
DEFINITION. Requests into the tagged Weirs and their delivery (spec/03_islands_and_weirs.md R74 to R85), and the host
port's configuration requests (spec/16_host_and_scene_store.md R446 to R448, spec/23_bringup.md R602).
-/
namespace Sys2Proof.Machine

/-- The Weirs that carry tagged requests; the RAY streams do not (R75). -/
def weirTagged (w : Nat) : Bool := decide (w < 38) || decide (54 ≤ w)

/-- The tags of a pool: a RAY Weir has 64 texel and 32 trim tags (R75). -/
def weirPool (w : Nat) (trim : Bool) : List Nat :=
  if w < 16 then (if trim then (List.range 32).map (· + 64) else List.range 64) else List.range (weirTags w)

/-- The lowest free tag of a pool; the trim unit's own reads hold trim tags of a RAY too (R299). -/
def freePoolTag (s : State) (w : Nat) (trim : Bool) : Option Nat :=
  let held := heldTags s w
  if decide (w < 16) && trim && !trimTagFree s w then none else (weirPool w trim).find? (fun t => !held.contains t)

/-- Whether a request draws on the trim tags of its RAY: the trim reads, and the write-back tap's writes (R414). -/
def drawsTrim (alt : Bool) : WeirReq → Bool
  | .hbmWrite .. => true
  | _ => alt

/-- A request of the form its Weir carries: memory requests of R414 on the memory paths, register accesses and work on the
others. -/
def reqFits (w : Nat) (r : WeirReq) : Bool :=
  let span (a n : Nat) : Bool := decide (0 < n) && decide (a % 32 = 0) && decide (n % 32 = 0) && decide (a % 256 + n ≤ 256)
  match r with
  | .hbmRead a n => decide (w < 38) && span a.toNat n
  | .hbmWrite a bs => decide (w < 38) && span a.toNat bs.length
  | .regRead a => decide (70 ≤ w) && decide (a.toNat % 4 = 0)
  | .regWrite a _ => decide (70 ≤ w) && decide (a.toNat % 4 = 0)
  | .work => decide (54 ≤ w)

/-- A source issues a request: ABSENT at once toward a closed target; nothing while its tags are all in use or it holds no credit; else
it takes the lowest free tag and queues (R74, R75, R79). -/
def weirRequest (s : State) (w : Nat) (alt : Bool) (r : WeirReq) : State :=
  let v := weirAt s w
  let (a, b) := weirEnds w
  if !weirExists s w || !weirSide s a then s
  else match freePoolTag s w (drawsTrim alt r) with
    | none => s
    | some t =>
      if !weirSide s b then setWeir s w { v with lastReply := some (t, .absent, []), absents := v.absents + 1 }
      else if weirCredit s w = 0 then s
      else setWeir s w { v with queue := v.queue ++ [(t, alt, r)] }

/-- R74; a source issues no request of another form than its Weir carries (R414), so such a command changes nothing. -/
def execWeirRequest (w : Fin 158) (alt : Bool) (r : WeirReq) (s : State) : Res :=
  done (if weirTagged w.val && reqFits w.val r then weirRequest s w.val alt r else s)

/-- The class of a memory request by its source and purpose (R415): `alt` is a trim read of a RAY, a blitter's request of MEDIA, a module
firmware relay read of a PGRP. -/
def weirClass (w : Nat) (alt write : Bool) : Nat :=
  if w < 16 then (if write then 1 else 0) else if w = 16 then (if alt then 3 else 2)
  else if 21 ≤ w ∧ w < 37 then (if alt then 3 else 0) else 3

/-- The island that a BAR0 address reaches. -/
def addrIsland (a : Nat) : Nat :=
  if a < 2 ^ 24 then (match pageOfSlot (a / 4096) with
    | some p => islandOf p
    | none => 44)
  else if a < 2 ^ 25 then islHost else islFab

/-- The target carries out a request (R81, R84, R85). -/
def weirServe (s : State) (w tag : Nat) (alt : Bool) (r : WeirReq) : State :=
  let mem (a n : Nat) (d : Option (List Byte)) : State :=
    if hbmLive s then
      setHbm s { s.hbm with waiting := s.hbm.waiting ++ [⟨w, tag, weirClass w alt d.isSome, a, n, d⟩] }
    else weirReply s w tag .absent []
  let here (a : Nat) : Bool := decide (addrIsland a = (weirEnds w).2)
  match r with
  | .hbmRead a n => mem a.toNat n none
  | .hbmWrite a bs => mem a.toNat bs.length (some bs)
  | .regRead a =>
    if here a.toNat then
      let t := bar0Read s a.toNat
      weirReply { t with lastRead := s.lastRead } w tag .ok (leBytes 4 t.lastRead.toNat)
    else weirReply s w tag .absent []
  | .regWrite a v =>
    if here a.toNat then weirReply (bar0Write s a.toNat v) w tag .ok [] else weirReply s w tag .absent []
  | .work => weirReply s w tag (if islandRuns s (weirEnds w).2 then .ok else .absent) []

/-- R76, R77: the oldest queued request crosses, and the target takes it from its output register and carries it out. -/
def weirDeliver (s : State) (w : Nat) : State :=
  let v := weirAt s w
  match v.queue with
  | [] => s
  | (t, alt, r) :: rest =>
    if weirSide s (weirEnds w).2 then
      weirServe (setWeir s w { v with queue := rest, shadow := v.shadow ++ [t] }) w t alt r
    else s

/-- R76, R80: the oldest reply crosses, and the source takes it: its tag leaves the shadow list. -/
def weirTake (s : State) (w : Nat) : State :=
  let v := weirAt s w
  match v.replies with
  | [] => s
  | r :: rest =>
    if weirSide s (weirEnds w).1 then
      setWeir s w (replyFill w { v with replies := rest, shadow := v.shadow.filter (fun t => decide (t ≠ r.1)), lastReply := some r })
    else s

/-- R76; a stream Weir carries no tagged entry. -/
def execWeirDeliver (x : WeirMove) (s : State) : Res :=
  done (if weirTagged x.w.val then (if x.reply then weirTake s x.w.val else weirDeliver s x.w.val) else s)

/-! ## Configuration requests (R446, R448, R602) -/

/-- The address bits of a base address register's double word: BAR0 is 64 MiB (double words 4 and 5), BAR2 32 GiB (6 and 7) (R34). -/
def barBits : Nat → Word
  | 4 => 0xFC000000
  | 5 => 0xFFFFFFFF
  | 7 => 0xFFFFFFF8
  | _ => 0

/-- A base address register's double word: its address bits as the host wrote them, and its type: memory, 64-bit, BAR2 prefetchable
(R34; the places of the type bits are PCI Express's, log 23). There is no other BAR. -/
def barWord (s : State) (d : Nat) : Word :=
  mapGet (fun _ => 0) s.host.bars d ||| (if d = 4 then 4 else if d = 6 then 0xC else 0)

/-- A header double word; those the spec does not give are free (log 23). -/
def cfgHeader (s : State) (d n : Nat) : Word :=
  if 4 ≤ d ∧ d < 10 then barWord s d
  else match d with
  | 0 => word (0x1FE7 + (if s.part = .af128x16 then 0xAF12 else 0xAF56) * 2 ^ 16)
  | 2 => word (0x20 + 0x048000 * 2 ^ 8)
  | 11 => s.cpm.settings.getD 1 0
  | _ => Config.freeWord n

/-- The pending messages of unmasked vectors, sent as the function is unmasked (R50). -/
def msixFlush (s : State) : State :=
  let m := s.msix
  if m.enable && !m.funcMask then
    let go := m.pend.filter (fun v => m.unmasked.contains v)
    { s with msix := { m with pend := m.pend.filter (fun v => !m.unmasked.contains v), sent := go ++ m.sent } }
  else s

/-- The answer of a request: completion status and data. -/
def cfgDone (s : State) (st : Nat) (w : Word) : State := setHost s { s.host with cfgAns := (st, w) }

/-- A configuration request that reaches the port. -/
def cfgServe (s : State) (r : CfgReq) : State :=
  match r with
  | .header d => let (n, t) := draw s
                 cfgDone t 0 (cfgHeader s d.val n)
  | .headerWrite d v =>
    let m := mapSet (fun _ => 0) s.host.bars d.val (v &&& barBits d.val)
    cfgDone (setHost s { s.host with bars := m }) 0 0
  | .msixRead => let (n, t) := draw s
                 cfgDone t 0 (word ((63 + b2n s.msix.funcMask * 2 ^ 14 + b2n s.msix.enable * 2 ^ 15) * 2 ^ 16 + 0x11)
                   ||| (Config.freeWord n &&& 0xFF00))
  | .msixWrite e f => cfgDone (msixFlush { s with msix := { s.msix with enable := e, funcMask := f } }) 0 0
  | .powerRead => cfgDone s 0 (word (b2n s.host.d3 * 3 + 8))
  | .powerWrite d3 => cfgDone (setHost s { s.host with d3 := d3 }) 0 0
  | .other write => if write then cfgDone s 0 0 else
      let (n, t) := draw s
      cfgDone t 0 (Config.freeWord n)

/-- R602: a configuration request is answered, or retried before the device is ready. -/
def execPcieConfigRequest (ready : Bool) (r : CfgReq) (s : State) : Res :=
  done (if islandUp s islHost then (if ready then cfgServe s r else cfgDone s 2 0) else s)

end Sys2Proof.Machine
end

