-- ==== Sys2Proof/Machine/Dispatch.lean ====
section
/-!
DEFINITION. The dispatch: one arm per command.
-/
namespace Sys2Proof.Machine

/-- What a command does to everything but the queue. -/
def exec (i : Instr) (s : State) : Host.Outcome State Fault Refusal :=
  match i with
  | .regWrite addr wide v => Sys2Proof.Machine.execRegWrite addr wide v s
  | .accessErr addr isWrite => Sys2Proof.Machine.execAccessErr addr isWrite s
  | .pairLoRead addr => Sys2Proof.Machine.execPairLoRead addr s
  | .evPendClear p v same => Sys2Proof.Machine.execEvPendClear p v same s
  | .evSetWrite p v => Sys2Proof.Machine.execEvSetWrite p v s
  | .glbEoi v => Sys2Proof.Machine.execGlbEoi v s
  | .msixUnmask v => Sys2Proof.Machine.execMsixUnmask v s
  | .glbFlushRead => Sys2Proof.Machine.execGlbFlushRead s
  | .glbFlushComplete => Sys2Proof.Machine.execGlbFlushComplete s
  | .cmtHoldWrite v => Sys2Proof.Machine.execCmtHoldWrite v s
  | .cmtArm p v => Sys2Proof.Machine.execCmtArm p v s
  | .cmtCancel p v => Sys2Proof.Machine.execCmtCancel p v s
  | .cmtArmAtGate p g => Sys2Proof.Machine.execCmtArmAtGate p g s
  | .closeNoticeArrival isl g => Sys2Proof.Machine.execCloseNoticeArrival isl g s
  | .localCommitApply p => Sys2Proof.Machine.execLocalCommitApply p s
  | .localSchedCommitDue p => Sys2Proof.Machine.execLocalSchedCommitDue p s
  | .noframeCommitApply p g => Sys2Proof.Machine.execNoframeCommitApply p g s
  | .bankCommitApply g => Sys2Proof.Machine.execBankCommitApply g s
  | .pctrlResumeSet p v => Sys2Proof.Machine.execPctrlResumeSet p v s
  | .pctrlReqOff p resume => Sys2Proof.Machine.execPctrlReqOff p resume s
  | .pctrlReqReset p resume => Sys2Proof.Machine.execPctrlReqReset p resume s
  | .pctrlReqIdle p resume => Sys2Proof.Machine.execPctrlReqIdle p resume s
  | .pctrlReqRun p resume => Sys2Proof.Machine.execPctrlReqRun p resume s
  | .pctrlReqUpdate p resume => Sys2Proof.Machine.execPctrlReqUpdate p resume s
  | .powerSwitchClosed => Sys2Proof.Machine.execPowerSwitchClosed s
  | .islandResetExit isl => Sys2Proof.Machine.execIslandResetExit isl s
  | .islandWeirsClosed isl => Sys2Proof.Machine.execIslandWeirsClosed isl s
  | .runToIdleDrainDone isl => Sys2Proof.Machine.execRunToIdleDrainDone isl s
  | .islandSelfCheckEnd isl passed => Sys2Proof.Machine.execIslandSelfCheckEnd isl passed s
  | .weirRequest w alt req => Sys2Proof.Machine.execWeirRequest w alt req s
  | .weirDeliver w => Sys2Proof.Machine.execWeirDeliver w s
  | .porstNAssert => Sys2Proof.Machine.execPorstNAssert s
  | .porstNRise => Sys2Proof.Machine.execPorstNRise s
  | .perstNAssert => Sys2Proof.Machine.execPerstNAssert s
  | .perstNDeassert => Sys2Proof.Machine.execPerstNDeassert s
  | .abclkLoss a => Sys2Proof.Machine.execAbclkLoss a s
  | .timeBaseTick edges => Sys2Proof.Machine.execTimeBaseTick edges s
  | .nowNsRead => Sys2Proof.Machine.execNowNsRead s
  | .timeSet => Sys2Proof.Machine.execTimeSet s
  | .timeAdd => Sys2Proof.Machine.execTimeAdd s
  | .timeSlew => Sys2Proof.Machine.execTimeSlew s
  | .timeSlewEnd => Sys2Proof.Machine.execTimeSlewEnd s
  | .servoSample => Sys2Proof.Machine.execServoSample s
  | .servoFreqSample row => Sys2Proof.Machine.execServoFreqSample row s
  | .servoHoldTimeout => Sys2Proof.Machine.execServoHoldTimeout s
  | .ptpMessageRx best => Sys2Proof.Machine.execPtpMessageRx best s
  | .ptpAnnounceTimeout standby => Sys2Proof.Machine.execPtpAnnounceTimeout standby s
  | .refInputEdge k falling width stamp => Sys2Proof.Machine.execRefInputEdge k falling width stamp s
  | .trackerStop k => Sys2Proof.Machine.execTrackerStop k s
  | .refInLoss => Sys2Proof.Machine.execRefInLoss s
  | .trackerOutputEdge k => Sys2Proof.Machine.execTrackerOutputEdge k s
  | .syncEdgeNsRead k => Sys2Proof.Machine.execSyncEdgeNsRead k s
  | .slotArm k action target width => Sys2Proof.Machine.execSlotArm k action target width s
  | .slotDisarm k => Sys2Proof.Machine.execSlotDisarm k s
  | .slotFire => Sys2Proof.Machine.execSlotFire s
  | .frameLatch g => Sys2Proof.Machine.execFrameLatch g s
  | .phaseStart g k => Sys2Proof.Machine.execPhaseStart g k s
  | .stillStart g => Sys2Proof.Machine.execStillStart g s
  | .shutterPulse g n k frame => Sys2Proof.Machine.execShutterPulse g n k frame s
  | .genReqStopped g atTime => Sys2Proof.Machine.execGenReqStopped g atTime s
  | .genReqSlack g atTime => Sys2Proof.Machine.execGenReqSlack g atTime s
  | .genReqRun g atTime => Sys2Proof.Machine.execGenReqRun g atTime s
  | .genReqEnsign g atTime => Sys2Proof.Machine.execGenReqEnsign g atTime s
  | .commitClose g => Sys2Proof.Machine.execCommitClose g s
  | .streamStart g => Sys2Proof.Machine.execStreamStart g s
  | .frameComposeBegin g => Sys2Proof.Machine.execFrameComposeBegin g s
  | .pennantDepart p ttx => Sys2Proof.Machine.execPennantDepart p ttx s
  | .bufClaim b => Sys2Proof.Machine.execBufClaim b s
  | .bufReady b => Sys2Proof.Machine.execBufReady b s
  | .bufFree b => Sys2Proof.Machine.execBufFree b s
  | .bufRetire b => Sys2Proof.Machine.execBufRetire b s
  | .layrTableBaseWrite layer isHi v => Sys2Proof.Machine.execLayrTableBaseWrite layer isHi v s
  | .lutFillStart slot curve preset => Sys2Proof.Machine.execLutFillStart slot curve preset s
  | .lutFillDone => Sys2Proof.Machine.execLutFillDone s
  | .lutDataAccess write => Sys2Proof.Machine.execLutDataAccess write s
  | .layrArmLoaded => Sys2Proof.Machine.execLayrArmLoaded s
  | .geomArmLoaded => Sys2Proof.Machine.execGeomArmLoaded s
  | .meshWrite entry w v => Sys2Proof.Machine.execMeshWrite entry w v s
  | .meshRead entry w => Sys2Proof.Machine.execMeshRead entry w s
  | .ctxDataWrite w v => Sys2Proof.Machine.execCtxDataWrite w v s
  | .typeCfgWrite v => Sys2Proof.Machine.execTypeCfgWrite v s
  | .viewXyWrite v => Sys2Proof.Machine.execViewXyWrite v s
  | .viewZAccess write => Sys2Proof.Machine.execViewZAccess write s
  | .modulePatchLoad e ring m => Sys2Proof.Machine.execModulePatchLoad e ring m s
  | .rayChunk e => Sys2Proof.Machine.execRayChunk e s
  | .texelFetchReply e b tx ty => Sys2Proof.Machine.execTexelFetchReply e b tx ty s
  | .rayCompose e taken => Sys2Proof.Machine.execRayCompose e taken s
  | .frameComposed e => Sys2Proof.Machine.execFrameComposed e s
  | .frameAbandon e => Sys2Proof.Machine.execFrameAbandon e s
  | .olutFillStart e copy curve => Sys2Proof.Machine.execOlutFillStart e copy curve s
  | .olutFillDone e => Sys2Proof.Machine.execOlutFillDone e s
  | .olutDataAccess e write => Sys2Proof.Machine.execOlutDataAccess e write s
  | .kernDataAccess e write => Sys2Proof.Machine.execKernDataAccess e write s
  | .sigRegionComplete e r => Sys2Proof.Machine.execSigRegionComplete e r s
  | .sigTripClear e r => Sys2Proof.Machine.execSigTripClear e r s
  | .wbFrameDone e => Sys2Proof.Machine.execWbFrameDone e s
  | .ensignRender g => Sys2Proof.Machine.execEnsignRender g s
  | .scalJobCmd layer bank => Sys2Proof.Machine.execScalJobCmd layer bank s
  | .scalJobStart => Sys2Proof.Machine.execScalJobStart s
  | .scalJobDone => Sys2Proof.Machine.execScalJobDone s
  | .scalJobFail => Sys2Proof.Machine.execScalJobFail s
  | .coefDataAccess write => Sys2Proof.Machine.execCoefDataAccess write s
  | .pmapDataAccess write => Sys2Proof.Machine.execPmapDataAccess write s
  | .codecQueueConfigWrite c which v => Sys2Proof.Machine.execCodecQueueConfigWrite c which v s
  | .codecQTailWrite c v => Sys2Proof.Machine.execCodecQTailWrite c v s
  | .codecDecode c => Sys2Proof.Machine.execCodecDecode c s
  | .codecEncode c => Sys2Proof.Machine.execCodecEncode c s
  | .codecTranscode c => Sys2Proof.Machine.execCodecTranscode c s
  | .codecSaveState c => Sys2Proof.Machine.execCodecSaveState c s
  | .codecLoadState c => Sys2Proof.Machine.execCodecLoadState c s
  | .codecJobEnd c => Sys2Proof.Machine.execCodecJobEnd c s
  | .codecAbort c blocks => Sys2Proof.Machine.execCodecAbort c blocks s
  | .codecStateClaim slot => Sys2Proof.Machine.execCodecStateClaim slot s
  | .codecStateRelease slot => Sys2Proof.Machine.execCodecStateRelease slot s
  | .trimTableBaseWrite which v => Sys2Proof.Machine.execTrimTableBaseWrite which v s
  | .trimWordReply e => Sys2Proof.Machine.execTrimWordReply e s
  | .tpDataAccess write => Sys2Proof.Machine.execTpDataAccess write s
  | .wearSecondUpdate g => Sys2Proof.Machine.execWearSecondUpdate g s
  | .wearUpdateDone g => Sys2Proof.Machine.execWearUpdateDone g s
  | .wearHoldRelease => Sys2Proof.Machine.execWearHoldRelease s
  | .wearCkptNow => Sys2Proof.Machine.execWearCkptNow s
  | .wearCkptTimer => Sys2Proof.Machine.execWearCkptTimer s
  | .wearCkptEnd ok => Sys2Proof.Machine.execWearCkptEnd ok s
  | .mfGo now => Sys2Proof.Machine.execMfGo now s
  | .rgnWrite r which v => Sys2Proof.Machine.execRgnWrite r which v s
  | .updWords slot atTime => Sys2Proof.Machine.execUpdWords slot atTime s
  | .updBamler slot atTime => Sys2Proof.Machine.execUpdBamler slot atTime s
  | .updMeasurements slot atTime => Sys2Proof.Machine.execUpdMeasurements slot atTime s
  | .updRequestStart r => Sys2Proof.Machine.execUpdRequestStart r s
  | .updFillDone r => Sys2Proof.Machine.execUpdFillDone r s
  | .updCopyStart r => Sys2Proof.Machine.execUpdCopyStart r s
  | .updCopyDone r => Sys2Proof.Machine.execUpdCopyDone r s
  | .updDrainDone r => Sys2Proof.Machine.execUpdDrainDone r s
  | .linkCmdUp p => Sys2Proof.Machine.execLinkCmdUp p s
  | .linkCmdDown p => Sys2Proof.Machine.execLinkCmdDown p s
  | .linkCmdRemeasure p => Sys2Proof.Machine.execLinkCmdRemeasure p s
  | .linkCmdRestep p => Sys2Proof.Machine.execLinkCmdRestep p s
  | .linkCmdSleepIdle p => Sys2Proof.Machine.execLinkCmdSleepIdle p s
  | .linkCmdSleepDeep p => Sys2Proof.Machine.execLinkCmdSleepDeep p s
  | .linkCmdWake p => Sys2Proof.Machine.execLinkCmdWake p s
  | .grpCmdUp g mask => Sys2Proof.Machine.execGrpCmdUp g mask s
  | .grpCmdDown g mask => Sys2Proof.Machine.execGrpCmdDown g mask s
  | .grpCmdRemeasure g mask => Sys2Proof.Machine.execGrpCmdRemeasure g mask s
  | .grpCmdRestep g mask => Sys2Proof.Machine.execGrpCmdRestep g mask s
  | .linkAutoUpTimer p => Sys2Proof.Machine.execLinkAutoUpTimer p s
  | .linkResetTimer p => Sys2Proof.Machine.execLinkResetTimer p s
  | .linkTrainReturn p => Sys2Proof.Machine.execLinkTrainReturn p s
  | .linkTrainTimeout p => Sys2Proof.Machine.execLinkTrainTimeout p s
  | .enumReturn p slots overflow => Sys2Proof.Machine.execEnumReturn p slots overflow s
  | .measTrainReturn p r fs => Sys2Proof.Machine.execMeasTrainReturn p r fs s
  | .stepSent p => Sys2Proof.Machine.execStepSent p s
  | .stepTimeout p => Sys2Proof.Machine.execStepTimeout p s
  | .linkLoss p => Sys2Proof.Machine.execLinkLoss p s
  | .slackIdleEnter p => Sys2Proof.Machine.execSlackIdleEnter p s
  | .slackWakeStart p => Sys2Proof.Machine.execSlackWakeStart p s
  | .wakeTimeout p => Sys2Proof.Machine.execWakeTimeout p s
  | .txCfgWrite p v => Sys2Proof.Machine.execTxCfgWrite p v s
  | .txCfgApply p => Sys2Proof.Machine.execTxCfgApply p s
  | .cblDataAccess p write => Sys2Proof.Machine.execCblDataAccess p write s
  | .refPllLock g => Sys2Proof.Machine.execRefPllLock g s
  | .packerChunk g => Sys2Proof.Machine.execPackerChunk g s
  | .reportRx p payload diag => Sys2Proof.Machine.execReportRx p payload diag s
  | .flagHeadReturn p => Sys2Proof.Machine.execFlagHeadReturn p s
  | .pennantReturn p => Sys2Proof.Machine.execPennantReturn p s
  | .penLost p => Sys2Proof.Machine.execPenLost p s
  | .withdrawCmd g => Sys2Proof.Machine.execWithdrawCmd g s
  | .withdrawRestart g => Sys2Proof.Machine.execWithdrawRestart g s
  | .mfwRelayGo g => Sys2Proof.Machine.execMfwRelayGo g s
  | .mfwAbort g => Sys2Proof.Machine.execMfwAbort g s
  | .mfwActivateCmd g => Sys2Proof.Machine.execMfwActivateCmd g s
  | .mfwRelayDone g => Sys2Proof.Machine.execMfwRelayDone g s
  | .moduleEnumSlot p k d filled => Sys2Proof.Machine.execModuleEnumSlot p k d filled s
  | .moduleMeasSlot p k => Sys2Proof.Machine.execModuleMeasSlot p k s
  | .moduleAssignRx p k payload => Sys2Proof.Machine.execModuleAssignRx p k payload s
  | .moduleFlagPartRx p k head body temp => Sys2Proof.Machine.execModuleFlagPartRx p k head body temp s
  | .modulePennantRx p k a b => Sys2Proof.Machine.execModulePennantRx p k a b s
  | .moduleLatch p k meas => Sys2Proof.Machine.execModuleLatch p k meas s
  | .moduleWithdrawRx p k payload => Sys2Proof.Machine.execModuleWithdrawRx p k payload s
  | .moduleProbeRx p k payload => Sys2Proof.Machine.execModuleProbeRx p k payload s
  | .moduleProbePulse p k slot r0 r1 r2 => Sys2Proof.Machine.execModuleProbePulse p k slot r0 r1 r2 s
  | .moduleDiagCfgRx p k payload => Sys2Proof.Machine.execModuleDiagCfgRx p k payload s
  | .moduleUnmeasuredWindow p k lamp colour => Sys2Proof.Machine.execModuleUnmeasuredWindow p k lamp colour s
  | .moduleStepRx p k target => Sys2Proof.Machine.execModuleStepRx p k target s
  | .moduleSleepRx p k kind => Sys2Proof.Machine.execModuleSleepRx p k kind s
  | .moduleLinkLoss p k => Sys2Proof.Machine.execModuleLinkLoss p k s
  | .moduleHoldExpiry p k => Sys2Proof.Machine.execModuleHoldExpiry p k s
  | .moduleMfwChunkRx p k head data check ok => Sys2Proof.Machine.execModuleMfwChunkRx p k head data check ok s
  | .moduleMfwActivateRx p k payload => Sys2Proof.Machine.execModuleMfwActivateRx p k payload s
  | .moduleActivationEnd p k ok => Sys2Proof.Machine.execModuleActivationEnd p k ok s
  | .fmapMask => Sys2Proof.Machine.execFmapMask s
  | .fmapUnmask => Sys2Proof.Machine.execFmapUnmask s
  | .fmapClear => Sys2Proof.Machine.execFmapClear s
  | .fmapCmdDone => Sys2Proof.Machine.execFmapCmdDone s
  | .hbmRequestAdmit n => Sys2Proof.Machine.execHbmRequestAdmit n s
  | .hbmReadReply n => Sys2Proof.Machine.execHbmReadReply n s
  | .arbStarveTimeout => Sys2Proof.Machine.execArbStarveTimeout s
  | .pageIdleClose n bank => Sys2Proof.Machine.execPageIdleClose n bank s
  | .refDue n => Sys2Proof.Machine.execRefDue n s
  | .refIssue n => Sys2Proof.Machine.execRefIssue n s
  | .hbmTempSample t => Sys2Proof.Machine.execHbmTempSample t s
  | .hbmTempSampleTimeout => Sys2Proof.Machine.execHbmTempSampleTimeout s
  | .hbmParityError c same => Sys2Proof.Machine.execHbmParityError c same s
  | .hbmReplayDone c => Sys2Proof.Machine.execHbmReplayDone c s
  | .hbmRetrainDone c ok => Sys2Proof.Machine.execHbmRetrainDone c ok s
  | .scrubAccess => Sys2Proof.Machine.execScrubAccess s
  | .injArm kind => Sys2Proof.Machine.execInjArm kind s
  | .injCancel => Sys2Proof.Machine.execInjCancel s
  | .hbmTrainingDone fail chan repaired => Sys2Proof.Machine.execHbmTrainingDone fail chan repaired s
  | .bar2Write a bytes poisoned => Sys2Proof.Machine.execBar2Write a bytes poisoned s
  | .bar2Read a n => Sys2Proof.Machine.execBar2Read a n s
  | .pcieConfigRequest ready req => Sys2Proof.Machine.execPcieConfigRequest ready req s
  | .pcieHotReset => Sys2Proof.Machine.execPcieHotReset s
  | .pcieFlr => Sys2Proof.Machine.execPcieFlr s
  | .pcieLinkDown => Sys2Proof.Machine.execPcieLinkDown s
  | .pcieLinkChange speed width l1 => Sys2Proof.Machine.execPcieLinkChange speed width l1 s
  | .dbSeqWrite k seq => Sys2Proof.Machine.execDbSeqWrite k seq s
  | .doorbellReady k => Sys2Proof.Machine.execDoorbellReady k s
  | .dmaQtailWrite c v => Sys2Proof.Machine.execDmaQtailWrite c v s
  | .dmaToHbm c => Sys2Proof.Machine.execDmaToHbm c s
  | .dmaFromHbm c => Sys2Proof.Machine.execDmaFromHbm c s
  | .dmaFillBuf c => Sys2Proof.Machine.execDmaFillBuf c s
  | .dmaJobEnd c => Sys2Proof.Machine.execDmaJobEnd c s
  | .dmaAbort c => Sys2Proof.Machine.execDmaAbort c s
  | .dmaCompletionRx c job data => Sys2Proof.Machine.execDmaCompletionRx c job data s
  | .cplTimeout c => Sys2Proof.Machine.execCplTimeout c s
  | .driveEnableWrite v => Sys2Proof.Machine.execDriveEnableWrite v s
  | .driveLinkUp d speed width => Sys2Proof.Machine.execDriveLinkUp d speed width s
  | .driveLinkDown d => Sys2Proof.Machine.execDriveLinkDown d s
  | .driveInitDone d ok lbaLog2 blocks mdts mqes => Sys2Proof.Machine.execDriveInitDone d ok lbaLog2 blocks mdts mqes s
  | .nvmeCompletion d tag field data => Sys2Proof.Machine.execNvmeCompletion d tag field data s
  | .nvmeCmdTimeout d tag => Sys2Proof.Machine.execNvmeCmdTimeout d tag s
  | .strStart k => Sys2Proof.Machine.execStrStart k s
  | .strStop k => Sys2Proof.Machine.execStrStop k s
  | .strSeek k => Sys2Proof.Machine.execStrSeek k s
  | .strConsume k => Sys2Proof.Machine.execStrConsume k s
  | .nvmeReqRead d => Sys2Proof.Machine.execNvmeReqRead d s
  | .nvmeReqWrite d => Sys2Proof.Machine.execNvmeReqWrite d s
  | .nvmeReqFlush d => Sys2Proof.Machine.execNvmeReqFlush d s
  | .nvmeReqDone => Sys2Proof.Machine.execNvmeReqDone s
  | .recEnter key => Sys2Proof.Machine.execRecEnter key s
  | .recGo src => Sys2Proof.Machine.execRecGo src s
  | .recDataWrite v => Sys2Proof.Machine.execRecDataWrite v s
  | .recCheckDone => Sys2Proof.Machine.execRecCheckDone s
  | .recImageStarted => Sys2Proof.Machine.execRecImageStarted s
  | .netFrameRx n bytes full => Sys2Proof.Machine.execNetFrameRx n bytes full s
  | .flowFrameTimeout f which => Sys2Proof.Machine.execFlowFrameTimeout f which s
  | .flowFrameReady f => Sys2Proof.Machine.execFlowFrameReady f s
  | .flowStart f => Sys2Proof.Machine.execFlowStart f s
  | .flowStop f => Sys2Proof.Machine.execFlowStop f s
  | .netLinkChange n up align anDone fec => Sys2Proof.Machine.execNetLinkChange n up align anDone fec s
  | .csiFrameStart c vc => Sys2Proof.Machine.execCsiFrameStart c vc s
  | .csiLine c vc dt raw hdr crc full => Sys2Proof.Machine.execCsiLine c vc dt raw hdr crc full s
  | .csiFrameEnd c vc => Sys2Proof.Machine.execCsiFrameEnd c vc s
  | .camFrameTimeout c => Sys2Proof.Machine.execCamFrameTimeout c s
  | .camFrSeqRead c => Sys2Proof.Machine.execCamFrSeqRead c s
  | .camTrigger c k frame => Sys2Proof.Machine.execCamTrigger c k frame s
  | .trigStart c => Sys2Proof.Machine.execTrigStart c s
  | .trigStop c => Sys2Proof.Machine.execTrigStop c s
  | .setArm c next => Sys2Proof.Machine.execSetArm c next s
  | .setWriteStart c => Sys2Proof.Machine.execSetWriteStart c s
  | .i2cTransaction c nack => Sys2Proof.Machine.execI2cTransaction c nack s
  | .i2cBusStuckTimeout c => Sys2Proof.Machine.execI2cBusStuckTimeout c s
  | .setComplete c => Sys2Proof.Machine.execSetComplete c s
  | .statsWritten c => Sys2Proof.Machine.execStatsWritten c s
  | .spotListDone c => Sys2Proof.Machine.execSpotListDone c s
  | .audStart a => Sys2Proof.Machine.execAudStart a s
  | .audStop a => Sys2Proof.Machine.execAudStop a s
  | .afsyncEdge a clocks => Sys2Proof.Machine.execAfsyncEdge a clocks s
  | .audTxFetch a => Sys2Proof.Machine.execAudTxFetch a s
  | .audRxWrite a slots => Sys2Proof.Machine.execAudRxWrite a slots s
  | .audClockLossTimeout a => Sys2Proof.Machine.execAudClockLossTimeout a s
  | .audVirtualFrame a => Sys2Proof.Machine.execAudVirtualFrame a s
  | .audLastStampRead a => Sys2Proof.Machine.execAudLastStampRead a s
  | .blitFill => Sys2Proof.Machine.execBlitFill s
  | .blitCopy => Sys2Proof.Machine.execBlitCopy s
  | .blitGlyph => Sys2Proof.Machine.execBlitGlyph s
  | .blitComplete => Sys2Proof.Machine.execBlitComplete s
  | .blitAbort rows => Sys2Proof.Machine.execBlitAbort rows s
  | .getInfo tag => Sys2Proof.Machine.execGetInfo tag s
  | .imgStage a n tag => Sys2Proof.Machine.execImgStage a n tag s
  | .imgStore cls target boot tag nv => Sys2Proof.Machine.execImgStore cls target boot tag nv s
  | .imgClear cls target tag => Sys2Proof.Machine.execImgClear cls target tag s
  | .cpHandover nvm slot tag => Sys2Proof.Machine.execCpHandover nvm slot tag s
  | .helperUpdate h tag => Sys2Proof.Machine.execHelperUpdate h tag s
  | .settingsRead tag => Sys2Proof.Machine.execSettingsRead tag s
  | .settingsWrite p tag nv => Sys2Proof.Machine.execSettingsWrite p tag nv s
  | .policy a n tag nv => Sys2Proof.Machine.execPolicy a n tag nv s
  | .keyEnroll a n tag => Sys2Proof.Machine.execKeyEnroll a n tag s
  | .keyRevoke a n tag => Sys2Proof.Machine.execKeyRevoke a n tag s
  | .svnAdvance a n tag => Sys2Proof.Machine.execSvnAdvance a n tag s
  | .attest a nonce tag => Sys2Proof.Machine.execAttest a nonce tag s
  | .lifetimeRead tag => Sys2Proof.Machine.execLifetimeRead tag s
  | .campaignArm a n ns sec tag => Sys2Proof.Machine.execCampaignArm a n ns sec tag s
  | .campaignStatus tag => Sys2Proof.Machine.execCampaignStatus tag s
  | .campaignCancel tag => Sys2Proof.Machine.execCampaignCancel tag s
  | .ensignRegion g rings tag => Sys2Proof.Machine.execEnsignRegion g rings tag s
  | .ensignPalette words tag => Sys2Proof.Machine.execEnsignPalette words tag s
  | .ensignLoad a first lamps tag => Sys2Proof.Machine.execEnsignLoad a first lamps tag s
  | .mbResponse => Sys2Proof.Machine.execMbResponse s
  | .mbTimeout => Sys2Proof.Machine.execMbTimeout s
  | .helperWatchdogExpiry h => Sys2Proof.Machine.execHelperWatchdogExpiry h s
  | .helperSelfCheckEnd h passed => Sys2Proof.Machine.execHelperSelfCheckEnd h passed s
  | .autoLoadSequence => Sys2Proof.Machine.execAutoLoadSequence s
  | .bootRom => Sys2Proof.Machine.execBootRom s
  | .settingsMigration => Sys2Proof.Machine.execSettingsMigration s
  | .handoverLoadDone => Sys2Proof.Machine.execHandoverLoadDone s
  | .handoverShadowDone passed => Sys2Proof.Machine.execHandoverShadowDone passed s
  | .handoverSwitchDone => Sys2Proof.Machine.execHandoverSwitchDone s
  | .handoverProbationPass => Sys2Proof.Machine.execHandoverProbationPass s
  | .cpWatchdogExpiry => Sys2Proof.Machine.execCpWatchdogExpiry s
  | .campaignTimeT => Sys2Proof.Machine.execCampaignTimeT s
  | .lifetimeLogAppend ok => Sys2Proof.Machine.execLifetimeLogAppend ok s
  | .sensorSample readings => Sys2Proof.Machine.execSensorSample readings s
  | .riseHoldExpiry => Sys2Proof.Machine.execRiseHoldExpiry s
  | .governorTick => Sys2Proof.Machine.execGovernorTick s
  | .calPeriodTimer => Sys2Proof.Machine.execCalPeriodTimer s
  | .calRun => Sys2Proof.Machine.execCalRun s
  | .calSave => Sys2Proof.Machine.execCalSave s
  | .calSaveDone ok => Sys2Proof.Machine.execCalSaveDone ok s
  | .calPassDone => Sys2Proof.Machine.execCalPassDone s
  | .calStepApply k sum => Sys2Proof.Machine.execCalStepApply k sum s
  | .calDeferTimeout k => Sys2Proof.Machine.execCalDeferTimeout k s
  | .vddCoreOff => Sys2Proof.Machine.execVddCoreOff s
  | .abclkRelock a => Sys2Proof.Machine.execAbclkRelock a s
  | .moduleRxBlockLock p k => Sys2Proof.Machine.execModuleRxBlockLock p k s
  | .ptpMessageTx kind standby => Sys2Proof.Machine.execPtpMessageTx kind standby s
  | .csiLaneSignalChange c signal ulps => Sys2Proof.Machine.execCsiLaneSignalChange c signal ulps s

end Sys2Proof.Machine
end

