-- ==== Sys2Proof/WellFormed.lean ====
section
/-!
DEFINITION. Which commands a sender can supply: the operands lie in the ranges that the spec gives them. `exec` does not ask:
a command whose operands exceed their fields acts on what the fields hold, and a request of a form that its Weir does not carry
changes nothing.
-/
namespace Sys2Proof

open Machine

/-- The page is in group g's commit domain, or in the banked domain (R52). -/
def Page.gateOf (p : Page) (g : Fin 16) : Bool := decide (domainOf p = .group g) || decide (domainOf p = .banked)

/-- A span of BAR2: not empty, and inside the aperture of 2^35 bytes (R36). -/
def spanOk (a : BitVec 35) (n : Nat) : Bool := decide (0 < n) && decide (a.toNat + n ≤ 2 ^ 35)

/-- The operands of a command are of the form the spec gives them. -/
def Instr.wf : Instr → Bool
  | .regWrite a wide _ => decide (a.toNat % (if wide then 8 else 4) = 0)
  | .pairLoRead r => decide (r.addr.toNat % (if r.wide then 8 else 4) = 0)
  | .cmtArm p _ | .cmtCancel p _ => decide (domainOf p ≠ .none)
  | .cmtArmAtGate p g | .noframeCommitApply p g => p.gateOf g
  | .localCommitApply p | .localSchedCommitDue p => decide (domainOf p = .loc)
  | .slotArm _ action target width => decide (action < 8) && decide (target < 16) && decide (width < 256)
  | .enumReturn _ slots _ => decide (slots.length ≤ 192)
  | .measTrainReturn _ _ fs => decide (fs.length ≤ 192)
  | .moduleEnumSlot _ _ d filled => decide (filled ≤ 192) && decide (d.lw ≤ 256) && decide (d.lh ≤ 256)
  | .bar2Write a bs _ => spanOk a bs.length
  | .bar2Read a n => spanOk a n
  | .dmaCompletionRx _ _ data => decide ((data.getD []).length ≤ 4096)
  | .netFrameRx _ bytes _ => decide (14 ≤ bytes.length)
  | .audRxWrite _ slots => decide (slots.length ≤ 32)
  | .settingsWrite p _ _ => decide (p.length = 8)
  | .attest _ nonce _ => decide (nonce.length = 8)
  | .ensignRegion _ rings _ => decide (rings.length = 16)
  | .ensignPalette words _ => decide (words.length = 32)
  | .sensorSample readings => decide (readings.length = 24)
  | .weirRequest w _ r => weirTagged w.val && reqFits w.val r
  | .weirDeliver x => weirTagged x.w.val
  | .accessErr .. | .evPendClear .. | .evSetWrite .. | .glbEoi .. | .msixUnmask .. | .glbFlushRead ..
  | .glbFlushComplete .. | .cmtHoldWrite .. | .closeNoticeArrival .. | .bankCommitApply .. | .pctrlResumeSet ..
  | .pctrlReqOff .. | .pctrlReqReset .. | .pctrlReqIdle .. | .pctrlReqRun .. | .pctrlReqUpdate .. | .powerSwitchClosed ..
  | .islandResetExit .. | .islandWeirsClosed .. | .runToIdleDrainDone .. | .islandSelfCheckEnd .. | .porstNAssert ..
  | .porstNRise .. | .perstNAssert .. | .perstNDeassert .. | .abclkLoss .. | .timeBaseTick .. | .nowNsRead .. | .timeSet ..
  | .timeAdd .. | .timeSlew .. | .timeSlewEnd .. | .servoSample .. | .servoFreqSample .. | .servoHoldTimeout ..
  | .ptpMessageRx .. | .ptpAnnounceTimeout .. | .refInputEdge .. | .trackerStop .. | .refInLoss .. | .trackerOutputEdge ..
  | .syncEdgeNsRead .. | .slotDisarm .. | .slotFire .. | .frameLatch .. | .phaseStart .. | .stillStart ..
  | .shutterPulse .. | .genReqStopped .. | .genReqSlack .. | .genReqRun .. | .genReqEnsign .. | .commitClose ..
  | .streamStart .. | .frameComposeBegin .. | .pennantDepart .. | .bufClaim .. | .bufReady .. | .bufFree .. | .bufRetire ..
  | .layrTableBaseWrite .. | .lutFillStart .. | .lutFillDone .. | .lutDataAccess .. | .layrArmLoaded .. | .geomArmLoaded ..
  | .meshWrite .. | .meshRead .. | .ctxDataWrite .. | .typeCfgWrite .. | .viewXyWrite .. | .viewZAccess ..
  | .modulePatchLoad .. | .rayChunk .. | .texelFetchReply .. | .rayCompose .. | .frameComposed .. | .frameAbandon ..
  | .olutFillStart .. | .olutFillDone .. | .olutDataAccess .. | .kernDataAccess .. | .sigRegionComplete ..
  | .sigTripClear .. | .wbFrameDone .. | .ensignRender .. | .scalJobCmd .. | .scalJobStart .. | .scalJobDone ..
  | .scalJobFail .. | .coefDataAccess .. | .pmapDataAccess .. | .codecQueueConfigWrite .. | .codecQTailWrite ..
  | .codecDecode .. | .codecEncode .. | .codecTranscode .. | .codecSaveState .. | .codecLoadState .. | .codecJobEnd ..
  | .codecAbort .. | .codecStateClaim .. | .codecStateRelease .. | .trimTableBaseWrite .. | .trimWordReply ..
  | .tpDataAccess .. | .wearSecondUpdate .. | .wearUpdateDone .. | .wearHoldRelease .. | .wearCkptNow ..
  | .wearCkptTimer .. | .wearCkptEnd .. | .mfGo .. | .rgnWrite .. | .updWords .. | .updBamler .. | .updMeasurements ..
  | .updRequestStart .. | .updFillDone .. | .updCopyStart .. | .updCopyDone .. | .updDrainDone .. | .linkCmdUp ..
  | .linkCmdDown .. | .linkCmdRemeasure .. | .linkCmdRestep .. | .linkCmdSleepIdle .. | .linkCmdSleepDeep ..
  | .linkCmdWake .. | .grpCmdUp .. | .grpCmdDown .. | .grpCmdRemeasure .. | .grpCmdRestep .. | .linkAutoUpTimer ..
  | .linkResetTimer .. | .linkTrainReturn .. | .linkTrainTimeout .. | .stepSent .. | .stepTimeout .. | .linkLoss ..
  | .slackIdleEnter .. | .slackWakeStart .. | .wakeTimeout .. | .txCfgWrite .. | .txCfgApply .. | .cblDataAccess ..
  | .refPllLock .. | .packerChunk .. | .reportRx .. | .flagHeadReturn .. | .pennantReturn .. | .penLost ..
  | .withdrawCmd .. | .withdrawRestart .. | .mfwRelayGo .. | .mfwAbort .. | .mfwActivateCmd .. | .mfwRelayDone ..
  | .moduleMeasSlot .. | .moduleAssignRx .. | .moduleFlagPartRx .. | .modulePennantRx .. | .moduleLatch ..
  | .moduleWithdrawRx .. | .moduleProbeRx .. | .moduleProbePulse .. | .moduleDiagCfgRx .. | .moduleUnmeasuredWindow ..
  | .moduleStepRx .. | .moduleSleepRx .. | .moduleLinkLoss .. | .moduleHoldExpiry .. | .moduleMfwChunkRx ..
  | .moduleMfwActivateRx .. | .moduleActivationEnd .. | .fmapMask .. | .fmapUnmask .. | .fmapClear .. | .fmapCmdDone ..
  | .hbmRequestAdmit .. | .hbmReadReply .. | .arbStarveTimeout .. | .pageIdleClose .. | .refDue .. | .refIssue ..
  | .hbmTempSample .. | .hbmTempSampleTimeout .. | .hbmParityError .. | .hbmReplayDone .. | .hbmRetrainDone ..
  | .scrubAccess .. | .injArm .. | .injCancel .. | .hbmTrainingDone .. | .pcieConfigRequest .. | .pcieHotReset ..
  | .pcieFlr .. | .pcieLinkDown .. | .pcieLinkChange .. | .dbSeqWrite .. | .doorbellReady .. | .dmaQtailWrite ..
  | .dmaToHbm .. | .dmaFromHbm .. | .dmaFillBuf .. | .dmaJobEnd .. | .dmaAbort .. | .cplTimeout .. | .driveEnableWrite ..
  | .driveLinkUp .. | .driveLinkDown .. | .driveInitDone .. | .nvmeCompletion .. | .nvmeCmdTimeout .. | .strStart ..
  | .strStop .. | .strSeek .. | .strConsume .. | .nvmeReqRead .. | .nvmeReqWrite .. | .nvmeReqFlush .. | .nvmeReqDone ..
  | .recEnter .. | .recGo .. | .recDataWrite .. | .recCheckDone .. | .recImageStarted .. | .flowFrameTimeout ..
  | .flowFrameReady .. | .flowStart .. | .flowStop .. | .netLinkChange .. | .csiFrameStart .. | .csiLine ..
  | .csiFrameEnd .. | .camFrameTimeout .. | .camFrSeqRead .. | .camTrigger .. | .trigStart .. | .trigStop .. | .setArm ..
  | .setWriteStart .. | .i2cTransaction .. | .i2cBusStuckTimeout .. | .setComplete .. | .statsWritten .. | .spotListDone ..
  | .audStart .. | .audStop .. | .afsyncEdge .. | .audTxFetch .. | .audClockLossTimeout .. | .audVirtualFrame ..
  | .audLastStampRead .. | .blitFill .. | .blitCopy .. | .blitGlyph .. | .blitComplete .. | .blitAbort .. | .getInfo ..
  | .imgStage .. | .imgStore .. | .imgClear .. | .cpHandover .. | .helperUpdate .. | .settingsRead .. | .policy ..
  | .keyEnroll .. | .keyRevoke .. | .svnAdvance .. | .lifetimeRead .. | .campaignArm .. | .campaignStatus ..
  | .campaignCancel .. | .ensignLoad .. | .mbResponse .. | .mbTimeout .. | .helperWatchdogExpiry ..
  | .helperSelfCheckEnd .. | .autoLoadSequence .. | .bootRom .. | .settingsMigration .. | .handoverLoadDone ..
  | .handoverShadowDone .. | .handoverSwitchDone .. | .handoverProbationPass .. | .cpWatchdogExpiry .. | .campaignTimeT ..
  | .lifetimeLogAppend .. | .riseHoldExpiry .. | .governorTick .. | .calPeriodTimer .. | .calRun .. | .calSave ..
  | .calSaveDone .. | .calPassDone .. | .calStepApply .. | .calDeferTimeout .. | .vddCoreOff .. | .abclkRelock ..
  | .moduleRxBlockLock .. | .ptpMessageTx .. | .csiLaneSignalChange .. => true

end Sys2Proof
end

