-- ==== Sys2Proof/Safety.lean ====
section
/-!
DEFINITION. What counts as a safe run, in the terms that the statements use.
-/
namespace Sys2Proof.Machine

/-- The vector inputs are what the summary tree drives: each input is the OR of the summary groups whose enabled VEC_MAP entry
names it (R49, R50). The invariant of every step. -/
def State.vectorsFollow (s : State) : Prop := s.msix.inputs = vecInputs s

/-- HBM's bytes are listed in their one canonical form. -/
def State.memCanonical (s : State) : Prop := mapWf memDefault s.mem = true

/-- A step is safe where it answers a next state: it neither faults nor is refused. -/
def SafeStep (s : State) : Prop := ∃ t, step s = .next t

/-- A run of `n` steps is safe where every step of it is. -/
def SafeRun : Nat → State → Prop
  | 0, _ => True
  | n + 1, s => ∃ t, step s = .next t ∧ SafeRun n t

end Sys2Proof.Machine
end

