-- ==== Sys2Proof/Certificates/Slice0/Obligations.lean ====
section
/-!
DEFINITION. The statements for the provers. An instruction of this block is a command; the state it answers is compared with the
state before it field by field: `t = { s with f := t.f, … }` says that no field but those named changes.
-/

open Sys2Proof Sys2Proof.Machine

/-! ## The machine as a whole -/

/-- A step takes the command at the front of the queue and runs it on the state with the queue's rest. -/
def Obligations.StepRunsFrontCommand : Prop :=
  ∀ (c : Instr) (r : List Instr) (s : State), step { s with pending := c :: r } = exec c { s with pending := r }

/-- R43, R47, R39: what PORST_N leaves. AON is in RUN and every other island of the part in RESET, every EV_PEND is 0, and every
register reads its Reset value. -/
def Obligations.ResetState : Prop :=
  islState State.reset 0 = .run ∧
  (∀ k, 0 < k → k < 44 → islState State.reset k = .reset) ∧
  (∀ p, evPend State.reset p = 0) ∧
  (∀ p off, off < 4096 → reg State.reset p off = regResetOf (kindOf p) off) ∧
  State.reset.pending = []

/-- R49, R50: the invariant of the summary tree holds after reset. -/
def Obligations.VectorsFollowAtReset : Prop := State.reset.vectorsFollow

/-- R49, R50: in every state, after every command, each MSI-X vector's input is the OR of the summary groups that an enabled
VEC_MAP entry maps to it. -/
def Obligations.VectorsFollowEveryStep : Prop :=
  ∀ (s t : State), s.vectorsFollow → step s = .next t → t.vectorsFollow

/-- Every command that a sender can supply answers a next state, in every state. -/
def Obligations.EveryCommandCompletes : Prop :=
  ∀ (c : Instr) (s : State), c.wf = true → ∃ t, exec c s = .next t

/-- R50: driving the vectors changes nothing but the MSI-X state; while MSI-X Enable is 0 no message is sent and no pending bit is set;
while Function Mask is 1 no message is sent. R50: GLB.EOI written with a vector whose input is 1 sends its message, or sets its pending
bit while it is masked; with a vector whose input is 0 it sends nothing. Unmasking a vector whose pending bit is set sends its message and
clears the bit. -/
def Obligations.VectorMessages : Prop :=
  (∀ s : State,
     settle s = { s with msix := (settle s).msix } ∧
     (s.msix.enable = false → (settle s).msix.sent = s.msix.sent ∧ (settle s).msix.pend = s.msix.pend) ∧
     (s.msix.funcMask = true → (settle s).msix.sent = s.msix.sent) ∧
     (∀ v, s.msix.enable = true → s.msix.funcMask = false → v ∈ s.msix.unmasked → v ∈ vecInputs s → v ∉ s.msix.inputs →
       v ∈ (settle s).msix.sent)) ∧
  ((∀ (s : State) (v : Word), s.vectorsFollow → s.msix.enable = true →
     ∃ t, exec (.glbEoi v) s = .next t ∧
       t.msix = (if (vecInputs s).contains (fld v 0 6) then
           (if s.msix.funcMask || !s.msix.unmasked.contains (fld v 0 6) then
             { s.msix with pend := if s.msix.pend.contains (fld v 0 6) then s.msix.pend else fld v 0 6 :: s.msix.pend }
           else { s.msix with sent := fld v 0 6 :: s.msix.sent }) else s.msix) ∧
       t = { s with msix := t.msix }) ∧
   (∀ (s : State) (v : Fin 64), s.vectorsFollow → islandUp s islHost = true → s.msix.enable = true → s.msix.funcMask = false →
     v.val ∈ s.msix.pend →
     ∃ t, exec (.msixUnmask v) s = .next t ∧ t.msix.sent = v.val :: s.msix.sent ∧ v.val ∉ t.msix.pend ∧ v.val ∈ t.msix.unmasked ∧
       (∀ x, x ≠ v.val → (x ∈ t.msix.pend ↔ x ∈ s.msix.pend)) ∧ t = { s with msix := t.msix }))

/-- R37: the page map. Each page lies at the base of the table, its PID shows the block type and the instance number, and the page
has the island and the commit domain of the table. A page's slot names the page, and no slot names another. -/
def Obligations.PageMapRoundTrip : Prop :=
  let pidFields (p : Page) : Nat × Nat := ((pidOf p).toNat / 2 ^ 16, (pidOf p).toNat / 2 ^ 8 % 2 ^ 8)
  (pageBase .glb = 0x0 ∧ (pidOf .glb).toNat / 2 ^ 16 = 0x0001 ∧ islandOf .glb = 0 ∧ domainOf .glb = .none) ∧
  (pageBase .isl = 0x1000 ∧ pidFields .isl = (0x0002, 0) ∧ islandOf .isl = 0 ∧ domainOf .isl = .none) ∧
  (pageBase .cpm = 0x10000 ∧ pidFields .cpm = (0x0003, 0) ∧ islandOf .cpm = islCtl ∧ domainOf .cpm = .none) ∧
  (pageBase .sec = 0x11000 ∧ pidFields .sec = (0x0004, 0) ∧ islandOf .sec = islCtl ∧ domainOf .sec = .none) ∧
  (pageBase .time = 0x20000 ∧ pidFields .time = (0x0005, 0) ∧ islandOf .time = 0 ∧ domainOf .time = .loc) ∧
  (pageBase .sync = 0x21000 ∧ pidFields .sync = (0x0006, 0) ∧ islandOf .sync = 0 ∧ domainOf .sync = .loc) ∧
  (∀ g : Fin 16, pageBase (.tgen g) = 0x30000 + g.val * 0x1000 ∧ pidFields (.tgen g) = (0x0010, g.val) ∧
    islandOf (.tgen g) = islPgrp g.val ∧ domainOf (.tgen g) = .group g) ∧
  (pageBase .layr = 0x40000 ∧ pidFields .layr = (0x0011, 0) ∧ islandOf .layr = islFab ∧ domainOf .layr = .banked) ∧
  (pageBase .geom = 0x41000 ∧ pidFields .geom = (0x0012, 0) ∧ islandOf .geom = islFab ∧ domainOf .geom = .banked) ∧
  (∀ e : Fin 16, pageBase (.reng e) = 0x50000 + e.val * 0x1000 ∧ pidFields (.reng e) = (0x0013, e.val) ∧
    islandOf (.reng e) = islRay e.val ∧ domainOf (.reng e) = .group e) ∧
  (pageBase .scal = 0x60000 ∧ pidFields .scal = (0x0014, 0) ∧ islandOf .scal = islMedia ∧ domainOf .scal = .loc) ∧
  (∀ c : Fin 4, pageBase (.codec c) = 0x61000 + c.val * 0x1000 ∧ pidFields (.codec c) = (0x0015, c.val) ∧
    islandOf (.codec c) = islMedia ∧ domainOf (.codec c) = .loc) ∧
  (pageBase .trim = 0x70000 ∧ pidFields .trim = (0x0016, 0) ∧ islandOf .trim = islFab ∧ domainOf .trim = .banked) ∧
  (pageBase .fade = 0x71000 ∧ pidFields .fade = (0x0017, 0) ∧ islandOf .fade = islFab ∧ domainOf .fade = .banked) ∧
  (∀ p : Fin 256, pageBase (.bport p) = 0x100000 + p.val * 0x1000 ∧ pidFields (.bport p) = (0x0020, p.val) ∧
    islandOf (.bport p) = islPgrp (p.val / 16) ∧ domainOf (.bport p) = .group ⟨p.val / 16, by omega⟩) ∧
  (∀ g : Fin 16, pageBase (.bgrp g) = 0x200000 + g.val * 0x1000 ∧ pidFields (.bgrp g) = (0x0021, g.val) ∧
    islandOf (.bgrp g) = islPgrp g.val ∧ domainOf (.bgrp g) = .group g) ∧
  (pageBase .diag = 0x210000 ∧ pidFields .diag = (0x0022, 0) ∧ islandOf .diag = islCtl ∧ domainOf .diag = .banked) ∧
  (pageBase .hbm = 0x300000 ∧ pidFields .hbm = (0x0030, 0) ∧ islandOf .hbm = islHbm ∧ domainOf .hbm = .loc) ∧
  (∀ n : Fin 16, pageBase (.hbmpc n) = 0x301000 + n.val * 0x1000 ∧ pidFields (.hbmpc n) = (0x0031, n.val) ∧
    islandOf (.hbmpc n) = islHbm ∧ domainOf (.hbmpc n) = .loc) ∧
  (pageBase .fab = 0x311000 ∧ pidFields .fab = (0x0032, 0) ∧ islandOf .fab = islFab ∧ domainOf .fab = .loc) ∧
  (pageBase .pcie = 0x400000 ∧ pidFields .pcie = (0x0040, 0) ∧ islandOf .pcie = islHost ∧ domainOf .pcie = .none) ∧
  (pageBase .nvme = 0x410000 ∧ pidFields .nvme = (0x0041, 0) ∧ islandOf .nvme = islHost ∧ domainOf .nvme = .loc) ∧
  (∀ n : Fin 16, pageBase (.net n) = 0x500000 + n.val * 0x1000 ∧ pidFields (.net n) = (0x0050, n.val) ∧
    islandOf (.net n) = islNet ∧ domainOf (.net n) = .loc) ∧
  (pageBase .flow = 0x510000 ∧ pidFields .flow = (0x0051, 0) ∧ islandOf .flow = islNet ∧ domainOf .flow = .loc) ∧
  (∀ c : Fin 4, pageBase (.cam c) = 0x600000 + c.val * 0x1000 ∧ pidFields (.cam c) = (0x0060, c.val) ∧
    islandOf (.cam c) = islCam ∧ domainOf (.cam c) = .loc) ∧
  (∀ a : Fin 4, pageBase (.aud a) = 0x610000 + a.val * 0x1000 ∧ pidFields (.aud a) = (0x0061, a.val) ∧
    islandOf (.aud a) = islAud a.val ∧ domainOf (.aud a) = .loc) ∧
  (pageBase .blit = 0x620000 ∧ pidFields .blit = (0x0062, 0) ∧ islandOf .blit = islMedia ∧ domainOf .blit = .none) ∧
  (pageBase .thrm = 0x700000 ∧ pidFields .thrm = (0x0070, 0) ∧ islandOf .thrm = 0 ∧ domainOf .thrm = .loc) ∧
  (pageBase .cal = 0x701000 ∧ pidFields .cal = (0x0071, 0) ∧ islandOf .cal = islCtl ∧ domainOf .cal = .loc) ∧
  (∀ p : Page, pageOfSlot (pageSlot p) = some p) ∧
  (∀ (n : Nat) (p : Page), pageOfSlot n = some p → pageSlot p = n)

/-- The sparse maps that hold the registers, the units and HBM: a read after a write gives what was written, every other key
keeps its value; a write of bytes to HBM stores exactly those bytes and keeps the canonical form. -/
def Obligations.StoreReadBack : Prop :=
  (∀ (s : State) (p q : Page) (o o' : Nat) (w : Word), o < 4096 → o' < 4096 →
    reg (setReg s p o w) q o' = if q = p ∧ o' = o then w else reg s q o') ∧
  (∀ (s : State) (a k : Nat) (bs : List Byte), s.ecc = [] →
    memByte (memPut s a bs) k = if a ≤ k ∧ k < a + bs.length then bs.getD (k - a) 0 else memByte s k) ∧
  (∀ (s : State) (a : Nat) (bs : List Byte), s.memCanonical → (memPut s a bs).memCanonical)

/-! ## Register pages, events and vectors (spec/02_register_pages.md) -/

/-- R14, R40, R62: a host write of a register that has no behaviour of its own, in a page that answers. An RWS register takes the word
whole into the shadow that its bank selects; in any other register the RW bits take the word, a 1 clears a W1C bit, and every other bit
stands. No other register and nothing else of the machine changes. R4, R35, R38, R40: a write to a page slot that the page map does not
assign, to an absent page, or to a page whose island is not IDLE or RUN (but for PCTRL) is discarded. R62: a misaligned or partial access
of a host that is reached raises ACCESS_ERR in GLB; a write is discarded and a read returns all ones. -/
def Obligations.RegisterWrites : Prop :=
  (∀ (s : State) (p : Page) (off : Nat) (a : BitVec 26) (v : BitVec 64) (r : RegRow),
     hostReach s = true → pageUp s p = true → off < 4096 → off % 4 = 0 → a.toNat = pageBase p + off → off ≠ Off.HDR_PCTRL →
     actWrite s p off (v.setWidth 32) = none → regRow (kindOf p) off = some r →
     ∃ t, exec (.regWrite a false v) s = .next t ∧
       (r.rws ≠ 0 → regBank t p (bankSel s p) off = v.setWidth 32) ∧
       (r.rws = 0 → ∀ i, i < 32 → bitOf (reg t p off) i =
         ((r.rw.testBit i && v.toNat.testBit i) || (r.w1c.testBit i && bitOf (reg s p off) i && !v.toNat.testBit i)
           || (!r.rw.testBit i && !r.w1c.testBit i && bitOf (reg s p off) i))) ∧
       (∀ q b o, regKey q o b ≠ regKey p off (if r.rws = 0 then 0 else bankSel s p) → regBank t q b o = regBank s q b o) ∧
       t = { s with regs := t.regs, msix := t.msix }) ∧
  (∀ (s : State) (n off : Nat) (a : BitVec 26) (v : BitVec 64),
     n < 4096 → off < 4096 → off % 4 = 0 → a.toNat = n * 4096 + off → off ≠ Off.HDR_PCTRL →
     (∀ p, pageOfSlot n = some p → pageUp s p = false) →
     ∃ t, exec (.regWrite a false v) s = .next t ∧ t = { s with msix := t.msix }) ∧
  (∀ (s : State) (a : BitVec 26) (isWrite : Bool), hostReach s = true → pageUp s .glb = true →
     ∃ t, exec (.accessErr a isWrite) s = .next t ∧ evPend t .glb = putBit (evPend s .glb) 0 true ∧
       t.lastRead = (if isWrite then s.lastRead else 0xFFFFFFFF) ∧
       t = { s with evPend := t.evPend, lastRead := t.lastRead, msix := t.msix })

/-- R65: a 32-bit read of the _LO word of a changing pair returns it and captures the _HI word of the same instant, which the next read
of _HI returns and forgets; a 64-bit read returns both words of one instant and leaves nothing captured. R66: a read of GLB.FLUSH
returns 0 once no earlier BAR2 write waits, and at once while HBM or FAB is not in RUN; else it waits, and completes when the last of
them has become visible. -/
def Obligations.CapturingReads : Prop :=
  ((∀ (s : State) (p : Page) (off : Nat) (a : BitVec 26),
     hostReach s = true → pageUp s p = true → 0x80 ≤ off → off < 4092 → off % 4 = 0 → a.toNat = pageBase p + off →
     pairLo p off = true → mapGet (fun _ => (none : Option Word)) s.captures (regKey p off 0) = none →
     portRead s p off = none → freeView s p off = none → (∀ k, p ≠ .sync ∧ p ≠ .tgen k) →
     ∃ t, exec (.pairLoRead ⟨a, false⟩) s = .next t ∧ t.lastRead = regView s p off ∧
       t.captures = mapSet (fun _ => none) s.captures (regKey p (off + 4) 0) (some (regView s p (off + 4))) ∧
       t = { s with lastRead := t.lastRead, captures := t.captures, msix := t.msix }) ∧
   (∀ (s : State) (p : Page) (off : Nat) (a : BitVec 26) (w : Word),
     hostReach s = true → pageUp s p = true → 0x80 ≤ off → off < 4096 → off % 4 = 0 → a.toNat = pageBase p + off →
     mapGet (fun _ => (none : Option Word)) s.captures (regKey p off 0) = some w →
     ∃ t, exec (.pairLoRead ⟨a, false⟩) s = .next t ∧ t.lastRead = w ∧
       t.captures = mapSet (fun _ => none) s.captures (regKey p off 0) none ∧
       t = { s with lastRead := t.lastRead, captures := t.captures, msix := t.msix }) ∧
   (∀ (s : State) (p : Page) (off : Nat) (a : BitVec 26),
     hostReach s = true → pageUp s p = true → 0x80 ≤ off → off < 4088 → off % 8 = 0 → a.toNat = pageBase p + off →
     pairLo p off = true → mapGet (fun _ => (none : Option Word)) s.captures (regKey p off 0) = none →
     portRead s p off = none → freeView s p off = none → (∀ k, p ≠ .sync ∧ p ≠ .tgen k) →
     ∃ t, exec (.pairLoRead ⟨a, true⟩) s = .next t ∧ t.lastRead = regView s p off ∧ t.lastReadHi = regView s p (off + 4) ∧
       (∀ j, mapGet (fun _ => none) t.captures j = if j = regKey p (off + 4) 0 then none else mapGet (fun _ => none) s.captures j) ∧
       t = { s with lastRead := t.lastRead, lastReadHi := t.lastReadHi, captures := t.captures, msix := t.msix })) ∧
  ((∀ s : State, ∃ t, exec .glbFlushRead s = .next t ∧
     (bar2Waits s = false ∨ hbmLive s = false → t = { s with lastRead := 0, msix := t.msix }) ∧
     (bar2Waits s = true → hbmLive s = true → t = { s with bar2 := { s.bar2 with flush := true }, msix := t.msix })) ∧
   (∀ s : State, s.bar2.flush = true → (bar2Waits s = false ∨ hbmLive s = false) →
     ∃ t, exec .glbFlushComplete s = .next t ∧
       t = { s with lastRead := 0, bar2 := { s.bar2 with flush := false }, msix := t.msix }))

/-- R47: an EV_PEND bit written as 1 clears unless it is set again on the same edge; a 1 written to a defined bit of EV_SET sets
the bit. No other page's EV_PEND changes. -/
def Obligations.EventBits : Prop :=
  ∀ (s : State) (p : Page) (v same : Word), pageUp s p = true →
    (∃ t, exec (.evPendClear p v same) s = .next t ∧
      (∀ i, i < 32 → bitOf (evPend t p) i = (bitOf (evPend s p) i && (!bitOf v i || bitOf same i))) ∧
      (∀ q, q ≠ p → evPend t q = evPend s q) ∧ t = { s with evPend := t.evPend, msix := t.msix }) ∧
    (∃ t, exec (.evSetWrite p v) s = .next t ∧
      (∀ i, i < 32 → bitOf (evPend t p) i = (bitOf (evPend s p) i || (bitOf v i && bitOf (pageEvents p) i))) ∧
      (∀ q, q ≠ p → evPend t q = evPend s q) ∧ t = { s with evPend := t.evPend, msix := t.msix })

/-! ## The commit model (spec/02_register_pages.md R52 to R61) -/

/-- R54 to R56: a write of CMT_CTRL with arm set and cancel clear, in a page that answers and has a commit domain. The RW fields take the
word. A refused arm (mode 3, a bad time, no bank or an absent one, an immediate arm of a running group) sets rejected in every selected
bank, leaves every pending commit and arm_seq, and raises CMT_REJECT; a LAYR or GEOM arm that is not refused waits for its load; any other
is accepted in every selected bank with the shadows it snapshots. R53, R55, R58, R59: an accepted arm where no close has taken the slot's
commit. arm_seq advances by 1, rejected clears, the snapshot and its mode take the pending slot whatever was pending; a local page sees
the arm at once, and sets missed just where its scheduled time has passed. Nothing but the commit state and the event changes. R57: a
cancel discards the pending commit of each selected bank that no close has taken, and any load, and keeps the shadows: of the registers
only CMT_CTRL's fields change. -/
def Obligations.CommitArmsAndCancels : Prop :=
  (∀ (p : Page) (v : Word) (s : State), pageUp s p = true → domainOf p ≠ .none → bitOf v 1 = false →
     let w := putBit v 0 true
     let u := setReg s p Off.HDR_CMT_CTRL (w &&& word (if domainOf p = .banked then 0xFFFF0F0C else 0xF0C))
     let banks := selBanks p w
     (armRefused u p banks (fld w 2 2) = true →
       ∃ t, exec (.cmtArm p v) s = .next t ∧
         (∀ b, b ∈ banks → (cslot t p b).rejected = true) ∧
         (∀ q b, (cslot t q b).pending = (cslot s q b).pending ∧ (cslot t q b).armSeq = (cslot s q b).armSeq) ∧
         bitOf (evPend t p) 28 = true ∧
         t = { s with regs := u.regs, commits := t.commits, evPend := t.evPend, msix := t.msix }) ∧
     (armRefused u p banks (fld w 2 2) = false → banksRefused u p banks = none → loadsArm p = false →
       ∃ t, exec (.cmtArm p v) s = .next t ∧
         t = settle (banks.foldl (fun (x : State) b => acceptArm x p b (armOf u p b (fld w 2 2))) u)) ∧
     (armRefused u p banks (fld w 2 2) = false → banksRefused u p banks = none → loadsArm p = true →
       ∃ t, exec (.cmtArm p v) s = .next t ∧
         (∀ b, b ∈ banks → (cslot t p b).loading = (cslot s p b).loading ++ [⟨nextLoad s p, banks, armOf u p b (fld w 2 2)⟩] ∧
           (cslot t p b).pending = (cslot s p b).pending) ∧
         t = { s with regs := u.regs, commits := t.commits, msix := t.msix })) ∧
  (∀ (s : State) (p : Page) (b : Nat) (pd : Pending),
     (∀ o, (cslot s p b).pending = some o → o.taken = false) →
     let t := acceptArm s p b pd
     (cslot t p b).armSeq = (cslot s p b).armSeq + 1 ∧ (cslot t p b).rejected = false ∧
     (cslot t p b).appliedSeq = (cslot s p b).appliedSeq ∧
     (∃ q, (cslot t p b).pending = some q ∧ q.snap = pd.snap ∧ q.mode = pd.mode ∧ q.ns = pd.ns ∧ q.sec = pd.sec ∧
       q.seq = (cslot s p b).armSeq + 1) ∧
     (domainOf p = .loc → ((cslot t p b).missed = true ↔ pd.mode = 2 ∧ 0 < sinceTime s pd.sec pd.ns)) ∧
     t = { unhold s p b with commits := t.commits, evPend := t.evPend }) ∧
  (∀ (p : Page) (v : Word) (s : State), pageUp s p = true → domainOf p ≠ .none → bitOf v 0 = false →
     ∃ t, exec (.cmtCancel p v) s = .next t ∧
       (∀ b, b ∈ selBanks p (putBit v 1 true) → (cslot t p b).loading = [] ∧
         (p = .layr → (layrBank t b).holding = false) ∧
         ((∀ o, (cslot s p b).pending = some o → o.taken = false) → (cslot t p b).pending = none)) ∧
       (∀ q b, q ≠ p → b < 16 → cslot t q b = cslot s q b) ∧
       (∀ q b o, o < 4096 → b < 16 → (q ≠ p ∨ o ≠ Off.HDR_CMT_CTRL ∨ b ≠ 0) → regBank t q b o = regBank s q b o) ∧
       (∀ b, b ∉ selBanks p (putBit v 1 true) → layrBank t b = layrBank s b) ∧
       (p ≠ .layr → t = { s with regs := t.regs, commits := t.commits, msix := t.msix }) ∧
       t = { s with regs := t.regs, commits := t.commits, layr := t.layr, evRaw := t.evRaw, evPend := t.evPend, msix := t.msix })

/-- R58, R61, R134: an arm that leaves the Weir into PGRP g. Held, it waits; while TGEN g is not in RUN it has been seen; in RUN, a
frame-mode arm seen by the close instant of its target frame keeps that frame, and one seen later takes the next close, sets missed and
raises CMT_MISSED.
R60: what an applied commit records: pending clears, applied_seq takes the commit's arm_seq, CMT_FRAME the frame, and CMT_APPLIED is
raised. The snapshot comes into force as a whole: of the page's bank, the values in force are the snapshot's and no other. -/
def Obligations.CommitGateAndForce : Prop :=
  (∀ (p : Page) (g : Fin 16) (b : Nat) (s : State) (pd : Pending),
     b = bankAt p g.val →
     commitGroup p b = some g.val → (cslot s p b).pending = some pd → pd.seen = false → pd.held = false → pd.taken = false →
     islandUp s (islPgrp g.val) = true →
     ∃ t, exec (.cmtArmAtGate p g) s = .next t ∧
       (holdBit s g.val = true → (cslot t p b).pending = some { pd with held := true }) ∧
       (holdBit s g.val = false → tgenRuns s g.val = false → pd.mode ≠ 1 →
         (cslot t p b).pending = some { pd with seen := true } ∧ (cslot t p b).missed = (cslot s p b).missed) ∧
       (holdBit s g.val = false → tgenRuns s g.val = true → pd.mode = 0 → pd.frame = gateNext s g.val →
         (cslot t p b).pending = some { pd with seen := true } ∧ (cslot t p b).missed = (cslot s p b).missed) ∧
       (holdBit s g.val = false → tgenRuns s g.val = true → pd.mode = 0 → pd.frame ≠ gateNext s g.val →
         frameGe (gateNext s g.val) pd.frame = true →
         (cslot t p b).pending = some { pd with seen := true, frame := gateNext s g.val } ∧
         (cslot t p b).missed = true ∧ (pageUp s p = true → bitOf (evPend t p) 29 = true)) ∧
       t = { s with commits := t.commits, evPend := t.evPend, msix := t.msix }) ∧
  ((∀ (s : State) (p : Page) (b : Nat) (pd : Pending) (f : Word),
     let t := commitDone s p b pd f
     (cslot t p b).pending = none ∧ (cslot t p b).appliedSeq = pd.seq ∧ (cslot t p b).frame = f ∧
     (pageUp s p = true → bitOf (evPend t p) 30 = true) ∧ t = { unhold s p b with commits := t.commits, evPend := t.evPend }) ∧
   (∀ (s : State) (p : Page) (b : Nat) (snap : AMap Word), (∀ e, e ∈ snap → keyOf p b e.1 = true) → mapWf regDefault snap = true →
     let t := putForce s p b snap
     (∀ k, keyOf p b k = true → mapGet regDefault t.inForce k = mapGet regDefault snap k) ∧
     (∀ k, keyOf p b k = false → mapGet regDefault t.inForce k = mapGet regDefault s.inForce k) ∧
     t = { s with inForce := t.inForce }))

/-- R59: the pending commit of a local page that answers applies on the next edge unless it is scheduled for a time still ahead; a
scheduled one applies once the time base is at or after CMT_TIME. R58, R60, R61, R135: the commits that come into force without frames
and after a close, the notices of closes, and the hold. A seen commit of a group not in RUN applies with the frame counter; a notice
lowers the closes not yet noticed by 1; where FAB runs the bank's content is selected anew; a hold bit written 1 holds every pending
commit of its group that no close has taken. -/
def Obligations.CommitApplication : Prop :=
  (∀ (p : Page) (s : State) (pd : Pending), pageUp s p = true → domainOf p = .loc → (cslot s p 0).pending = some pd →
     (pd.mode ≠ 2 ∨ (cslot s p 0).missed = true →
       ∃ t, exec (.localCommitApply p) s = .next t ∧ t = settle (applyCommit s p 0 pd false 0) ∧
         (cslot t p 0).pending = none ∧ (cslot t p 0).appliedSeq = pd.seq) ∧
     (pd.mode = 2 → 0 ≤ sinceTime s pd.sec pd.ns →
       ∃ t, exec (.localSchedCommitDue p) s = .next t ∧ t = settle (applyCommit s p 0 pd false 0) ∧
         (cslot t p 0).pending = none ∧ (cslot t p 0).appliedSeq = pd.seq) ∧
     (pd.mode = 2 → sinceTime s pd.sec pd.ns < 0 →
       ∃ t, exec (.localSchedCommitDue p) s = .next t ∧ t = { s with msix := t.msix })) ∧
  ((∀ (p : Page) (g : Fin 16) (b : Nat) (s : State) (pd : Pending),
     b = bankAt p g.val →
     pageUp s p = true → p ≠ .layr → commitGroup p b = some g.val → (cslot s p b).pending = some pd → pd.seen = true →
     pd.held = false → pd.taken = false → tgenRuns s g.val = false →
     ∃ t, exec (.noframeCommitApply p g) s = .next t ∧
       (islandUp s islFab = false → t = settle (applyCommit s p b pd false (tgen s g.val).cur)) ∧
       (islandUp s islFab = true →
         t = settle (layrLevels (selectBank (applyCommit s p b pd false (tgen s g.val).cur) .idle g.val (layrIds s g.val) none))) ∧
       (cslot t p b).pending = none ∧ (cslot t p b).appliedSeq = pd.seq ∧ (cslot t p b).frame = (tgen s g.val).cur) ∧
   (∀ (g : Fin 16) (s : State), groupPending s g.val = [] → ∃ t, exec (.bankCommitApply g) s = .next t ∧ t = { s with msix := t.msix }) ∧
   (∀ (g : Fin 16) (s : State) (p : Page) (b : Nat) (pd : Pending), groupPending s g.val = [(p, b, pd)] → (cslot s p b).pending = some pd → pd.taken = true →
     pageUp s p = true → p ≠ .layr →
     ∃ t, exec (.bankCommitApply g) s = .next t ∧ t = settle (applyCommit s p b pd true pd.frame) ∧
       (cslot t p b).pending = none ∧ (cslot t p b).appliedSeq = pd.seq ∧ (cslot t p b).frame = pd.frame) ∧
   (∀ (k : Fin 44) (g : Fin 16) (s : State), ∃ t, exec (.closeNoticeArrival k g) s = .next t ∧
     (∀ j, mapGet (fun _ => 0) t.unnoticed j
       = if j = k.val * 16 + g.val then mapGet (fun _ => 0) s.unnoticed j - 1 else mapGet (fun _ => 0) s.unnoticed j) ∧
     t = { s with unnoticed := t.unnoticed, msix := t.msix }) ∧
   (∀ (v : Word) (s : State), s.commits = [] →
     ∃ t, exec (.cmtHoldWrite v) s = .next t ∧ t = settle (writePlain s .glb Off.GLB_CMT_HOLD v)) ∧
   (∀ (g : Fin 16) (p : Page) (b : Nat) (s : State) (pd : Pending), groupPending s g.val = [(p, b, pd)] →
     (cslot s p b).pending = some pd →
     (pd.taken = false → reg s .glb Off.GLB_CMT_HOLD = 0 →
       ∃ t, exec (.cmtHoldWrite (word (2 ^ g.val))) s = .next t ∧
         (cslot t p b).pending = some { pd with held := true, seen := false }) ∧
     (pd.held = true → reg s .glb Off.GLB_CMT_HOLD = word (2 ^ g.val) →
       ∃ t, exec (.cmtHoldWrite 0) s = .next t ∧
         t = settle (gateSee (writePlain s .glb Off.GLB_CMT_HOLD 0) p b g.val))))

/-! ## Islands and Weirs (spec/02_register_pages.md R42 to R45, spec/03_islands_and_weirs.md) -/

/-- R42: a write of PCTRL with req = 0 to a present page sets the island's resume field, in every island state, and makes no request. R43,
R70, R434, R553: requests that R43's table allows, to an island that R72 does not fix and in which no transition is in progress. A request
that has to close, drain or start leaves the state and shows moving; RESET from OFF waits for the power sequencer; OFF from RESET takes
effect at once. UPDATE fixes the image that it loads. -/
def Obligations.IslandRequests : Prop :=
  (∀ (p : Page) (v : Word) (s : State), pagePresent s p = true →
     ∃ t, exec (.pctrlResumeSet p v) s = .next t ∧
       (∀ k, island t k = if k = islandOf p then { island s k with resume := bitOf v 8 } else island s k) ∧
       t = { s with isl := t.isl, msix := t.msix }) ∧
  (∀ (p : Page) (resume : Bool) (s : State), pagePresent s p = true → islFixed s (islandOf p) = false →
     (island s (islandOf p)).target = none →
     ((island s (islandOf p)).st = .off →
       ∃ t, exec (.pctrlReqReset p resume) s = .next t ∧ t.pwrQueue = s.pwrQueue ++ [islandOf p] ∧
         island t (islandOf p) = { island s (islandOf p) with resume := resume, target := some .reset } ∧
         t = { s with isl := t.isl, pwrQueue := t.pwrQueue, msix := t.msix }) ∧
     ((island s (islandOf p)).st = .idle ∨ (island s (islandOf p)).st = .run →
       ∃ t, exec (.pctrlReqReset p resume) s = .next t ∧
         island t (islandOf p) = { island s (islandOf p) with resume := resume, target := some .reset } ∧
         t = { s with isl := t.isl, evPend := t.evPend, msix := t.msix }) ∧
     ((island s (islandOf p)).st = .idle →
       ∃ t, exec (.pctrlReqOff p resume) s = .next t ∧
         island t (islandOf p) = { island s (islandOf p) with resume := resume, target := some .off } ∧
         t = { s with isl := t.isl, evPend := t.evPend, msix := t.msix }) ∧
     ((island s (islandOf p)).st = .reset →
       (∃ t, exec (.pctrlReqOff p resume) s = .next t ∧ (island t (islandOf p)).st = .off ∧ (island t (islandOf p)).target = none) ∧
       (∃ t, exec (.pctrlReqIdle p resume) s = .next t ∧
         island t (islandOf p) = { island s (islandOf p) with resume := resume, target := some .idle } ∧
         t = { s with isl := t.isl, msix := t.msix })) ∧
     ((island s (islandOf p)).st = .run →
       ∃ t, exec (.pctrlReqIdle p resume) s = .next t ∧
         island t (islandOf p) = { island s (islandOf p) with resume := resume, target := some .idle } ∧
         t = { s with isl := t.isl, evPend := t.evPend, msix := t.msix }) ∧
     ((island s (islandOf p)).st = .idle → mayRun s (islandOf p) = true →
       ∃ t, exec (.pctrlReqRun p resume) s = .next t ∧ (island t (islandOf p)).st = .run ∧ (island t (islandOf p)).target = none) ∧
     ((island s (islandOf p)).st = .idle ∨ (island s (islandOf p)).st = .run → hlpRun s 21 = true → (islImage s (islandOf p)).isSome = true →
       ∃ t, exec (.pctrlReqUpdate p resume) s = .next t ∧ (island t (islandOf p)).target = some .update ∧
         (island t (islandOf p)).st = (island s (islandOf p)).st ∧ (island t (islandOf p)).load.isSome = true))

/-- R44, R72, R88: a request that the table does not allow in the present state, any request while moving or in UPDATE, and every
request to AON, CTL and HOST is refused: the state stands. While the island is IDLE or RUN and not moving REQ_REFUSED is raised in
the page written; else the island's REFUSED bit is set and ISL_REFUSED is raised. A request for the present state has no effect. -/
def Obligations.IslandRefusals : Prop :=
  (∀ (p : Page) (s : State) (st : IslState), pagePresent s p = true → (island s (islandOf p)).st = st →
    (islFixed s (islandOf p) = true ∨ (island s (islandOf p)).target.isSome = true ∨ st = .update ∨ st = .off ∨ st = .dead) →
    st ≠ .run →
    ∃ t, exec (.pctrlReqRun p false) s = .next t ∧
      (∀ k, island t k = if k = islandOf p then { island s k with resume := false } else island s k) ∧
      (pageUp s p = true → (island s (islandOf p)).target = none → bitOf (evPend t p) 27 = true ∧ t.regs = s.regs) ∧
      (pageUp s p = false → islandOf p ≠ 0 → islState s 0 = .run →
        bitOf (reg t .isl (Off.ISL_REFUSED_LO + 4 * (islandOf p / 32))) (islandOf p % 32) = true ∧ bitOf (evPend t .isl) 3 = true) ∧
      t = { s with isl := t.isl, evPend := t.evPend, regs := t.regs, msix := t.msix }) ∧
  (∀ (p : Page) (s : State), pagePresent s p = true → islFixed s (islandOf p) = false → (island s (islandOf p)).target = none →
    (island s (islandOf p)).st = .run →
    ∃ t, exec (.pctrlReqRun p (island s (islandOf p)).resume) s = .next t ∧ (∀ k, island t k = island s k) ∧
      t = { s with isl := t.isl, msix := t.msix })

/-- R43, R70, R73, R78: the ends of transitions. The power sequencer's head enters RESET; an island whose Weirs have closed enters the
state asked for; an island leaves RESET for IDLE, HOST for RUN; a drained island enters IDLE. R43, R553: the self-check of an island in
UPDATE ends while no campaign waits for it. Passed, with its image read whole, the island enters RUN where resume is 1 and it came from
RUN, else IDLE; failed, it is DEAD. -/
def Obligations.IslandTransitionEnds : Prop :=
  ((∀ (k : Nat) (q : List Nat) (s : State), s.pwrQueue = k :: q → (island s k).st = .off →
     ∃ t, exec .powerSwitchClosed s = .next t ∧ (island t k).st = .reset ∧ (island t k).target = none ∧ t.pwrQueue = q) ∧
   (∀ (k : Fin 44) (s : State) (goal : IslState), islandUp s k.val = true → (island s k.val).target = some goal →
     (goal = .reset ∨ goal = .off ∨ goal = .update ∨ goal = .dead) → k.val ≠ 36 →
     ∃ t, exec (.islandWeirsClosed k) s = .next t ∧ (island t k.val).st = goal ∧ (island t k.val).target = none ∧
       (island t k.val).resume = ((island s k.val).resume && decide (goal ≠ .reset))) ∧
   (∀ (k : Fin 44) (s : State), k.val ≠ 3 → (island s k.val).st = .reset → (island s k.val).target = some .idle →
     ∃ t, exec (.islandResetExit k) s = .next t ∧ (island t k.val).st = (if k.val = 36 then .run else .idle) ∧
       (island t k.val).target = none) ∧
   (∀ (k : Fin 44) (s : State), (island s k.val).st = .run → (island s k.val).target = some .idle → drained s k.val = true →
     ∃ t, exec (.runToIdleDrainDone k) s = .next t ∧ (island t k.val).st = .idle ∧ (island t k.val).target = none) ∧
   (∀ (chan : Fin 8) (repaired : Bool) (s : State), (island s 3).st = .reset → (island s 3).target = some .idle →
     ∃ t, exec (.hbmTrainingDone 0 chan repaired) s = .next t ∧ (island t 3).st = .idle ∧ t.mem = [] ∧ t.ecc = [] ∧
       t.hbm.train = 1 ∧ t.hbm.repaired = repaired)) ∧
  (∀ (k : Fin 44) (s : State) (ver : Word), (island s k.val).st = .update → s.cpm.entries = [] →
     ((island s k.val).load = some (ver, true) →
       ∃ t, exec (.islandSelfCheckEnd k true) s = .next t ∧
         (island t k.val).st = (if (island s k.val).resume = true ∧ (island s k.val).updFrom = .run then .run else .idle)) ∧
     (∃ t, exec (.islandSelfCheckEnd k false) s = .next t ∧ (island t k.val).st = .dead ∧ (island t k.val).target = none))

/-- R41, R69: on entering RESET, and on entering OFF, every register of the island's pages returns to its Reset value, and every commit
pending in them is discarded; the other islands' registers stand. -/
def Obligations.ResetClearsPages : Prop :=
  ∀ (k : Nat) (off_ : Bool) (s : State) (p : Page) (off b : Nat), 0 < k → off < 4096 → b < 16 →
    let t := islandWipe s k off_
    (islandOf p = k → reg t p off = regResetOf (kindOf p) off ∧ (cslot t p b).pending = none ∧ evPend t p = 0) ∧
    (islandOf p ≠ k → reg t p off = reg s p off ∧ cslot t p b = cslot s p b ∧ evPend t p = evPend s p)

/-- R74, R75, R79: a source that may issue takes the lowest free tag of its pool and a credit; toward a closed target the answer is ABSENT
at once; while it holds no credit, or no tag is free, nothing happens. R76, R77, R84: the oldest queued request crosses to an open target
and takes its place in the shadow tag list. A memory request waits at the target where memory lives; else it is answered ABSENT. The
oldest reply crosses to an open source: its tag leaves the shadow tag list, and a reply that the target holds takes its entry. -/
def Obligations.Weirs : Prop :=
  (∀ (w : Fin 158) (alt : Bool) (r : WeirReq) (s : State), weirTagged w.val = true → reqFits w.val r = true →
     weirExists s w.val = true → weirSide s (weirEnds w.val).1 = true →
     (∀ tag, freePoolTag s w.val (drawsTrim alt r) = some tag → weirSide s (weirEnds w.val).2 = false →
       ∃ t, exec (.weirRequest w alt r) s = .next t ∧
         weirAt t w.val = { weirAt s w.val with lastReply := some (tag, .absent, []), absents := (weirAt s w.val).absents + 1 } ∧
         (∀ j, j ≠ w.val → weirAt t j = weirAt s j) ∧ t = { s with weirs := t.weirs, msix := t.msix }) ∧
     (∀ tag, freePoolTag s w.val (drawsTrim alt r) = some tag → weirSide s (weirEnds w.val).2 = true →
       (weirAt s w.val).queue.length < weirDepth w.val →
       ∃ t, exec (.weirRequest w alt r) s = .next t ∧
         weirAt t w.val = { weirAt s w.val with queue := (weirAt s w.val).queue ++ [(tag, alt, r)] } ∧
         (∀ j, j ≠ w.val → weirAt t j = weirAt s j) ∧ t = { s with weirs := t.weirs, msix := t.msix }) ∧
     (freePoolTag s w.val (drawsTrim alt r) = none ∨
         weirSide s (weirEnds w.val).2 = true ∧ weirDepth w.val ≤ (weirAt s w.val).queue.length →
       ∃ t, exec (.weirRequest w alt r) s = .next t ∧ t = { s with msix := t.msix })) ∧
  (∀ (w : Fin 158) (s : State) (tag n : Nat) (alt : Bool) (a : BitVec 35) (rest : List (Nat × Bool × WeirReq)), w.val < 38 →
     (weirAt s w.val).queue = (tag, alt, .hbmRead a n) :: rest → weirSide s (weirEnds w.val).2 = true → (weirAt s w.val).shadow = [] →
     (weirAt s w.val).orphans = [] → (weirAt s w.val).due = [] → (weirAt s w.val).replies = [] →
     (hbmLive s = true →
       ∃ t, exec (.weirDeliver ⟨w, false⟩) s = .next t ∧ weirAt t w.val = { weirAt s w.val with queue := rest, shadow := [tag] } ∧
         t.hbm.waiting = s.hbm.waiting ++ [⟨w.val, tag, weirClass w.val alt false, a.toNat, n, none⟩] ∧
         t = { s with weirs := t.weirs, hbm := t.hbm, msix := t.msix }) ∧
     (hbmLive s = false →
       ∃ t, exec (.weirDeliver ⟨w, false⟩) s = .next t ∧
         weirAt t w.val = { weirAt s w.val with queue := rest, shadow := [tag], replies := [(tag, .absent, [])] } ∧
         t = { s with weirs := t.weirs, msix := t.msix })) ∧
  (∀ (w : Fin 158) (s : State) (r : Nat × ReplyStatus × List Byte) (rest : List (Nat × ReplyStatus × List Byte)),
     weirTagged w.val = true → (weirAt s w.val).replies = r :: rest → rest.length < weirReplyDepth w.val →
     weirSide s (weirEnds w.val).1 = true →
     ∃ t, exec (.weirDeliver ⟨w, true⟩) s = .next t ∧ (weirAt t w.val).lastReply = some r ∧ r.1 ∉ (weirAt t w.val).shadow ∧
       (∀ x, x ≠ r.1 → (x ∈ (weirAt t w.val).shadow ↔ x ∈ (weirAt s w.val).shadow)) ∧
       (weirAt t w.val).replies ++ (weirAt t w.val).due = rest ++ (weirAt s w.val).due ∧
       (weirAt t w.val).replies.length = min (rest.length + (weirAt s w.val).due.length) (weirReplyDepth w.val) ∧
       (weirAt t w.val).queue = (weirAt s w.val).queue ∧ t = { s with weirs := t.weirs, msix := t.msix })

/-- R43, R73, R449, R601, R615: the device's and the host port's resets. PORST_N low returns the machine to reset but for the flash,
the fuses, the pins, a trip and the modules; its rise starts AON. PERST_N low holds HOST in reset, and its rise lets a HOST in RESET
go on once the straps are read; a hot reset, an FLR and a port that leaves DL_Up act as both. -/
def Obligations.DeviceResets : Prop :=
  (∀ s : State, ∃ t, exec .porstNAssert s = .next t ∧ t.regs = [] ∧ t.inForce = [] ∧ t.mem = [] ∧ t.evPend = [] ∧ t.commits = [] ∧
    t.part = s.part ∧ t.last = s.last ∧ t.modu = s.modu ∧ t.pins.porst = false ∧ t.pins.tripped = s.pins.tripped ∧
    t.pins.perst = s.pins.perst ∧ (∀ k, 0 < k → island t k = Island.initial k)) ∧
  (∀ s : State, s.pins.porst = false → s.pins.tripped = false → ∃ t, exec .porstNRise s = .next t ∧ (island t 0).st = .run ∧
    (∀ k, 0 < k → island t k = island s k) ∧ t.pins = { s.pins with porst := true } ∧
    t = { s with isl := t.isl, pins := t.pins, last := t.last, msix := t.msix }) ∧
  (∀ s : State, ∃ t, exec .perstNAssert s = .next t ∧ t.pins = { s.pins with perst := false } ∧
    ((island s 36).st = .idle ∨ (island s 36).st = .run → (island t 36).target = some .reset) ∧
    ((island s 36).st = .reset → (island t 36).target = none) ∧
    t = { s with isl := t.isl, pins := t.pins, evPend := t.evPend, msix := t.msix }) ∧
  (∀ s : State, (island s 36).st = .reset → (island s 36).target = none → s.pins.strapped = true → s.pins.tripped = false →
    ∃ t, exec .perstNDeassert s = .next t ∧ (island t 36).target = some .idle ∧ t.pins = { s.pins with perst := true } ∧
      t = { s with isl := t.isl, pins := t.pins, msix := t.msix }) ∧
  (∀ (c : Instr) (s : State), (c = .pcieHotReset ∨ c = .pcieFlr ∨ c = .pcieLinkDown) →
    ((island s 36).st = .idle ∨ (island s 36).st = .run) →
    ∃ t, exec c s = .next t ∧ (island t 36).target = some .reset ∧ (∀ k, k ≠ 36 → island t k = island s k) ∧
      t = { s with isl := t.isl, evPend := t.evPend, msix := t.msix }) ∧
  (∀ s : State, ∃ t, exec .vddCoreOff s = .next t ∧ t = { s with pins := { s.pins with tripped := false }, msix := t.msix })

/-- R71, R531: the clock of an audio island is lost, and comes back: clk_holdover of that island alone changes. R525 to R535: an audio
port. An armed port starts on its edge; a running one counts positions; an edge after the wrong number of clocks raises its event, and one
after too few cuts its frame; a clock that stops ends in HOLDOVER, whose virtual frames go on counting, and the fourth good edge ends it. A
transmit frame is fetched and a receive frame that has ended is written under the fade gain. LAST_STAMP captures the words beside it. -/
def Obligations.AudioClocksAndPorts : Prop :=
  (∀ (a : Fin 4) (s : State),
     (∃ t, exec (.abclkLoss a) s = .next t ∧
       (∀ k, island t k = if k = islAud a.val then { island s k with holdover := true } else island s k) ∧
       (audAt t a.val).st = (if (audAt s a.val).st = 2 then 3 else (audAt s a.val).st) ∧ (∀ j, j ≠ a.val → audAt t j = audAt s j) ∧
       t = { s with isl := t.isl, aud := t.aud, evPend := t.evPend, evRaw := t.evRaw, msix := t.msix }) ∧
     (∃ t, exec (.abclkRelock a) s = .next t ∧
       (∀ k, island t k = if k = islAud a.val then { island s k with holdover := false } else island s k) ∧
       t = { s with isl := t.isl, evPend := t.evPend, evRaw := t.evRaw, msix := t.msix })) ∧
  (∀ (a : Fin 4) (s : State), pageUp s (.aud a) = true →
     ((audAt s a.val).st = 0 → islandRuns s (islAud a.val) = true → auF s a.val Off.AUD_CFG 13 2 = 0 →
       ∃ t, exec (.audStart a) s = .next t ∧ (audAt t a.val).st = 1 ∧ (audAt t a.val).startPos = reg s (.aud a) Off.AUD_START_POS ∧
         (audAt t a.val).rxNext = reg s (.aud a) Off.AUD_START_POS ∧ (audAt t a.val).txNext = reg s (.aud a) Off.AUD_START_POS ∧
         (audAt t a.val).lead = a.val ∧ (∀ j, j ≠ a.val → audAt t j = audAt s j) ∧ t = { s with aud := t.aud, msix := t.msix }) ∧
     (∃ t, exec (.audStop a) s = .next t ∧ (audAt t a.val).st = 0 ∧ (audAt t a.val).playing = [] ∧ (audAt t a.val).gRx = 0 ∧
       (audAt t a.val).gTx = 0 ∧ bitOf (evRaw t (.aud a)) 3 = false ∧ bitOf (evRaw t (.aud a)) 8 = false ∧
       (∀ j, j ≠ a.val → audAt t j = audAt s j) ∧ t = { s with aud := t.aud, evRaw := t.evRaw, msix := t.msix }) ∧
     (∀ clocks : Nat, auF s a.val Off.AUD_STAMP_CFG 8 1 = 0 →
       ((audAt s a.val).st = 1 → (audAt s a.val).lead = a.val → (∀ j, j ≠ a.val → (audAt s j).st ≠ 1) →
         ∃ t, exec (.afsyncEdge a clocks) s = .next t ∧ (audAt t a.val).st = 2 ∧ (audAt t a.val).pos = (audAt s a.val).startPos ∧
           (audAt t a.val).edge = some (now16 s) ∧ bitOf (evPend t (.aud a)) 0 = true ∧
           t = { s with aud := t.aud, evPend := t.evPend, evRaw := t.evRaw, msix := t.msix }) ∧
       ((audAt s a.val).st = 2 → (audAt s a.val).back = false → clocks = audSlots s a.val * audBits s a.val →
         (audAt s a.val).frames + 1 < 64 →
         ∃ t, exec (.afsyncEdge a clocks) s = .next t ∧ (audAt t a.val).st = 2 ∧ (audAt t a.val).pos = (audAt s a.val).pos + 1 ∧
           (audAt t a.val).frames = (audAt s a.val).frames + 1 ∧ (audAt t a.val).edge = some (now16 s) ∧
           t = { s with aud := t.aud, msix := t.msix }) ∧
       ((audAt s a.val).st = 2 → (audAt s a.val).back = false → clocks ≠ audSlots s a.val * audBits s a.val →
         ∃ t, exec (.afsyncEdge a clocks) s = .next t ∧ (audAt t a.val).pos = (audAt s a.val).pos + 1 ∧ (audAt t a.val).frames = 0 ∧
           (audAt t a.val).cut = (if clocks < audSlots s a.val * audBits s a.val then (audAt s a.val).pos :: (audAt s a.val).cut
             else (audAt s a.val).cut) ∧ evPend t (.aud a) = putBit (evPend s (.aud a)) 7 true ∧
           t = { s with aud := t.aud, evPend := t.evPend, msix := t.msix }) ∧
       (∀ e, (audAt s a.val).st = 3 → (audAt s a.val).good = 3 → (audAt s a.val).edge = some e → audNear s a.val 1 (now16 s - e) = true →
         ∃ t, exec (.afsyncEdge a clocks) s = .next t ∧ (audAt t a.val).st = 2 ∧ evPend t (.aud a) = putBit (evPend s (.aud a)) 5 true ∧
           t = { s with aud := t.aud, evPend := t.evPend, msix := t.msix }) ∧
       ((audAt s a.val).st = 3 ∨ (audAt s a.val).back = true → s.ecc = [] → s.hbm.inj = none →
         ∃ t, exec (.audVirtualFrame a) s = .next t ∧ (audAt t a.val).st = (audAt s a.val).st ∧
           (audAt t a.val).pos = (audAt s a.val).pos + 1 ∧ (audAt t a.val).playing = [] ∧
           (frameGe ((audAt s a.val).pos + 1) (audAt s a.val).rxNext = true →
             (audAt t a.val).rxHw = (audAt s a.val).pos + 2 ∧ (audAt t a.val).rxNext = (audAt s a.val).pos + 2) ∧
           t = { s with aud := t.aud, mem := t.mem, msix := t.msix })) ∧
     ((audAt s a.val).st = 2 →
       ∃ t, exec (.audClockLossTimeout a) s = .next t ∧ (audAt t a.val).st = 3 ∧ (audAt t a.val).gRx = 0 ∧ (audAt t a.val).gTx = 0 ∧
         (audAt t a.val).good = 0 ∧ bitOf (evPend t (.aud a)) 4 = true ∧
         t = { s with aud := t.aud, evPend := t.evPend, evRaw := t.evRaw, msix := t.msix }) ∧
     ((audAt s a.val).st = 2 → s.ecc = [] → ((audAt s a.val).txNext - (audAt s a.val).pos).toInt ≤ 64 →
       let g := fadeGain (auF s a.val Off.AUD_FADE 0 13) (audAt s a.val).gTx (audRoom s a.val true (audAt s a.val).txNext)
       let n := frameBytes s a.val true
       (g = 0 ∨ hbmReadOk s (frameAddr s a.val true (audAt s a.val).txNext) n = true) →
       ∃ t, exec (.audTxFetch a) s = .next t ∧ (audAt t a.val).gTx = g ∧ (audAt t a.val).txNext = (audAt s a.val).txNext + 1 ∧
         (audAt t a.val).txHw = (audAt s a.val).txNext + 1 ∧
         (audAt t a.val).fetched = (audAt s a.val).fetched ++ [((audAt s a.val).txNext,
           (List.range (maskSlots (audMask s a.val true)).length).map (fun i => fadeSample (sampleOf (audFmt s a.val)
             (((if g = 0 then List.replicate n 0 else memBytes s (frameAddr s a.val true (audAt s a.val).txNext) n).drop
               (i * sfmtBytes (audFmt s a.val))).take (sfmtBytes (audFmt s a.val)))) g))] ∧
         t = { s with aud := t.aud, evPend := t.evPend, evRaw := t.evRaw, msix := t.msix }) ∧
     (∀ slots : List (BitVec 32), (audAt s a.val).st = 2 → s.ecc = [] → s.hbm.inj = none →
       frameGe (audAt s a.val).pos ((audAt s a.val).rxNext + 1) = true → (audAt s a.val).cut = [] →
       hbmOk s (frameAddr s a.val false (audAt s a.val).rxNext) (frameBytes s a.val false) = true →
       let g := fadeGain (auF s a.val Off.AUD_FADE 0 13) (audAt s a.val).gRx (audRoom s a.val false (audAt s a.val).rxNext)
       let at_ := frameAddr s a.val false (audAt s a.val).rxNext
       let n := frameBytes s a.val false
       ∃ t, exec (.audRxWrite a slots) s = .next t ∧ (audAt t a.val).gRx = g ∧ (audAt t a.val).rxHw = (audAt s a.val).rxNext + 1 ∧
         (audAt t a.val).rxNext = (audAt s a.val).rxNext + 1 ∧
         memBytes t at_ n = (maskSlots (audMask s a.val false)).flatMap (fun k => sampleBytes (audFmt s a.val)
           (fadeSample (slotData (audBits s a.val) (sfmtWidth (audFmt s a.val)) ((slots.map (fun x => x.toNat)).getD k 0)) g)) ∧
         (∀ x, (x < at_ ∨ at_ + n ≤ x) → memByte t x = memByte s x) ∧
         t = { s with aud := t.aud, mem := t.mem, evPend := t.evPend, evRaw := t.evRaw, msix := t.msix }) ∧
     (∀ x : AudStamp, (audAt s a.val).stamp = some x →
       ∃ t, exec (.audLastStampRead a) s = .next t ∧ t.lastRead = x.pos ∧
         mapGet (fun _ => none) t.captures (regKey (.aud a) Off.AUD_LAST_STAMP_NS 0) = some (BitVec.ofNat 32 (stampNs x.t + b2n x.predicted * 2 ^ 31)) ∧
         mapGet (fun _ => none) t.captures (regKey (.aud a) (Off.AUD_LAST_STAMP_NS + 4) 0) = some (BitVec.ofNat 32 (stampSec x.t)) ∧
         t = { s with captures := t.captures, lastRead := t.lastRead, msix := t.msix }))

/-! ## Time base, servo, PTP, trackers and slots (spec/04_time_and_sync.md) -/

/-- R92, R99: each AON edge adds INC to the time base, which wraps with its seconds field; INC is 40 ns scaled by 1 + f·10^-9, rounded
half-even to 2^-32 ns, also where a slew has covered its offset. During a slew the increment's excess over INC of f = 0 is taken off
what is left to cover, and the last edge is trimmed. Several edges are one edge after another. R99, R100: the host's operations on the
time base. A set loads it, an add moves it, and each, a step, raises TIME_STEP, shifts every scheduled latch and every tracker edge
(log 60), ends a slew, and takes the servo to ACQUIRE where its source is not free. A slew of a non-zero offset under a non-zero
SRV_FMAX starts; any other, and one whose offset is covered, ends. Each operation discards the servo sample on its way (R101). -/
def Obligations.TimeBase : Prop :=
  ((∀ s : State, s.time.slewing = false ∨ s.time.slewLeft = 0 →
     ∃ t, exec (.timeBaseTick 1) s = .next t ∧
       t.time = { s.time with
         now := (((s.time.now : Int) + halfEven (40 * 2 ^ 32 * (1000000000 * 65536 + s.time.f)) (1000000000 * 65536))
           % (2 ^ 48 * (1000000000 * 2 ^ 32) : Nat)).toNat } ∧
       t = { s with time := t.time, last := { s.last with onEdges := s.last.onEdges + 1 }, msix := t.msix }) ∧
   (∀ s : State, s.time.slewing = true → s.time.slewLeft ≠ 0 →
     let gain := incOf (if s.time.slewLeft < 0 then - srvFmax s else srvFmax s) - incOf 0
     let cover := if gain.natAbs < s.time.slewLeft.natAbs then gain else s.time.slewLeft
     ∃ t, exec (.timeBaseTick 1) s = .next t ∧ t.time.slewLeft = s.time.slewLeft - cover ∧
       t.time.now = (((s.time.now : Int) + (incOf 0 + cover)) % (baseWrap : Int)).toNat ∧
       t = { s with time := t.time, last := { s.last with onEdges := s.last.onEdges + 1 }, msix := t.msix }) ∧
   (∀ (s : State) (n : Nat), ∃ t, exec (.timeBaseTick (n + 1)) s = .next t ∧ t.time = (tickMany n (tickOnce s)).time ∧
     t.last.onEdges = s.last.onEdges + (n + 1))) ∧
  ((∀ s : State, islState s 0 = .run →
     let goal := (fld (reg s .time Off.TIME_SET_SEC_HI) 0 16 * 2 ^ 32 + (reg s .time Off.TIME_SET_SEC_LO).toNat) * baseSec
       + regF s .time Off.TIME_SET_NS 0 30 * 2 ^ 32
     ∃ t, exec .timeSet s = .next t ∧ t.time.now = goal % baseWrap ∧ t.time.slewing = false ∧ t.time.sample = none ∧ bitOf (evPend t .time) 1 = true ∧
       (forceF s .time Off.TIME_SRV_CTRL 0 3 ≠ 0 → t.time.srv = 1) ∧ (forceF s .time Off.TIME_SRV_CTRL 0 3 = 0 → t.time.srv = s.time.srv) ∧
       t = { s with time := t.time, evPend := t.evPend, evRaw := t.evRaw, tgen := t.tgen, trackers := t.trackers
                    shutPulses := t.shutPulses, camPulses := t.camPulses, gpio := t.gpio, msix := t.msix }) ∧
   (∀ s : State, islState s 0 = .run →
     ∃ t, exec .timeAdd s = .next t ∧
       t.time.now = (((s.time.now : Int) + signed 32 (reg s .time Off.TIME_ADJ_OFFSET).toNat * 2 ^ 32) % (baseWrap : Int)).toNat ∧
       t.time.slewing = false ∧ t.time.sample = none ∧ bitOf (evPend t .time) 1 = true ∧
       t = { s with time := t.time, evPend := t.evPend, evRaw := t.evRaw, tgen := t.tgen, trackers := t.trackers
                    shutPulses := t.shutPulses, camPulses := t.camPulses, gpio := t.gpio, msix := t.msix }) ∧
   (∀ s : State,
     (signed 32 (reg s .time Off.TIME_ADJ_OFFSET).toNat ≠ 0 → srvFmax s ≠ 0 →
       ∃ t, exec .timeSlew s = .next t ∧
         t = { s with time := { s.time with slewing := true, sample := none
                                            slewLeft := signed 32 (reg s .time Off.TIME_ADJ_OFFSET).toNat * 2 ^ 32 }
                      msix := t.msix }) ∧
     (signed 32 (reg s .time Off.TIME_ADJ_OFFSET).toNat = 0 ∨ srvFmax s = 0 →
       ∃ t, exec .timeSlew s = .next t ∧ t = { s with time := { s.time with slewing := false, slewLeft := 0, sample := none }, msix := t.msix }) ∧
     (s.time.slewing = true → s.time.slewLeft = 0 →
       ∃ t, exec .timeSlewEnd s = .next t ∧ t = { s with time := { s.time with slewing := false }, msix := t.msix })) ∧
   (∀ s : State, ∃ t, exec .nowNsRead s = .next t ∧ t.lastRead = BitVec.ofNat 32 (s.time.now / 2 ^ 32 % 1000000000) ∧
     t.time = s.time ∧
     mapGet (fun _ => none) t.captures (regKey .time Off.TIME_NOW_SEC_LO 0) = some (BitVec.ofNat 32 (stampSec (now16 s))) ∧
     mapGet (fun _ => none) t.captures (regKey .time Off.TIME_NOW_FRAC 0) = some (BitVec.ofNat 32 (now16 s % 2 ^ 16)) ∧
     t = { s with lastRead := t.lastRead, captures := t.captures, msix := t.msix }))

/-- R106, R107: a phase sample in LOCKED gives f and integ by R106's lines, without a step; in FREE, and during a slew, the sample is
dropped. In ACQUIRE, where steps are allowed and the offset is beyond STEP_THR, the time base steps by minus the offset and f and integ
stand. The frequency error, that of a LOCKED REF_IN's period against its NOMINAL (log 61), is taken off the integrator under sources 3 and
4. No sample for SRV_HOLD takes ACQUIRE or LOCKED to HOLDOVER with f and integ at the mean of the last values of f. R102, R103, R105
(message layouts and port states IEEE 1588's, log 31): a one-step Sync from the selected master on the primary port gives the leg its t1
and t2; the Announce timeout of the port in use fails over to a standby port on which a selected master is heard; a master sends a Sync at
its interval, with the next sequenceId and a transmit stamp, and its Follow_Up. -/
def Obligations.ServoAndPtp : Prop :=
  ((∀ (s : State) (o log : Int), s.time.sample = some (o, log) → slewRuns s = false → s.time.srv = 2 →
     let t0 := srvInterval s log
     let oc := sat o (-1000000 * 65536) (1000000 * 65536)
     let p := halfEven ((forceF s .time Off.TIME_SRV_KP 0 16 : Int) * oc) t0
     let i := halfEven ((if forceF s .time Off.TIME_SRV_CTRL 0 3 = 3 then 0 else (forceF s .time Off.TIME_SRV_KI 0 16 : Int)) * oc) t0
     let integ := sat (s.time.integ - i) (- srvFmax s) (srvFmax s)
     let lim := halfEven ((forceF s .time Off.TIME_SRV_SLEW 0 20 : Int) * t0) 1
     ∃ t, exec .servoSample s = .next t ∧ t.time.integ = integ ∧
       t.time.f = sat (sat (integ - p) (- srvFmax s) (srvFmax s)) (s.time.fPrev - lim) (s.time.fPrev + lim) ∧
       t.time.fPrev = t.time.f ∧ t.time.offset = o ∧ t.time.sample = none ∧ t.time.now = s.time.now ∧
       t = { s with time := t.time, evPend := t.evPend, evRaw := t.evRaw, msix := t.msix }) ∧
   (∀ (s : State) (o log : Int), s.time.sample = some (o, log) → (slewRuns s = true ∨ s.time.srv = 0) →
     ∃ t, exec .servoSample s = .next t ∧ t = { s with time := { s.time with sample := none }, msix := t.msix }) ∧
   (∀ (s : State) (o log : Int), s.time.sample = some (o, log) → slewRuns s = false → s.time.srv = 1 → stepOk s = true →
     ((force s .time Off.TIME_SRV_STEP_THR).toNat : Int) * 65536 < (o.natAbs : Int) →
     ∃ t, exec .servoSample s = .next t ∧ t.time.now = (((s.time.now : Int) + -o * 2 ^ 16) % (baseWrap : Int)).toNat ∧
       t.time.f = s.time.f ∧ t.time.integ = s.time.integ ∧ (islState s 0 = .run → bitOf (evPend t .time) 1 = true)) ∧
   (∀ s : State, slewRuns s = false → (tracker s 2).st = 2 →
     let e : Int := (((tracker s 2).period : Int) - ((1000000 * 2 ^ 16 : Nat) : Int)) * 1000
     let integ := sat (s.time.integ - e) (- srvFmax s) (srvFmax s)
     (forceF s .time Off.TIME_SRV_CTRL 0 3 = 3 → (s.time.srv = 1 ∨ s.time.srv = 2) →
       ∃ t, exec (.servoFreqSample ()) s = .next t ∧ t = { s with time := { s.time with integ := integ }, msix := t.msix }) ∧
     (forceF s .time Off.TIME_SRV_CTRL 0 3 = 4 → s.time.srv ≠ 0 →
       ∃ t, exec (.servoFreqSample ()) s = .next t ∧ t.time.integ = integ ∧
         t.time.f = sat integ (s.time.fPrev - (forceF s .time Off.TIME_SRV_SLEW 0 20 : Int) * 65536)
           (s.time.fPrev + (forceF s .time Off.TIME_SRV_SLEW 0 20 : Int) * 65536) ∧
         t.time.fPrev = t.time.f ∧ t.time.now = s.time.now ∧
         t = { s with time := t.time, evPend := t.evPend, evRaw := t.evRaw, msix := t.msix })) ∧
   (∀ s : State, (s.time.srv = 1 ∨ s.time.srv = 2) → s.time.sample = none → s.time.fHist ≠ [] →
     ∃ t, exec .servoHoldTimeout s = .next t ∧ t.time.srv = 3 ∧
       t.time.f = halfEven (s.time.fHist.foldl (· + ·) 0) s.time.fHist.length ∧ t.time.integ = t.time.f ∧ t.time.now = s.time.now ∧
       t = { s with time := t.time, evPend := t.evPend, evRaw := t.evRaw, msix := t.msix })) ∧
  ((∀ (s : State) (best : Bool) (n : Nat) (rx : Int) (bs p : List Byte) (rest : List (Nat × Option Int × List Byte)),
     oldestPtp s.net.toCtl = some ((n, rx, bs), rest) → ptpMay s = true → n = ptpPort s false → ptpPayload s bs = some p →
     (ptpMsgOf p).type = 0 → (ptpMsgOf p).domain = ptpF s 12 7 → beVal p 1 1 % 16 = 2 → (ptpMsgOf p).flags / 2 ^ 9 % 2 = 0 →
     (ptpOf s).leg.master = true → (ptpOf s).leg.masterId = (ptpMsgOf p).src →
     ∃ t, exec (.ptpMessageRx best) s = .next t ∧ t.net.toCtl = rest ∧
       (ptpOf t).leg.t1 = some (ptpTime (ptpMsgOf p).body + (ptpMsgOf p).corr) ∧ (ptpOf t).leg.t2 = some rx ∧
       (ptpOf t).leg.syncLog = (ptpMsgOf p).log ∧
       t = { s with time := t.time, net := t.net, evPend := t.evPend, msix := t.msix }) ∧
   (∀ s : State, ptpMay s = true → (ptpOf s).onStandby = false → ptpF s 5 1 = 1 → (ptpOf s).stby.master = true → islState s 0 = .run →
     ∃ t, exec (.ptpAnnounceTimeout false) s = .next t ∧ (ptpOf t).onStandby = true ∧ (ptpOf t).activePort = ptpF s 6 4 ∧
       (ptpOf t).leg.master = false ∧ bitOf (evPend t .time) 5 = true ∧
       t = { s with time := t.time, evPend := t.evPend, msix := t.msix }) ∧
   (∀ s : State, ptpMay s = true → (ptpOf s).portState = 6 → (ptpOf s).onStandby = false → (portAt s (ptpPort s false)).link = true →
     ∃ t, exec (.ptpMessageTx 0 false) s = .next t ∧
       (∃ up syn : PtpSent, (ptpOf t).sent = up :: syn :: (ptpOf s).sent ∧
         syn.port = ptpPort s false ∧ syn.type = 0 ∧ syn.seq = mapGet (fun _ => 0) (ptpOf s).seq 0 ∧
         syn.stamp = some (txStamp s (ptpPort s false)) ∧
         up.port = ptpPort s false ∧ up.type = 8 ∧ up.seq = syn.seq ∧ up.time = syn.stamp) ∧
       mapGet (fun _ => 0) (ptpOf t).seq 0 = (mapGet (fun _ => 0) (ptpOf s).seq 0 + 1) % 2 ^ 16 ∧
       t = { s with time := t.time, msix := t.msix }))

/-- R108 to R113: edges at a reference input. A pulse shorter than its deglitch count, outside PPS_IN's range of widths, or of the other
polarity, is no edge, and of REF_IN's cycles every 10,000th alone is one; in QUALIFY the edge that completes qualify_n stable periods locks
the tracker; in LOCKED an edge before its window raises GLITCH and moves neither the output, nor the period, nor the prediction. stop_n
predicted edges that have passed, and the loss of REF_IN, take LOCKED to HOLDOVER and raise STOP. R110, R112, R122: a tracker in HOLDOVER
emits the predicted edge one period after the last; in LOCKED the output edge follows the input edge, at most SLEW nearer to it each time in
the FSYNC_IN tracker. A read of EDGE_NS captures the rest of its stamp. -/
def Obligations.Trackers : Prop :=
  ((∀ (k : Fin 3) (falling : Bool) (width stamp : Nat) (s : State),
     (tracker s k.val).st = 0 ∨ width < fld (trk s k.val Off.SYNC_CFG) 8 8 ∨ (k.val = 1 ∧ (width < 25 ∨ 12500000 < width)) ∨
       falling ≠ bitOf (trk s k.val Off.SYNC_CFG) 1 →
     ∃ t, exec (.refInputEdge k falling width stamp) s = .next t ∧ t = { s with msix := t.msix }) ∧
   (∀ (falling : Bool) (width stamp : Nat) (s : State), fld (trk s 2 Off.SYNC_CFG) 8 8 ≤ width →
     falling = bitOf (trk s 2 Off.SYNC_CFG) 1 → (tracker s 2).st ≠ 0 → (tracker s 2).cycles < 9999 →
     ∃ t, exec (.refInputEdge 2 falling width stamp) s = .next t ∧
       (∀ j, tracker t j = if j = 2 then { tracker s 2 with cycles := (tracker s 2).cycles + 1 } else tracker s j) ∧
       t = { s with trackers := t.trackers, msix := t.msix }) ∧
   (∀ (k : Fin 3) (falling : Bool) (width stamp l p : Nat) (s : State), widthOk s k.val width = true →
     falling = bitOf (trk s k.val Off.SYNC_CFG) 1 → (k.val = 2 → 9999 ≤ (tracker s 2).cycles) → (tracker s k.val).st = 1 →
     (tracker s k.val).last = some l → (tracker s k.val).prevPeriod = some p → stampOf s stamp = l + p →
     within (fld (trk s k.val Off.SYNC_TOL) 0 16) p (trkNominal s k.val) = true →
     (k.val = 0 → 4000000 * 2 ^ 16 ≤ p ∧ p ≤ 50000000 * 2 ^ 16) →
     fld (trk s k.val Off.SYNC_CFG) 16 4 ≤ (tracker s k.val).stable + 1 →
     ∃ t, exec (.refInputEdge k falling width stamp) s = .next t ∧ (tracker t k.val).st = 2 ∧ (tracker t k.val).period = p ∧
       (tracker t k.val).edge = some (l + p) ∧ (tracker t k.val).predicted = l + p + p ∧ (tracker t k.val).out = some (l + p) ∧
       (∀ j, j ≠ k.val → tracker t j = tracker s j) ∧
       t = { s with trackers := t.trackers, evPend := t.evPend, evRaw := t.evRaw, msix := t.msix }) ∧
   (∀ (k : Fin 3) (falling : Bool) (width stamp : Nat) (s : State), widthOk s k.val width = true →
     falling = bitOf (trk s k.val Off.SYNC_CFG) 1 → (k.val = 2 → 9999 ≤ (tracker s 2).cycles) → (tracker s k.val).st = 2 →
     stampOf s stamp + fld (trk s k.val Off.SYNC_WINDOW) 0 20 * 2 ^ 16 < (tracker s k.val).predicted →
     (tracker s k.val).miss < fld (trk s k.val Off.SYNC_CFG) 20 4 →
     (tracker s k.val).change + 1 < fld (trk s k.val Off.SYNC_CFG) 16 4 → islState s 0 = .run →
     ∃ t, exec (.refInputEdge k falling width stamp) s = .next t ∧ bitOf (evPend t .sync) (8 * k.val + 2) = true ∧
       (tracker t k.val).st = 2 ∧ (tracker t k.val).period = (tracker s k.val).period ∧
       (tracker t k.val).predicted = (tracker s k.val).predicted ∧ (tracker t k.val).out = (tracker s k.val).out ∧
       (tracker t k.val).good = (tracker s k.val).good ∧ (tracker t k.val).last8 = (tracker s k.val).last8 ∧
       (∀ j, j ≠ k.val → tracker t j = tracker s j) ∧
       t = { s with trackers := t.trackers, evPend := t.evPend, evRaw := t.evRaw, msix := t.msix }) ∧
   (∀ (k : Fin 3) (s : State), (tracker s k.val).st = 2 → islState s 0 = .run →
     let passed := (tracker s k.val).miss + missedBy (tracker s k.val) (trkWin s k.val) (now16 s)
     (fld (trk s k.val Off.SYNC_CFG) 20 4 ≤ passed →
       ∃ t, exec (.trackerStop k) s = .next t ∧ (tracker t k.val).st = 3 ∧ (tracker t k.val).period = (tracker s k.val).period ∧
         bitOf (evPend t .sync) (8 * k.val + 3) = true ∧ (∀ j, j ≠ k.val → tracker t j = tracker s j) ∧
         t = { s with trackers := t.trackers, evPend := t.evPend, evRaw := t.evRaw, msix := t.msix }) ∧
     (passed < fld (trk s k.val Off.SYNC_CFG) 20 4 →
       ∃ t, exec (.trackerStop k) s = .next t ∧ t = { s with msix := t.msix })) ∧
   (∀ s : State, (tracker s 2).st = 2 → ∃ t, exec .refInLoss s = .next t ∧ (tracker t 2).st = 3 ∧
     (islState s 0 = .run → bitOf (evPend t .sync) 19 = true) ∧ (∀ j, j ≠ 2 → tracker t j = tracker s j) ∧
     t = { s with trackers := t.trackers, evPend := t.evPend, evRaw := t.evRaw, msix := t.msix })) ∧
  ((∀ (k : Fin 3) (o : Nat) (s : State), (tracker s k.val).st = 3 → (tracker s k.val).out = some o →
     ∃ t, exec (.trackerOutputEdge k) s = .next t ∧
       (∀ j, tracker t j = if j = k.val then { tracker s k.val with out := some (o + (tracker s k.val).period) } else tracker s j) ∧
       t = { s with trackers := t.trackers, msix := t.msix }) ∧
   (∀ (k : Fin 3) (e : Nat) (s : State), k.val ≠ 0 → (tracker s k.val).st = 2 → (tracker s k.val).good = some e →
     (tracker s k.val).phaseErr = 0 →
     ∃ t, exec (.trackerOutputEdge k) s = .next t ∧ (tracker t k.val).out = some e ∧ (tracker t k.val).newRate = false ∧
       t = { s with trackers := t.trackers, msix := t.msix }) ∧
   (∀ (e : Nat) (s : State), (tracker s 0).st = 2 → (tracker s 0).good = some e → fsyncGroups s = [] →
     let lim : Int := ((fld (trk s 0 Off.SYNC_SLEW) 0 16 * 2 ^ 16 : Nat) : Int)
     ∃ t, exec (.trackerOutputEdge 0) s = .next t ∧
       (tracker t 0).phaseErr = (tracker s 0).phaseErr - sat (tracker s 0).phaseErr (-lim) lim ∧
       (tracker t 0).out = some ((e : Int) + (tracker t 0).phaseErr).toNat ∧
       t = { s with trackers := t.trackers, msix := t.msix }) ∧
   (∀ (k : Fin 3) (e : Nat) (s : State), (tracker s k.val).edge = some e →
     ∃ t, exec (.syncEdgeNsRead k) s = .next t ∧ t.lastRead = BitVec.ofNat 32 (e / 2 ^ 16 % 1000000000) ∧
       mapGet (fun _ => none) t.captures (regKey .sync (Off.SYNC_EDGE_FRAC + 0x40 * k.val) 0) = some (BitVec.ofNat 32 (e % 2 ^ 16)) ∧
       t = { s with lastRead := t.lastRead, captures := t.captures, msix := t.msix }))

/-- R114 to R117: an arm of an action 0 to 5 takes its snapshot, late clears, and a time already past is remembered; a disarm clears
armed and nothing else of a slot that is not due; on the edge at which it is due it fires, and then disarms. R115, R116: with one armed
slot, whose time has come, on a GPIO level action: the pin takes its level, SLOT_PEND is set, and a one-shot slot disarms; an arm whose
time had passed fires late and raises SLOT_LATE. -/
def Obligations.Slots : Prop :=
  ((∀ (k : Fin 64) (action target width : Nat) (s : State), action < 6 → target < 16 → 0 < width → width < 256 →
     ∃ t, exec (.slotArm k action target width) s = .next t ∧ (slot t k.val).armed = true ∧ (slot t k.val).late = false ∧
       (slot t k.val).action = action ∧ (slot t k.val).target = target ∧ (slot t k.val).width = width ∧
       (slot t k.val).sec = (reg s .time (Off.TIME_SLOT_SEC + 16 * k.val)).toNat ∧
       (slot t k.val).ns = regF s .time (Off.TIME_SLOT_NS + 16 * k.val) 0 30 ∧
       (∀ j, j ≠ k.val → slot t j = slot s j) ∧
       t = { s with regs := t.regs, slots := t.slots, msix := t.msix }) ∧
   (∀ (k : Fin 64) (s : State), bitOf (reg s .time (Off.TIME_SLOT_CTRL + 16 * k.val)) 0 = false →
     (slotDue s k.val = false →
       ∃ t, exec (.slotDisarm k) s = .next t ∧ (∀ j, slot t j = if j = k.val then { slot s j with armed := false } else slot s j) ∧
         t = { s with regs := t.regs, slots := t.slots, msix := t.msix }) ∧
     (slotDue s k.val = true → ((slot s k.val).action = 2 ∨ (slot s k.val).action = 3) →
       ∃ t, exec (.slotDisarm k) s = .next t ∧ (slot t k.val).armed = false ∧
         gpioAt t (slot s k.val).target = ⟨decide ((slot s k.val).action = 2), none⟩ ∧
         bitOf (reg t .time (if k.val < 32 then Off.TIME_SLOT_PEND_LO else Off.TIME_SLOT_PEND_HI)) (k.val % 32) = true ∧
         (∀ j, j ≠ k.val → slot t j = slot s j) ∧
         t = { s with slots := t.slots, gpio := t.gpio, regs := t.regs, evPend := t.evPend, evRaw := t.evRaw, msix := t.msix }))) ∧
  (∀ (k : Fin 64) (s : State), (∀ j, j ≠ k.val → slotDue s j = false) → slotDue s k.val = true →
     ((slot s k.val).action = 2 ∨ (slot s k.val).action = 3) → (slot s k.val).period = 0 → islState s 0 = .run →
     ∃ t, exec .slotFire s = .next t ∧ (slot t k.val).armed = false ∧
       gpioAt t (slot s k.val).target = ⟨decide ((slot s k.val).action = 2), none⟩ ∧
       bitOf (reg t .time (if k.val < 32 then Off.TIME_SLOT_PEND_LO else Off.TIME_SLOT_PEND_HI)) (k.val % 32) = true ∧
       ((slot s k.val).past = true → (slot t k.val).late = true ∧ bitOf (evPend t .time) 6 = true) ∧
       (∀ j, j ≠ k.val → slot t j = slot s j) ∧
       t = { s with slots := t.slots, gpio := t.gpio, regs := t.regs, evPend := t.evPend, evRaw := t.evRaw, msix := t.msix })

/-! ## Output timing, closes and frames (spec/05_output_timing.md, spec/08_ray_compositing.md, spec/13_bunting_protocol.md) -/

/-- R125, R130, R133: the latch of the next planned frame advances the counter by exactly 1 and raises LATCH, and TRANSITION where the
frame is a transition frame or cut the still interval before it short; the phases and the still interval of the displayed frame show in
STAT; a shutter pulse starts SHUT_DLY after its phase's start and lasts SHUT_WID, by the settings in force for its frame, on the pin
that its group drives. -/
def Obligations.FrameTiming : Prop :=
  (∀ (g : Fin 16) (p : FramePlan) (s : State), planOf (tgen s g.val) ((tgen s g.val).cur + 1) = some p →
    ∃ t, exec (.frameLatch g) s = .next t ∧ (tgen t g.val).cur = (tgen s g.val).cur + 1 ∧ (tgen t g.val).latch = p.latch ∧
      (tgen t g.val).transition = p.transition ∧ (tgen t g.val).phase = 0 ∧ (tgen t g.val).still = false ∧
      (pageUp s (.tgen g) = true → bitOf (evPend t (.tgen g)) 0 = true ∧
        (p.transition = true ∨ p.cut = true → bitOf (evPend t (.tgen g)) 5 = true)) ∧
      (∀ j, j ≠ g.val → tgen t j = tgen s j) ∧
      (wearWait s g.val = [] → t = { s with
        tgen := t.tgen, ring := t.ring, layr := t.layr, cpm := t.cpm, trim := t.trim, evPend := t.evPend, evRaw := t.evRaw, msix := t.msix })) ∧
  (∀ (g : Fin 16) (k : Fin 4) (p : FramePlan) (s : State), planOf (tgen s g.val) (tgen s g.val).cur = some p →
    (k.val < p.phases → ∃ t, exec (.phaseStart g k) s = .next t ∧
      tgen t g.val = { tgen s g.val with phase := k.val, still := false } ∧
      (∀ j, j ≠ g.val → tgen t j = tgen s j) ∧ t = { s with tgen := t.tgen, msix := t.msix }) ∧
    (∃ t, exec (.stillStart g) s = .next t ∧ tgen t g.val = { tgen s g.val with still := true } ∧
      (∀ j, j ≠ g.val → tgen t j = tgen s j) ∧ t = { s with tgen := t.tgen, msix := t.msix })) ∧
  (∀ (g : Fin 16) (n k : Fin 4) (f cfg dly wid : Word) (p : FramePlan) (s : State), planOf (tgen s g.val) f = some p → p.gov = .run →
    k.val < p.phases → bitOf p.claim n.val = true → (∀ j, j < g.val → shutClaims s n.val j = false) →
    p.shut[n.val]? = some (cfg, dly, wid) → bitOf cfg k.val = true →
    ∃ t start, exec (.shutterPulse g n k f) s = .next t ∧
      start = p.latch + (phaseOfs p k.val : Rat) + ((dly.toInt : Int) : Rat) ∧
      (n.val, start, start + (fld wid 0 24 : Rat), !bitOf cfg 8) ∈ t.shutPulses ∧
      (∀ y ∈ s.shutPulses, nowNs s ≤ y.2.2.1 → y ∈ t.shutPulses) ∧
      t = { s with shutPulses := t.shutPulses, msix := t.msix })

/-- R140, R141: a request for another state waits for its close, a request for the state that holds withdraws one that waits, and a
request for STOPPED in STOPPED changes nothing; from STOPPED a request starts the generator, and the close of the first frame is taken
on the same edge. -/
def Obligations.GeneratorRequests : Prop :=
  ∀ (g : Fin 16) (c : Instr) (want : GenState) (s : State), pageUp s (.tgen g) = true →
    ((c = .genReqStopped g false ∧ want = .stopped) ∨ (c = .genReqSlack g false ∧ want = .slack) ∨
      (c = .genReqRun g false ∧ want = .run) ∨ (c = .genReqEnsign g false ∧ want = .ensign)) →
    ((tgen s g.val).gen ≠ .stopped → want ≠ (tgen s g.val).gen →
      ∃ t, exec c s = .next t ∧ tgen t g.val = { tgen s g.val with req := some ⟨want, none⟩, reqLate := false } ∧
        (∀ j, j ≠ g.val → tgen t j = tgen s j) ∧ t = { s with tgen := t.tgen, regs := t.regs, msix := t.msix }) ∧
    ((tgen s g.val).gen ≠ .stopped → want = (tgen s g.val).gen →
      ∃ t, exec c s = .next t ∧ tgen t g.val = { tgen s g.val with req := none, reqLate := false } ∧
        (∀ j, j ≠ g.val → tgen t j = tgen s j) ∧ t = { s with tgen := t.tgen, regs := t.regs, msix := t.msix }) ∧
    ((tgen s g.val).gen = .stopped → want = .stopped →
      ∃ t, exec c s = .next t ∧ tgen t g.val = { tgen s g.val with reqLate := false } ∧
        (∀ j, j ≠ g.val → tgen t j = tgen s j) ∧ t = { s with tgen := t.tgen, regs := t.regs, msix := t.msix }) ∧
    ((tgen s g.val).gen = .stopped → want ≠ .stopped →
      ∃ t, exec c s = .next t ∧ (tgen t g.val).gen = want ∧ (tgen t g.val).req = none ∧
        (tgen t g.val).closed = (tgen s g.val).closed + 1 ∧ (tgen t g.val).cur = (tgen s g.val).cur)

/-- R134, R135, R140: a close, once it has come, in a state that no request leaves plans the next frame at its scheduled latch, and
before it has come nothing happens; a request for STOPPED takes effect at the close, and no frame follows. The streaming of a composed
frame starts once, and its frame-start command reaches a free engine of an island in RUN; a waiting command begins once the engine is
free. R226, R227, R241: a frame all of whose rays have passed ends composed: DONE_FRAME names it, abandoned clears and FRAME_DONE is
raised; a frame whose last Pennant has left is abandoned instead. -/
def Obligations.FrameClosesAndEnds : Prop :=
  ((∀ (g : Fin 16) (q : FramePlan) (s : State), pageUp s (.tgen g) = true → (tgen s g.val).gen ≠ .stopped →
     planOf (tgen s g.val) (tgen s g.val).closed = some q →
     nowNs s < q.latch - (forceF s (.tgen g) Off.TGEN_CLOSE_LEAD 0 10 * 1000 : Nat) →
     ∃ t, exec (.commitClose g) s = .next t ∧ t = { s with msix := t.msix }) ∧
   (∀ (g : Fin 16) (q : FramePlan) (s : State), pageUp s (.tgen g) = true → (tgen s g.val).gen ≠ .stopped → (tgen s g.val).req = none →
     (tgen s g.val).closed = (tgen s g.val).cur + 1 → planOf (tgen s g.val) (tgen s g.val).closed = some q →
     q.latch - (forceF s (.tgen g) Off.TGEN_CLOSE_LEAD 0 10 * 1000 : Nat) ≤ nowNs s →
     ∃ t, exec (.commitClose g) s = .next t ∧ (tgen t g.val).closed = (tgen s g.val).closed + 1 ∧
       (tgen t g.val).gen = (tgen s g.val).gen ∧ (tgen t g.val).cur = (tgen s g.val).cur ∧
       (∃ p ∈ (tgen t g.val).plans, p.frame = (tgen s g.val).closed + 1 ∧ p.latch = (tgen s g.val).sched ∧
         p.gov = (tgen s g.val).gen ∧ p.started = false)) ∧
   (∀ (g : Fin 16) (q : FramePlan) (s : State), pageUp s (.tgen g) = true → (tgen s g.val).gen ≠ .stopped →
     (tgen s g.val).req = some ⟨.stopped, none⟩ → (tgen s g.val).closed = (tgen s g.val).cur + 1 →
     planOf (tgen s g.val) (tgen s g.val).closed = some q →
     q.latch - (forceF s (.tgen g) Off.TGEN_CLOSE_LEAD 0 10 * 1000 : Nat) ≤ nowNs s →
     ∃ t, exec (.commitClose g) s = .next t ∧ (tgen t g.val).gen = .stopped ∧ (tgen t g.val).req = none ∧
       (tgen t g.val).closed = (tgen s g.val).closed ∧ bitOf (evPend t (.tgen g)) 1 = true) ∧
   (∀ (g : Fin 16) (pl : FramePlan) (s : State), pageUp s (.tgen g) = true → runPlan s g.val = some pl → pl.started = false →
     (bgrpAt s g.val).wdWait = false →
     ∃ t, exec (.streamStart g) s = .next t ∧
       (∀ q ∈ (tgen t g.val).plans, q.frame = pl.frame → q.started = true) ∧
       (islandRuns s (islRay g.val) = true → (eng s g.val).cur = none →
         ∃ fr, (eng t g.val).cur = some fr ∧ fr.frame = pl.frame ∧ fr.latch = pl.latch ∧ fr.phases = pl.phases)) ∧
   (∀ (g : Fin 16) (fr : EngFrame) (s : State), (eng s g.val).cur = none → (eng s g.val).waiting = some fr →
     ∃ t, exec (.frameComposeBegin g) s = .next t ∧ (eng t g.val).cur = some fr ∧ (eng t g.val).waiting = none ∧
       (eng t g.val).rays = [] ∧ (eng t g.val).dcap = fr.dcap ∧ (∀ j, j ≠ g.val → eng t j = eng s j) ∧
       t = { s with eng := t.eng, msix := t.msix })) ∧
  (∀ (e : Fin 16) (fr : EngFrame) (s : State), (eng s e.val).cur = some fr →
     (frameSent (eng s e.val) fr e.val = true → (∀ r, r < 64 → sigReady s e.val fr r = false) →
       ∃ t, exec (.frameComposed e) s = .next t ∧ (eng t e.val).cur = none ∧ (eng t e.val).doneFrame = fr.frame ∧
         (eng t e.val).abandoned = false ∧ (pageUp s (.reng e) = true → bitOf (evPend t (.reng e)) 0 = true) ∧
         (∀ k, k < 4 → reg t (.reng e) (Off.RENG_FAULT_MAP + 4 * k) = mapGet (fun _ => 0) (eng s e.val).faults k) ∧
         (wearWait s e.val = [] → t = { s with eng := t.eng, regs := t.regs, trim := t.trim, evPend := t.evPend, msix := t.msix })) ∧
     (frameFinished s e.val fr.frame = true →
       ∃ t, exec (.frameAbandon e) s = .next t ∧ (eng t e.val).cur = none ∧ (eng t e.val).doneFrame = fr.frame ∧
         (eng t e.val).abandoned = true ∧ (eng t e.val).waiting = (eng s e.val).waiting ∧
         (pageUp s (.reng e) = true → bitOf (evPend t (.reng e)) 1 = true) ∧
         (wearWait s e.val = [] → t = { s with eng := t.eng, regs := t.regs, trim := t.trim, evPend := t.evPend, msix := t.msix })))

/-- R237, R382: a withdrawal within 64 µs of the latch, or the fifth of a frame, is refused; else the attempt number rises, the
next attempt waits for its start and WITHDRAWN is raised. At an ENSIGN close the renderer leaves dark every ring that the region does
not enable; for a group that the region does not name it sends nothing. -/
def Obligations.WithdrawalAndEnsign : Prop :=
  (∀ (g : Fin 16) (s : State), pageUp s (.bgrp g) = true →
    ((tgen s g.val).gen ≠ .run ∨ runPlan s g.val = none ∨
      (∃ pl, runPlan s g.val = some pl ∧ (pl.latch - 64000 ≤ nowNs s ∨ 4 ≤ wdSoFar s g.val pl.frame))) →
    ∃ t, exec (.withdrawCmd g) s = .next t ∧ evPend t (.bgrp g) = putBit (evPend s (.bgrp g)) 9 true ∧
      t = { s with evPend := t.evPend, msix := t.msix }) ∧
  (∀ (g : Fin 16) (pl : FramePlan) (s : State), pageUp s (.bgrp g) = true → (tgen s g.val).gen = .run →
    runPlan s g.val = some pl → nowNs s < pl.latch - 64000 → wdSoFar s g.val pl.frame < 4 →
    ∃ t, exec (.withdrawCmd g) s = .next t ∧ (bgrpAt t g.val).wdCount = wdSoFar s g.val pl.frame + 1 ∧
      (bgrpAt t g.val).wdFrame = pl.frame ∧ (bgrpAt t g.val).wdWait = true ∧ bitOf (evPend t (.bgrp g)) 8 = true) ∧
  (∀ (g : Fin 16) (s : State), pageUp s (.bgrp g) = true → (bgrpAt s g.val).wdWait = true →
    ∃ t, exec (.withdrawRestart g) s = .next t ∧ (bgrpAt t g.val).wdWait = false ∧
      (∀ pl, wdPlan s g.val = some pl → ∀ q ∈ (tgen t g.val).plans, q.frame = pl.frame → q.started = true) ∧
      (wdPlan s g.val = none → t = { s with bgrp := t.bgrp, msix := t.msix })) ∧
  (∀ (g : Fin 16) (pl : FramePlan) (s : State), pageUp s (.tgen g) = true → islandUp s islCtl = true →
    planOf (tgen s g.val) (tgen s g.val).closed = some pl → pl.gov = .ensign → pl.started = false →
    ∃ t, exec (.ensignRender g) s = .next t ∧
      (∀ q ∈ (tgen t g.val).plans, q.frame = pl.frame → q.started = true ∧ q.dark = (List.range 16).filter (ensDark s g.val)) ∧
      (s.ens.group ≠ some g.val → t = { s with tgen := t.tgen, msix := t.msix }) ∧
      (s.ens.group = some g.val → s.ens.changed = true → t.ens.changed = false))

/-! ## Layers, geometry and ray engines (spec/06_layers_and_surfaces.md to spec/08_ray_compositing.md) -/

/-- R155, R162, R164, R165: the host's buffer commands. A CLAIM that passes makes the buffer the host's and PRODUCING; one that does
not gives its result and BUF_CMD_REFUSED; READY takes seq from BUF_ARG; FREE of a buffer that is held waits, else it empties the
buffer; a held buffer whose last holder has ended retires to READY, or to FREE where a FREE waits. -/
def Obligations.BufferOwnership : Prop :=
  ∀ (b : Fin 16384) (s : State),
    (pageUp s .layr = true → claimCode s b.val = 0 →
      ∃ t, exec (.bufClaim b) s = .next t ∧
        bufAt t b.val = { bufAt s b.val with st := 1, ownerClass := 1, ownerInst := 0, freePending := false, holds := [] } ∧
        (∀ j, j ≠ b.val → bufAt t j = bufAt s j) ∧ reg t .layr Off.LAYR_BUF_CMD_STAT = 0 ∧
        t = { s with layr := t.layr, regs := t.regs, ecc := t.ecc, evPend := t.evPend, msix := t.msix }) ∧
    (pageUp s .layr = true → claimCode s b.val ≠ 0 →
      ∃ t, exec (.bufClaim b) s = .next t ∧ reg t .layr Off.LAYR_BUF_CMD_STAT = BitVec.ofNat 32 (claimCode s b.val) ∧
        bitOf (evPend t .layr) 4 = true ∧ t = { s with regs := t.regs, evPend := t.evPend, msix := t.msix }) ∧
    (pageUp s .layr = true → bufTblValid s = true → (bufAt s b.val).st = 1 → (bufAt s b.val).ownerClass = 1 →
      (∃ t, exec (.bufReady b) s = .next t ∧
        bufAt t b.val = { bufAt s b.val with st := 2, seq := reg s .layr Off.LAYR_BUF_ARG } ∧
        (∀ j, j ≠ b.val → bufAt t j = bufAt s j) ∧ reg t .layr Off.LAYR_BUF_CMD_STAT = 0 ∧
        t = { s with layr := t.layr, regs := t.regs, scal := t.scal, evPend := t.evPend, msix := t.msix }) ∧
      (∃ t, exec (.bufFree b) s = .next t ∧ bufAt t b.val = Buf.initial ∧ (∀ j, j ≠ b.val → bufAt t j = bufAt s j) ∧
        t = { s with layr := t.layr, regs := t.regs, msix := t.msix })) ∧
    (pageUp s .layr = true → bufTblValid s = true → (bufAt s b.val).st = 3 →
      ∃ t, exec (.bufFree b) s = .next t ∧ bufAt t b.val = { bufAt s b.val with freePending := true } ∧
        bitOf (evPend t .layr) 3 = true ∧ (∀ j, j ≠ b.val → bufAt t j = bufAt s j) ∧
        t = { s with layr := t.layr, regs := t.regs, evPend := t.evPend, msix := t.msix }) ∧
    ((bufAt s b.val).st = 3 → (bufAt s b.val).holds = [] →
      ∃ t, exec (.bufRetire b) s = .next t ∧
        bufAt t b.val = (if (bufAt s b.val).freePending = true then Buf.initial else { bufAt s b.val with st := 2 }) ∧
        (pageUp s .layr = true → bitOf (evPend t .layr) 2 = true) ∧ (∀ j, j ≠ b.val → bufAt t j = bufAt s j) ∧
        t = { s with layr := t.layr, evPend := t.evPend, msix := t.msix })

/-- R158 to R160, R205, R220, R229, R246, R250, R300, R354, R626: an access of an indexed data register. In every state in which its page
answers, and at every address, the access completes: a read gives the entry that the address names, the old or the new one where a running
fill may have reached it, and 0 where it names none; a write puts the entry, where the table is free; a write of a busy table changes no
entry and raises the unit's event; a write of an address that names no entry changes none and raises nothing; and each advances the address
within its field. While the page does not answer, a read gives all ones and a write does nothing. -/
def Obligations.IndexedPorts : Prop :=
  (∀ (x : Word) (k c a : Nat) (s : State), pageUp s .layr = true → k = regF s .layr Off.LAYR_LUT_CTRL 0 6 →
    c = (if regF s .layr Off.LAYR_LUT_CTRL 8 2 = 3 then 0 else regF s .layr Off.LAYR_LUT_CTRL 8 2) →
    a = regF s .layr Off.LAYR_LUT_ADDR 0 11 →
    (a ≤ 1024 → (lutBusy s k || s.layr.fill.isSome) = false → ∃ t, exec (.lutDataAccess (some x)) s = .next t ∧
      reg t .layr Off.LAYR_LUT_ADDR = BitVec.ofNat 32 ((a + 1) % 2 ^ 11) ∧
      (∀ k' c' a', c' < 3 → curveEntry (lutCurve t k' c') a' =
        if k' = k ∧ c' = c ∧ a' = a then x.toNat % 2 ^ 20 else curveEntry (lutCurve s k' c') a') ∧
      t = { advance s .layr Off.LAYR_LUT_ADDR 11 with layr := t.layr, msix := t.msix }) ∧
    (a ≤ 1024 → (lutBusy s k || s.layr.fill.isSome) = true → ∃ t, exec (.lutDataAccess (some x)) s = .next t ∧
      reg t .layr Off.LAYR_LUT_ADDR = BitVec.ofNat 32 ((a + 1) % 2 ^ 11) ∧
      bitOf (evPend t .layr) 7 = true ∧ t = { advance s .layr Off.LAYR_LUT_ADDR 11 with evPend := t.evPend, msix := t.msix }) ∧
    (1024 < a → ∃ t, exec (.lutDataAccess (some x)) s = .next t ∧
      reg t .layr Off.LAYR_LUT_ADDR = BitVec.ofNat 32 ((a + 1) % 2 ^ 11) ∧
      t = { advance s .layr Off.LAYR_LUT_ADDR 11 with msix := t.msix }) ∧
    (1024 < a → ∃ t, exec (.lutDataAccess none) s = .next t ∧
      reg t .layr Off.LAYR_LUT_ADDR = BitVec.ofNat 32 ((a + 1) % 2 ^ 11) ∧ t.lastRead = 0 ∧
      t = { advance s .layr Off.LAYR_LUT_ADDR 11 with lastRead := t.lastRead, msix := t.msix }) ∧
    (a ≤ 1024 → (∀ q, s.layr.fill = some q → q.1 ≠ k ∨ (q.2.1 ≠ c ∧ q.2.1 ≠ 3)) → ∃ t, exec (.lutDataAccess none) s = .next t ∧
      reg t .layr Off.LAYR_LUT_ADDR = BitVec.ofNat 32 ((a + 1) % 2 ^ 11) ∧
      t.lastRead = BitVec.ofNat 32 (curveEntry (lutCurve s k c) a) ∧
      t = { advance s .layr Off.LAYR_LUT_ADDR 11 with lastRead := t.lastRead, msix := t.msix }) ∧
    (a ≤ 1024 → ∀ p fc, s.layr.fill = some (k, fc, p) → (fc = c ∨ fc = 3) → ∃ t, exec (.lutDataAccess none) s = .next t ∧
      reg t .layr Off.LAYR_LUT_ADDR = BitVec.ofNat 32 ((a + 1) % 2 ^ 11) ∧
      (t.lastRead = BitVec.ofNat 32 (curveEntry (lutCurve s k c) a) ∨ t.lastRead = BitVec.ofNat 32 (presetEntry p a)) ∧
      t = { advance s .layr Off.LAYR_LUT_ADDR 11 with lastRead := t.lastRead, free := t.free, msix := t.msix })) ∧
  (∀ (e : Fin 16) (x : Word) (copy c a : Nat) (s : State), pageUp s (.reng e) = true → copy = regF s (.reng e) Off.RENG_OLUT_CTRL 0 1 →
    c = (if regF s (.reng e) Off.RENG_OLUT_CTRL 1 2 = 3 then 0 else regF s (.reng e) Off.RENG_OLUT_CTRL 1 2) →
    a = regF s (.reng e) Off.RENG_OLUT_ADDR 0 13 →
    (a ≤ 4096 → (olutBusy s e.val copy || (eng s e.val).ofill.isSome) = false → ∃ t, exec (.olutDataAccess e (some x)) s = .next t ∧
      reg t (.reng e) Off.RENG_OLUT_ADDR = BitVec.ofNat 32 ((a + 1) % 2 ^ 13) ∧
      (∀ j, eng t j = if j = e.val then { eng s j with olut := (eng t j).olut } else eng s j) ∧
      (∀ copy' c' j, c' < 3 → olutEntry (eng t e.val) copy' c' j =
        if copy' = copy ∧ c' = c ∧ j = a then x.toNat % 2 ^ 20 else olutEntry (eng s e.val) copy' c' j) ∧
      t = { advance s (.reng e) Off.RENG_OLUT_ADDR 13 with eng := t.eng, msix := t.msix }) ∧
    (a ≤ 4096 → (olutBusy s e.val copy || (eng s e.val).ofill.isSome) = true → ∃ t, exec (.olutDataAccess e (some x)) s = .next t ∧
      reg t (.reng e) Off.RENG_OLUT_ADDR = BitVec.ofNat 32 ((a + 1) % 2 ^ 13) ∧
      bitOf (evPend t (.reng e)) 9 = true ∧ t = { advance s (.reng e) Off.RENG_OLUT_ADDR 13 with evPend := t.evPend, msix := t.msix }) ∧
    (4096 < a → ∃ t, exec (.olutDataAccess e (some x)) s = .next t ∧
      reg t (.reng e) Off.RENG_OLUT_ADDR = BitVec.ofNat 32 ((a + 1) % 2 ^ 13) ∧
      t = { advance s (.reng e) Off.RENG_OLUT_ADDR 13 with msix := t.msix }) ∧
    (4096 < a → ∃ t, exec (.olutDataAccess e none) s = .next t ∧
      reg t (.reng e) Off.RENG_OLUT_ADDR = BitVec.ofNat 32 ((a + 1) % 2 ^ 13) ∧ t.lastRead = 0 ∧
      t = { advance s (.reng e) Off.RENG_OLUT_ADDR 13 with lastRead := t.lastRead, msix := t.msix }) ∧
    (a ≤ 4096 → (∀ q, (eng s e.val).ofill = some q → q.1 ≠ copy ∨ (q.2 ≠ c ∧ q.2 ≠ 3)) → ∃ t, exec (.olutDataAccess e none) s = .next t ∧
      reg t (.reng e) Off.RENG_OLUT_ADDR = BitVec.ofNat 32 ((a + 1) % 2 ^ 13) ∧
      t.lastRead = BitVec.ofNat 32 (olutEntry (eng s e.val) copy c a) ∧
      t = { advance s (.reng e) Off.RENG_OLUT_ADDR 13 with lastRead := t.lastRead, msix := t.msix }) ∧
    (a ≤ 4096 → ∀ fc, (eng s e.val).ofill = some (copy, fc) → (fc = c ∨ fc = 3) → ∃ t, exec (.olutDataAccess e none) s = .next t ∧
      reg t (.reng e) Off.RENG_OLUT_ADDR = BitVec.ofNat 32 ((a + 1) % 2 ^ 13) ∧
      (t.lastRead = BitVec.ofNat 32 (olutEntry (eng s e.val) copy c a) ∨ t.lastRead = BitVec.ofNat 32 (olutFill a)) ∧
      t = { advance s (.reng e) Off.RENG_OLUT_ADDR 13 with lastRead := t.lastRead, free := t.free, msix := t.msix })) ∧
  (∀ (e : Fin 16) (x : Word) (set a : Nat) (s : State), pageUp s (.reng e) = true → set = regF s (.reng e) Off.RENG_KERN_SEL 0 2 →
    a = regF s (.reng e) Off.RENG_KERN_ADDR 0 8 →
    (kernBusy s e.val set = false → ∃ t, exec (.kernDataAccess e (some x)) s = .next t ∧
      reg t (.reng e) Off.RENG_KERN_ADDR = BitVec.ofNat 32 ((a + 1) % 2 ^ 8) ∧
      (∀ j, eng t j = if j = e.val then { eng s j with kern := (eng t j).kern } else eng s j) ∧
      (∀ j, mapGet kernDefault (eng t e.val).kern j =
        if j = set * 256 + a then x.toNat % 2 ^ 16 else mapGet kernDefault (eng s e.val).kern j) ∧
      t = { advance s (.reng e) Off.RENG_KERN_ADDR 8 with eng := t.eng, msix := t.msix }) ∧
    (kernBusy s e.val set = true → ∃ t, exec (.kernDataAccess e (some x)) s = .next t ∧
      reg t (.reng e) Off.RENG_KERN_ADDR = BitVec.ofNat 32 ((a + 1) % 2 ^ 8) ∧
      bitOf (evPend t (.reng e)) 10 = true ∧ t = { advance s (.reng e) Off.RENG_KERN_ADDR 8 with evPend := t.evPend, msix := t.msix }) ∧
    (∃ t, exec (.kernDataAccess e none) s = .next t ∧
      reg t (.reng e) Off.RENG_KERN_ADDR = BitVec.ofNat 32 ((a + 1) % 2 ^ 8) ∧
      t.lastRead = BitVec.ofNat 32 (mapGet kernDefault (eng s e.val).kern (set * 256 + a)) ∧
      t = { advance s (.reng e) Off.RENG_KERN_ADDR 8 with lastRead := t.lastRead, msix := t.msix })) ∧
  (∀ (x : Word) (b a : Nat) (s : State), pageUp s .scal = true → b = regF s .scal Off.SCAL_COEF_SEL 0 3 →
    a = regF s .scal Off.SCAL_COEF_ADDR 0 9 →
    (coefBusy s b = false → ∃ t, exec (.coefDataAccess (some x)) s = .next t ∧
      reg t .scal Off.SCAL_COEF_ADDR = BitVec.ofNat 32 ((a + 1) % 2 ^ 9) ∧
      (∀ j, mapGet coefDefault t.scal.coef j = if j = b * 512 + a then x.toNat % 2 ^ 16 else mapGet coefDefault s.scal.coef j) ∧
      (t.scal = { s.scal with coef := t.scal.coef }) ∧
      t = { advance s .scal Off.SCAL_COEF_ADDR 9 with scal := t.scal, msix := t.msix }) ∧
    (coefBusy s b = true → ∃ t, exec (.coefDataAccess (some x)) s = .next t ∧
      reg t .scal Off.SCAL_COEF_ADDR = BitVec.ofNat 32 ((a + 1) % 2 ^ 9) ∧
      bitOf (evPend t .scal) 5 = true ∧ t = { advance s .scal Off.SCAL_COEF_ADDR 9 with evPend := t.evPend, msix := t.msix }) ∧
    (∃ t, exec (.coefDataAccess none) s = .next t ∧
      reg t .scal Off.SCAL_COEF_ADDR = BitVec.ofNat 32 ((a + 1) % 2 ^ 9) ∧
      t.lastRead = BitVec.ofNat 32 (mapGet coefDefault s.scal.coef (b * 512 + a)) ∧
      t = { advance s .scal Off.SCAL_COEF_ADDR 9 with lastRead := t.lastRead, msix := t.msix })) ∧
  (∀ (x : Word) (a : Nat) (s : State), pageUp s .scal = true → a = regF s .scal Off.SCAL_PMAP_ADDR 0 12 →
    (∃ t, exec (.pmapDataAccess (some x)) s = .next t ∧
      reg t .scal Off.SCAL_PMAP_ADDR = BitVec.ofNat 32 ((a + 1) % 2 ^ 12) ∧
      (∀ j, mapGet (fun _ => 0) t.scal.pmap j = if j = a then x.toNat % 64 else mapGet (fun _ => 0) s.scal.pmap j) ∧
      (t.scal = { s.scal with pmap := t.scal.pmap }) ∧
      t = { advance s .scal Off.SCAL_PMAP_ADDR 12 with scal := t.scal, msix := t.msix }) ∧
    (∃ t, exec (.pmapDataAccess none) s = .next t ∧
      reg t .scal Off.SCAL_PMAP_ADDR = BitVec.ofNat 32 ((a + 1) % 2 ^ 12) ∧
      t.lastRead = BitVec.ofNat 32 (mapGet (fun _ => 0) s.scal.pmap a) ∧
      t = { advance s .scal Off.SCAL_PMAP_ADDR 12 with lastRead := t.lastRead, msix := t.msix })) ∧
  (∀ (x : Word) (ty k a : Nat) (s : State), pageUp s .trim = true → ty = regF s .trim Off.TRIM_TP_SEL 0 6 →
    k = regF s .trim Off.TRIM_TP_SEL 8 1 → a = regF s .trim Off.TRIM_TP_ADDR 0 7 →
    (a ≤ 74 → tsetBusy s ty k = false → ∃ t, exec (.tpDataAccess (some x)) s = .next t ∧
      reg t .trim Off.TRIM_TP_ADDR = BitVec.ofNat 32 ((a + 1) % 2 ^ 7) ∧
      (∀ ty' k' a', k' < 2 → a' < 128 → tsetWord t.trim.tsets ty' k' a' =
        if ty' = ty ∧ k' = k ∧ a' = a then x else tsetWord s.trim.tsets ty' k' a') ∧
      (t.trim = { s.trim with tsets := t.trim.tsets }) ∧
      t = { advance s .trim Off.TRIM_TP_ADDR 7 with trim := t.trim, msix := t.msix }) ∧
    (a ≤ 74 → tsetBusy s ty k = true → ∃ t, exec (.tpDataAccess (some x)) s = .next t ∧
      reg t .trim Off.TRIM_TP_ADDR = BitVec.ofNat 32 ((a + 1) % 2 ^ 7) ∧
      bitOf (evPend t .trim) 5 = true ∧ t = { advance s .trim Off.TRIM_TP_ADDR 7 with evPend := t.evPend, msix := t.msix }) ∧
    (74 < a → ∃ t, exec (.tpDataAccess (some x)) s = .next t ∧
      reg t .trim Off.TRIM_TP_ADDR = BitVec.ofNat 32 ((a + 1) % 2 ^ 7) ∧
      t = { advance s .trim Off.TRIM_TP_ADDR 7 with msix := t.msix }) ∧
    (74 < a → ∃ t, exec (.tpDataAccess none) s = .next t ∧
      reg t .trim Off.TRIM_TP_ADDR = BitVec.ofNat 32 ((a + 1) % 2 ^ 7) ∧ t.lastRead = 0 ∧
      t = { advance s .trim Off.TRIM_TP_ADDR 7 with lastRead := t.lastRead, msix := t.msix }) ∧
    (a ≤ 74 → ∃ t, exec (.tpDataAccess none) s = .next t ∧
      reg t .trim Off.TRIM_TP_ADDR = BitVec.ofNat 32 ((a + 1) % 2 ^ 7) ∧
      t.lastRead = tsetWord s.trim.tsets ty k a ∧
      t = { advance s .trim Off.TRIM_TP_ADDR 7 with lastRead := t.lastRead, msix := t.msix })) ∧
  (∀ (p : Fin 256) (x : Word) (a : Nat) (s : State), pageUp s (.bport p) = true → a = regF s (.bport p) Off.BPORT_CBL_ADDR 0 8 →
    (a ≤ 192 → decide ((ringAt s p.val).st = 4) = false → ∃ t, exec (.cblDataAccess p (some x)) s = .next t ∧
      reg t (.bport p) Off.BPORT_CBL_ADDR = BitVec.ofNat 32 ((a + 1) % 2 ^ 8) ∧
      (∀ q, ringAt t q = if q = p.val then { ringAt s q with cbl := (ringAt t q).cbl } else ringAt s q) ∧
      (∀ j, mapGet (fun _ => 0) (ringAt t p.val).cbl j =
        if j = a then fld x 0 24 else mapGet (fun _ => 0) (ringAt s p.val).cbl j) ∧
      t = { advance s (.bport p) Off.BPORT_CBL_ADDR 8 with ring := t.ring, msix := t.msix }) ∧
    (a ≤ 192 → decide ((ringAt s p.val).st = 4) = true → ∃ t, exec (.cblDataAccess p (some x)) s = .next t ∧
      reg t (.bport p) Off.BPORT_CBL_ADDR = BitVec.ofNat 32 ((a + 1) % 2 ^ 8) ∧
      t = { advance s (.bport p) Off.BPORT_CBL_ADDR 8 with msix := t.msix }) ∧
    (192 < a → ∃ t, exec (.cblDataAccess p (some x)) s = .next t ∧
      reg t (.bport p) Off.BPORT_CBL_ADDR = BitVec.ofNat 32 ((a + 1) % 2 ^ 8) ∧
      t = { advance s (.bport p) Off.BPORT_CBL_ADDR 8 with msix := t.msix }) ∧
    (192 < a → ∃ t, exec (.cblDataAccess p none) s = .next t ∧
      reg t (.bport p) Off.BPORT_CBL_ADDR = BitVec.ofNat 32 ((a + 1) % 2 ^ 8) ∧ t.lastRead = 0 ∧
      t = { advance s (.bport p) Off.BPORT_CBL_ADDR 8 with lastRead := t.lastRead, msix := t.msix }) ∧
    (a ≤ 192 → ∃ t, exec (.cblDataAccess p none) s = .next t ∧
      reg t (.bport p) Off.BPORT_CBL_ADDR = BitVec.ofNat 32 ((a + 1) % 2 ^ 8) ∧
      t.lastRead = BitVec.ofNat 32 (mapGet (fun _ => 0) (ringAt s p.val).cbl a) ∧
      t = { advance s (.bport p) Off.BPORT_CBL_ADDR 8 with lastRead := t.lastRead, msix := t.msix })) ∧
  (∀ (x : Word) (a : Nat) (s : State), pageUp s .geom = true → a = regF s .geom Off.GEOM_VIEW_ADDR 0 8 →
    (typeBusy s (typeSel s) = false → ∃ t, exec (.viewZAccess (some x)) s = .next t ∧
      reg t .geom Off.GEOM_VIEW_ADDR = BitVec.ofNat 32 ((a + 1) % 2 ^ 8) ∧
      (∀ j, mapGet (fun _ => 0) t.geom.viewZ j = if j = viewKey s then x &&& 0xFFFF else mapGet (fun _ => 0) s.geom.viewZ j) ∧
      (t.geom = { s.geom with viewZ := t.geom.viewZ }) ∧
      t = { advance s .geom Off.GEOM_VIEW_ADDR 8 with geom := t.geom, msix := t.msix }) ∧
    (typeBusy s (typeSel s) = true → ∃ t, exec (.viewZAccess (some x)) s = .next t ∧
      reg t .geom Off.GEOM_VIEW_ADDR = BitVec.ofNat 32 ((a + 1) % 2 ^ 8) ∧
      bitOf (evPend t .geom) 1 = true ∧ t = { advance s .geom Off.GEOM_VIEW_ADDR 8 with evPend := t.evPend, msix := t.msix }) ∧
    (∃ t, exec (.viewZAccess none) s = .next t ∧
      reg t .geom Off.GEOM_VIEW_ADDR = BitVec.ofNat 32 ((a + 1) % 2 ^ 8) ∧
      t.lastRead = mapGet (fun _ => 0) s.geom.viewZ (viewKey s) ∧
      t = { advance s .geom Off.GEOM_VIEW_ADDR 8 with lastRead := t.lastRead, msix := t.msix })) ∧
  (∀ (e : Fin 16) (p : Fin 256) (c : Instr) (w : Option Word) (s : State),
    (c = .lutDataAccess w ∧ pageUp s .layr = false) ∨ (c = .viewZAccess w ∧ pageUp s .geom = false) ∨
      (c = .olutDataAccess e w ∧ pageUp s (.reng e) = false) ∨ (c = .kernDataAccess e w ∧ pageUp s (.reng e) = false) ∨
      (c = .coefDataAccess w ∧ pageUp s .scal = false) ∨ (c = .pmapDataAccess w ∧ pageUp s .scal = false) ∨
      (c = .tpDataAccess w ∧ pageUp s .trim = false) ∨ (c = .cblDataAccess p w ∧ pageUp s (.bport p) = false) →
    ∃ t, exec c s = .next t ∧ (w = none → t.lastRead = 0xFFFFFFFF) ∧ (w ≠ none → t.lastRead = s.lastRead) ∧
      t = { s with lastRead := t.lastRead, msix := t.msix })

/-- R159, R160, R228, R229: a fill starts where no fill runs and nothing uses the table, else LUT_BUSY or OLUT_BUSY is raised; its
end puts the preset into the curves named. -/
def Obligations.LutFills : Prop :=
  (∀ (k : Fin 64) (c : Fin 4) (p : Fin 8) (s : State), pageUp s .layr = true →
    (p.val < 7 → s.layr.fill = none → lutBusy s k.val = false →
      ∃ t, exec (.lutFillStart k c p) s = .next t ∧ t.layr = { s.layr with fill := some (k.val, c.val, p.val) } ∧
        t = { s with layr := t.layr, regs := t.regs, msix := t.msix }) ∧
    (p.val = 7 ∨ s.layr.fill.isSome = true ∨ lutBusy s k.val = true →
      ∃ t, exec (.lutFillStart k c p) s = .next t ∧ bitOf (evPend t .layr) 7 = true ∧
        t = { s with evPend := t.evPend, regs := t.regs, msix := t.msix })) ∧
  (∀ (k c p : Nat) (s : State), s.layr.fill = some (k, c, p) → c < 4 →
    ∃ t, exec .lutFillDone s = .next t ∧ t.layr.fill = none ∧
      (∀ k' c' a, c' < 3 → curveEntry (lutCurve t k' c') a =
        if k' = k ∧ (c' = c ∨ c = 3) then presetEntry p a else curveEntry (lutCurve s k' c') a) ∧
      t = { s with layr := t.layr, msix := t.msix }) ∧
  (∀ (e : Fin 16) (copy : Bool) (c : Fin 4) (s : State), pageUp s (.reng e) = true →
    (olutBusy s e.val (b2n copy) = false → (eng s e.val).ofill = none →
      ∃ t, exec (.olutFillStart e copy c) s = .next t ∧ eng t e.val = { eng s e.val with ofill := some (b2n copy, c.val) } ∧
        (∀ j, j ≠ e.val → eng t j = eng s j) ∧ t = { s with eng := t.eng, regs := t.regs, msix := t.msix }) ∧
    (olutBusy s e.val (b2n copy) = true ∨ (eng s e.val).ofill.isSome = true →
      ∃ t, exec (.olutFillStart e copy c) s = .next t ∧ bitOf (evPend t (.reng e)) 9 = true ∧
        t = { s with evPend := t.evPend, regs := t.regs, msix := t.msix })) ∧
  (∀ (e : Fin 16) (copy c : Nat) (s : State), (eng s e.val).ofill = some (copy, c) → c < 4 →
    ∃ t, exec (.olutFillDone e) s = .next t ∧ (eng t e.val).ofill = none ∧
      (∀ c' a, c' < 3 → (c' = c ∨ c = 3) → olutEntry (eng t e.val) copy c' a = olutFill a) ∧
      t = { s with eng := t.eng, msix := t.msix })

/-- R180, R190, R191, R201, R202, R205, R296, R318: the writes of tables and their bases. What the rules protect while it is in use
stands, and the write raises its event; any other write takes its bits. -/
def Obligations.TableWrites : Prop :=
  (∀ (k : Fin 2097152) (w : Fin 4) (v : Word) (s : State), pageUp s .geom = true →
    (∃ t, exec (.meshWrite k w v) s = .next t ∧
      (∀ (j : Nat) (x : Fin 4), meshWord t j x.val = if j = k.val ∧ x = w ∧ w.val ≠ 3 then v else meshWord s j x.val) ∧
      t = { s with geom := t.geom, msix := t.msix }) ∧
    (∃ t, exec (.meshRead k w) s = .next t ∧ t.lastRead = meshWord s k.val w.val ∧
      t = { s with lastRead := t.lastRead, msix := t.msix })) ∧
  (∀ (w : Fin 16) (v : Word) (c : Nat) (s : State), pageUp s .geom = true → c = regF s .geom Off.GEOM_CTX_SEL 0 16 →
    w.val < 12 → c < 49152 → ctxPresent s c = true →
    ((tgen s (ctxGroup c)).gen ≠ .stopped → ∃ t, exec (.ctxDataWrite w v) s = .next t ∧ bitOf (evPend t .geom) 0 = true ∧
      t = { s with evPend := t.evPend, msix := t.msix }) ∧
    ((tgen s (ctxGroup c)).gen = .stopped → ∃ t, exec (.ctxDataWrite w v) s = .next t ∧
      (∀ c' (x : Fin 16), ctxWord t c' x.val =
        if c' = c ∧ x = w then v &&& BitVec.ofNat 32 (ctxMask w.val) else ctxWord s c' x.val) ∧
      (ringAt t (c / 192)).needFull.contains (c % 192) = true ∧
      t = { s with geom := t.geom, ring := t.ring, evPend := t.evPend, evRaw := t.evRaw, msix := t.msix })) ∧
  (∀ (w : Fin 16) (v : Word) (s : State), pageUp s .geom = true → 12 ≤ w.val →
    ∃ t, exec (.ctxDataWrite w v) s = .next t ∧ t = { s with msix := t.msix }) ∧
  (∀ (v : Word) (s : State), pageUp s .geom = true →
    (typeBusy s (typeSel s) = true →
      (∃ t, exec (.typeCfgWrite v) s = .next t ∧ bitOf (evPend t .geom) 1 = true ∧ t = { s with evPend := t.evPend, msix := t.msix }) ∧
      (∃ t, exec (.viewXyWrite v) s = .next t ∧ bitOf (evPend t .geom) 1 = true ∧ t = { s with evPend := t.evPend, msix := t.msix })) ∧
    (typeBusy s (typeSel s) = false →
      (bitOf v 31 = true → 256 < tHW v * tVW v ∨ 256 < tHH v * tVH v →
        ∃ t, exec (.typeCfgWrite v) s = .next t ∧ bitOf (evPend t .geom) 2 = true ∧ t = { s with evPend := t.evPend, msix := t.msix }) ∧
      (bitOf v 31 = false ∨ (tHW v * tVW v ≤ 256 ∧ tHH v * tVH v ≤ 256) →
        ∃ t, exec (.typeCfgWrite v) s = .next t ∧
          (∀ j, typeCfg t j = if j = typeSel s then v &&& 0x80FFFFFF else typeCfg s j) ∧
          t = { s with geom := t.geom, msix := t.msix }) ∧
      (∃ t, exec (.viewXyWrite v) s = .next t ∧
        (∀ j, mapGet (fun _ => 0) t.geom.viewXY j = if j = viewKey s then v else mapGet (fun _ => 0) s.geom.viewXY j) ∧
        t = { s with geom := t.geom, msix := t.msix }))) ∧
  (∀ (isHi : Bool) (v : Word) (s : State), pageUp s .layr = true →
    ((liveDescs s).isEmpty = false → ∃ t, exec (.layrTableBaseWrite true isHi v) s = .next t ∧ bitOf (evPend t .layr) 4 = true ∧
      t = { s with evPend := t.evPend, msix := t.msix }) ∧
    ((∃ e ∈ s.layr.bufs, e.2.st ≠ 0) → ∃ t, exec (.layrTableBaseWrite false isHi v) s = .next t ∧ bitOf (evPend t .layr) 4 = true ∧
      t = { s with evPend := t.evPend, msix := t.msix }) ∧
    (∀ layer : Bool, (if layer then (liveDescs s).isEmpty = true else ∀ e ∈ s.layr.bufs, e.2.st = 0) →
      let lo := if layer then Off.LAYR_LAYER_TBL_BASE_LO else Off.LAYR_BUF_TBL_BASE_LO
      let hi := if layer then Off.LAYR_LAYER_TBL_BASE_HI else Off.LAYR_BUF_TBL_BASE_HI
      ∃ t, exec (.layrTableBaseWrite layer isHi v) s = .next t ∧
        reg t .layr lo = (if isHi then reg s .layr lo else v) ∧
        fld (reg t .layr hi) 0 3 = fld (if isHi then v else reg s .layr hi) 0 3 ∧
        bitOf (regView t .layr hi) 31 = (bitOf (if isHi then v else reg s .layr hi) 31 &&
          decide (addrPair t .layr lo hi % 4096 = 0) && decide (addrPair t .layr lo hi < hbmBytes s)) ∧
        t = { s with regs := t.regs, msix := t.msix })) ∧
  (∀ (which : Fin 3) (v : Word) (s : State), pageUp s .trim = true → ∃ t, exec (.trimTableBaseWrite which v) s = .next t ∧
    reg t .trim Off.TRIM_TBL_BASE_LO = (if which = 0 then v else reg s .trim Off.TRIM_TBL_BASE_LO) ∧
    fld (reg t .trim Off.TRIM_TBL_BASE_HI) 0 3 = fld (if which = 1 then v else reg s .trim Off.TRIM_TBL_BASE_HI) 0 3 ∧
    tblWords t = (if which = 2 then fld v 0 31 else tblWords s) ∧
    bitOf (regView t .trim Off.TRIM_TBL_BASE_HI) 31 = (bitOf (if which = 1 then v else reg s .trim Off.TRIM_TBL_BASE_HI) 31 && tblOk t) ∧
    t = { s with regs := t.regs, msix := t.msix }) ∧
  (∀ (r : Fin 64) (which : Fin 3) (v : Word) (s : State), pageUp s .trim = true →
    ((rgn s r.val).st ≠ 0 ∨ (rgn s r.val).queued.isSome = true → ∃ t, exec (.rgnWrite r which v) s = .next t ∧
      reg t .trim Off.TRIM_UPD_INFO = BitVec.ofNat 32 (1 + r.val * 256) ∧ bitOf (evPend t .trim) 8 = true ∧
      t = { s with regs := t.regs, evPend := t.evPend, msix := t.msix }) ∧
    ((rgn s r.val).st = 0 → (rgn s r.val).queued = none → ∃ t, exec (.rgnWrite r which v) s = .next t ∧
      rgnLo t r.val = (if which = 0 then fld v 0 30 else rgnLo s r.val) ∧
      rgnCnt t r.val = (if which = 1 then fld v 0 21 else rgnCnt s r.val) ∧
      rgnGroup t r.val = (if which = 2 then fld v 0 4 else rgnGroup s r.val) ∧ t = { s with regs := t.regs, msix := t.msix }))

/-- R169 to R171, R199: the end of the load of the arm that was written first. A failing list refuses the arm in the bank, with its
reason; a load that passes makes the arm pending with what it has loaded; the arms written after it still wait to be loaded. -/
def Obligations.ArmLoads : Prop :=
  (∀ (b : Nat) (s : State), pageUp s .layr = true → loadingBanks s .layr = [b] → b < 16 →
    (∀ r, layrArmCode s [b] = some r → s.ecc = [] →
      ∃ t, exec .layrArmLoaded s = .next t ∧ (cslot t .layr b).rejected = true ∧
        (cslot t .layr b).loading = (cslot s .layr b).loading.drop 1 ∧
        (cslot t .layr b).pending = (cslot s .layr b).pending ∧ reg t .layr Off.LAYR_REJ_REASON = word r ∧
        bitOf (evPend t .layr) 28 = true ∧
        t = { s with commits := t.commits, regs := t.regs, evPend := t.evPend, msix := t.msix }) ∧
    (∀ pd, layrArmCode s [b] = none → loadOf s .layr b = some pd → (cslot s .layr b).pending = none →
      ∃ t q, exec .layrArmLoaded s = .next t ∧ (cslot t .layr b).pending = some q ∧ q.snap = pd.snap ∧ q.mode = pd.mode ∧
        q.descs = layrLoaded s b ∧ q.seen = pd.seen ∧ (cslot t .layr b).armSeq = (cslot s .layr b).armSeq + 1 ∧
        (cslot t .layr b).rejected = false ∧ (cslot t .layr b).loading = (cslot s .layr b).loading.drop 1 ∧
        (∀ j, j ≠ b → cslot t .layr j = cslot s .layr j))) ∧
  (∀ (b : Nat) (s : State), pageUp s .geom = true → loadingBanks s .geom = [b] → b < 16 →
    (∀ e, geomBankLoad s (loadSnap s .geom b) b = .inl e →
      ∃ t, exec .geomArmLoaded s = .next t ∧ (cslot t .geom b).rejected = true ∧
        (cslot t .geom b).loading = (cslot s .geom b).loading.drop 1 ∧
        (cslot t .geom b).pending = (cslot s .geom b).pending ∧
        reg t .geom Off.GEOM_REJ_REASON = word (e.1 + b * 2 ^ 8 + e.2 * 2 ^ 16) ∧ bitOf (evPend t .geom) 28 = true ∧
        t = { s with commits := t.commits, regs := t.regs, evPend := t.evPend, msix := t.msix }) ∧
    (∀ rs pd, geomBankLoad s (loadSnap s .geom b) b = .inr rs → loadOf s .geom b = some pd →
      (cslot s .geom b).pending = none →
      ∃ t q, exec .geomArmLoaded s = .next t ∧ (cslot t .geom b).pending = some q ∧ q.snap = pd.snap ∧
        q.ctxs.map (·.2) = rs ∧ (cslot t .geom b).armSeq = (cslot s .geom b).armSeq + 1 ∧ (cslot t .geom b).rejected = false ∧
        (cslot t .geom b).loading = (cslot s .geom b).loading.drop 1 ∧ (∀ j, j ≠ b → cslot t .geom j = cslot s .geom j) ∧
        t = { s with commits := t.commits, msix := t.msix }))

/-- R192, R193, R221, R298, R314: the work of a frame in a ray engine. A module's context and patch are read once; a chunk holds up to
48 rays of one ring; the oldest ray is composed, once a tag of its trim read is free, and a void ray's codes are 0; the oldest composed
ray's trim word makes its drive code by its frame's correction set, 0 where the module is tripped dark, and the chunk's last ray sends
the chunk, once the stream Weir has room for it. R311, R314: full attenuation blacks a lamp out: at att = 16,383 every drive code is 0,
whatever the trim, the wear and the content. R219, R231, R233, R234: the reply of a missed texel fetch fills the cache, with the texels
or with the fetch's fault, which it raises (log 64); a region's end shows the complement of its CRC, and a mismatch that is compared is
marked and raised; clearing a trip leaves the others; the tap's frame ends with every copy written. -/
def Obligations.RayWorkAndEvents : Prop :=
  (∀ (e : Fin 16) (fr : EngFrame) (s : State), (eng s e.val).cur = some fr →
     (∀ (ring : Fin 16) (m : Fin 192), ctxServed fr.types (frCtx fr e.val ring.val m.val) = true →
       mapGet (fun _ => none) (eng s e.val).loads (ring.val * 192 + m.val) = none →
       ∃ t ld, exec (.modulePatchLoad e ring m) s = .next t ∧
         mapGet (fun _ => none) (eng t e.val).loads (ring.val * 192 + m.val) = some ld ∧ ld.ctx = frCtx fr e.val ring.val m.val ∧
         ld.void = (!islandUp s islFab || decide (meshSize < cMeshBase ld.ctx + cMeshW ld.ctx * cMeshH ld.ctx)) ∧
         (ld.void = true → pageUp s .geom = true → bitOf (evPend t .geom) 4 = true) ∧
         t = { s with eng := t.eng, evPend := t.evPend, msix := t.msix }) ∧
     (nextRing (eng s e.val) fr e.val = none → (eng s e.val).phase + 1 < fr.phases →
       ∃ t, exec (.rayChunk e) s = .next t ∧
         eng t e.val = { eng s e.val with phase := (eng s e.val).phase + 1, at_ := [], nextRing := 0, loads := [] } ∧
         t = { s with eng := t.eng, msix := t.msix }) ∧
     (∀ r m l ld, nextRing (eng s e.val) fr e.val = some (r, m, l) →
       mapGet (fun _ => none) (eng s e.val).loads (r * 192 + m) = some ld →
       ∃ t rs, exec (.rayChunk e) s = .next t ∧ (eng t e.val).rays = (eng s e.val).rays ++ rs ∧ rs ≠ [] ∧ rs.length ≤ 48 ∧
         (∀ x ∈ rs, x.ring = r ∧ x.phase = (eng s e.val).phase) ∧ (eng t e.val).nextRing = (r + 1) % 16 ∧
         t = { s with eng := t.eng, evPend := t.evPend, msix := t.msix }) ∧
     (∀ x rest, (eng s e.val).rays = x :: rest → (bitOf fr.trimCtl 0 = false ∨ trimTagFree s e.val = true) →
       ∃ t y, exec (.rayCompose e 0) s = .next t ∧ (eng t e.val).rays = rest ∧
         (eng t e.val).codes = (eng s e.val).codes ++ [y] ∧ y.frame = fr.frame ∧ y.ring = x.ring ∧ y.m = x.m ∧ y.l = x.l ∧
         y.phase = x.phase ∧ y.last = x.last ∧ y.trim = cTrimBase (frCtx fr e.val x.ring x.m) + x.l ∧ y.reading = bitOf fr.trimCtl 0 ∧
         (x.void = true → y.y = [0, 0, 0]) ∧
         t = { s with eng := t.eng, ecc := t.ecc, evPend := t.evPend, msix := t.msix }) ∧
     (bitOf fr.trimCtl 0 = true → trimTagFree s e.val = false →
       ∃ t, exec (.rayCompose e 0) s = .next t ∧ (eng t e.val).rays = (eng s e.val).rays ∧ (eng t e.val).codes = (eng s e.val).codes ∧
         t = { s with eng := t.eng, msix := t.msix })) ∧
  (∀ (e : Fin 16) (fr : EngFrame) (x : CodeRec) (rest : List CodeRec) (s : State), (eng s e.val).codes = x :: rest →
     codeFrame (eng s e.val) x = some fr →
     (x.last = false ∨ (eng s e.val).stream.length < 64 ∨ weirSide s (islPgrp e.val) = false →
       ∃ t c, exec (.trimWordReply e) s = .next t ∧ (eng t e.val).codes = rest ∧
         c = (if x.zero = true then 0 else
           (driveCode fr.tsets x.ty (tsetSel fr.tsetLo fr.tsetHi x.ty) x.band x.y (trimWord s fr x.trim).1
             (wearWord s fr x.block) fr.att).1) ∧
         (x.last = false → (eng t e.val).chunk = (x.m, x.l, c) :: (eng s e.val).chunk ∧ (eng t e.val).stream = (eng s e.val).stream) ∧
         (x.last = true → (eng t e.val).chunk = [] ∧ (eng t e.val).stream = (if weirSide s (islPgrp e.val) = true then
           (eng s e.val).stream ++ [⟨fr.frame, x.phase, x.ring, ((x.m, x.l, c) :: (eng s e.val).chunk).reverse⟩]
           else (eng s e.val).stream)) ∧
         (wearWait s e.val = [] → t = { s with eng := t.eng, ecc := t.ecc, trim := t.trim, evPend := t.evPend, msix := t.msix })) ∧
     (x.last = true → 64 ≤ (eng s e.val).stream.length → weirSide s (islPgrp e.val) = true →
       ∃ t, exec (.trimWordReply e) s = .next t ∧ t = { s with msix := t.msix })) ∧
  (∀ (m : AMap Word) (t k band : Nat) (y : List Nat) (tw ww : Word), (driveCode m t k band y tw ww 16383).1 = 0) ∧
  ((∀ (e : Fin 16) (b : Fin 16384) (tx ty : Fin 8192) (fr : EngFrame) (l : Nat × LayerView) (s : State),
     (eng s e.val).cur = some fr → fr.layers.find? (fun x => decide (x.2.buf = b.val)) = some l → s.ecc = [] →
     8 * tx.val < (surfOf l.2.entry).w → 8 * ty.val < (surfOf l.2.entry).h →
     cached (eng s e.val).cache b.val tx.val ty.val = none → surfSampled (surfOf l.2.entry) = true →
     (∀ ps, readTile s (surfOf l.2.entry) tx.val ty.val = .pixels ps →
       ∃ t, exec (.texelFetchReply e b tx ty) s = .next t ∧
         mapGet (fun _ => .pixels []) (eng t e.val).cache (tileKey b.val tx.val ty.val) = .pixels ps ∧
         t = { s with eng := t.eng, msix := t.msix }) ∧
     (∀ poison : Bool, readTile s (surfOf l.2.entry) tx.val ty.val = (if poison then .poison else .absent) → pageUp s (.reng e) = true →
       ∃ t, exec (.texelFetchReply e b tx ty) s = .next t ∧ bitOf (evPend t (.reng e)) (if poison then 3 else 2) = true ∧
         mapGet (fun _ => .pixels []) (eng t e.val).cache (tileKey b.val tx.val ty.val) = (if poison then .poison else .absent) ∧
         t = { s with eng := t.eng, evPend := t.evPend, msix := t.msix })) ∧
   (∀ (e : Fin 16) (r : Fin 64) (fr : EngFrame) (s : State), (eng s e.val).cur = some fr → sigReady s e.val fr r.val = true →
     ∃ t, exec (.sigRegionComplete e r) s = .next t ∧
       reg t (.reng e) (Off.RENG_SIG_CRC + 16 * r.val) =
         BitVec.ofNat 32 (mapGet (fun _ => 0xFFFFFFFF) (eng s e.val).sig r.val ^^^ 0xFFFFFFFF) ∧
       (eng t e.val).sigDone = r.val :: (eng s e.val).sigDone ∧
       (bitOf (sigCfg fr r.val) 1 = true →
         reg t (.reng e) (Off.RENG_SIG_CRC + 16 * r.val) ≠ frReg fr (Off.RENG_SIG_EXP + 16 * r.val) →
         sigBit t e.val Off.RENG_SIG_MIS_LO r.val = true ∧ (pageUp s (.reng e) = true → bitOf (evPend t (.reng e)) 4 = true)) ∧
       t = { s with eng := t.eng, regs := t.regs, evPend := t.evPend, evRaw := t.evRaw, msix := t.msix }) ∧
   (∀ (e : Fin 16) (r : Fin 64) (s : State), pageUp s (.reng e) = true →
     ∃ t, exec (.sigTripClear e r) s = .next t ∧
       (∀ j, j < 64 → sigBit t e.val Off.RENG_SIG_TRIP_LO j = (decide (j ≠ r.val) && sigBit s e.val Off.RENG_SIG_TRIP_LO j)) ∧
       mapGet (fun _ => none) (eng t e.val).trips r.val = none ∧
       t = { s with eng := t.eng, regs := t.regs, evPend := t.evPend, evRaw := t.evRaw, msix := t.msix }) ∧
   (∀ (e : Fin 16) (f : Word) (rest : List Word) (s : State), (eng s e.val).wbDue = f :: rest → frameIs f (eng s e.val).cur = false →
     ∃ t, exec (.wbFrameDone e) s = .next t ∧ (eng t e.val).wbDue = rest ∧
       (eng t e.val).wbq = (eng s e.val).wbq.dropWhile (fun c => decide (c.1 = f)) ∧
       (pageUp s (.reng e) = true → bitOf (evPend t (.reng e)) 7 = true) ∧
       t = { s with eng := t.eng, mem := t.mem, ecc := t.ecc, hbm := t.hbm, evPend := t.evPend, msix := t.msix }))

/-! ## The pre-scaler, the codec and lamp correction (spec/09_prescaler.md to spec/11_lamp_correction.md) -/

/-- R254 to R259: a request puts a served layer's pair into the queue once; the idle pre-scaler takes the next pair, claims a buffer
of it and holds the source, and frees it again where the checks that follow the claim fail, with their code, or records that the claim
was refused; a job whose rows and summary are all written makes its working surface READY with the source's seq; a failed one frees it, with
the code of what failed. -/
def Obligations.ScalJobs : Prop :=
  (∀ (layer : Fin 4096) (bank : Fin 16) (d : List Word) (s : State), pageUp s .scal = true → islandRuns s islMedia = true →
    (bank.val, layer.val, d) ∈ servedLayers s →
    ∃ t, exec (.scalJobCmd layer bank) s = .next t ∧ dPsBuf d ∈ t.scal.queue ∧ (∀ p ∈ s.scal.queue, p ∈ t.scal.queue) ∧
      t = { s with scal := t.scal, evPend := t.evPend, msix := t.msix }) ∧
  (∀ (p src : Nat) (x : Nat × Nat × List Word) (s : State), islandRuns s islMedia = true → s.scal.running = none →
    bitOf (reg s .scal Off.SCAL_CTRL) 0 = true → nextPair s = some p →
    (servedLayers s).find? (fun d => decide (dPsBuf d.2.2 = p)) = some x → bestCand s x.2.2 = some src →
    workOf s x.2.2 src (bufAt s src).seq = none →
    let w := pairTarget s p
    let f := surfOf (bufEntry s src)
    let g := surfOf (bufEntry s w)
    let prof := snapRead s.inForce .scal 0 (Off.SCAL_PROF + 4 * mapGet (fun _ => 0) s.scal.pmap x.2.1)
    let ow := (layoutDims (pfOrient prof) f.w f.h).1
    let oh := (layoutDims (pfOrient prof) f.w f.h).2
    (claimCode s w ≠ 0 →
      ∃ t, exec .scalJobStart s = .next t ∧ p ∉ t.scal.queue ∧ t.scal.running = none ∧
        reg t .scal Off.SCAL_FAIL_INFO = BitVec.ofNat 32 (2 + p * 65536) ∧ bitOf (evPend t .scal) 2 = true ∧
        t = { s with scal := t.scal, regs := t.regs, evPend := t.evPend, msix := t.msix }) ∧
    (claimCode s w = 0 → g.fmt = workFmt f.fmt → g.st = 0 → ow ≤ 16 * g.w → g.w ≤ ow → oh ≤ 16 * g.h → g.h ≤ oh →
      ow ≤ 32768 → src ≠ w →
      ∃ t j, exec .scalJobStart s = .next t ∧ p ∉ t.scal.queue ∧ t.scal.running = some j ∧ j.pair = p ∧ j.work = w ∧ j.src = src ∧
        j.seq = (bufAt s src).seq ∧ j.tv = tapsInForce (pfTv prof) ow ∧ (bufAt t w).st = 1 ∧ (bufAt t w).ownerClass = 5 ∧
        (bufAt t src).holds.contains .scal = true ∧ reg t .scal Off.SCAL_JOB_CUR = BitVec.ofNat 32 (w + src * 65536) ∧
        t = { s with scal := t.scal, layr := t.layr, regs := t.regs, ecc := t.ecc, free := t.free, evPend := t.evPend, msix := t.msix }) ∧
    (∀ code, claimCode s w = 0 → src ≠ w → code = (if g.fmt ≠ workFmt f.fmt ∨ g.st ≠ 0 then 2
        else if 16 * g.w < ow ∨ ow < g.w ∨ 16 * g.h < oh ∨ oh < g.h then 3 else if 32768 < ow then 1 else 0) → code ≠ 0 →
      ∃ t, exec .scalJobStart s = .next t ∧ p ∉ t.scal.queue ∧ t.scal.running = none ∧ bufAt t w = Buf.initial ∧
        (bufAt t src).holds.contains .scal = false ∧ reg t .scal Off.SCAL_JOB_CUR = 0 ∧
        reg t .scal Off.SCAL_FAIL_INFO = BitVec.ofNat 32 (code + p * 65536) ∧ bitOf (evPend t .scal) 2 = true ∧
        t = { s with scal := t.scal, layr := t.layr, regs := t.regs, ecc := t.ecc, evPend := t.evPend, msix := t.msix })) ∧
  (∀ (j : ScalJob) (s : State), s.scal.running = some j → j.work ≠ j.src →
    ((scalFinish s j).2.2 = 0 →
      ∃ t, exec .scalJobDone s = .next t ∧ t.scal.running = none ∧ (bufAt t j.work).st = 2 ∧ (bufAt t j.work).seq = j.seq ∧
        mapGet (fun _ => none) t.scal.recs j.work = some (j.src, j.seq, pfOrient j.prof) ∧
        (bufAt t j.src).holds.contains .scal = false ∧ (pageUp s .scal = true → bitOf (evPend t .scal) 0 = true) ∧
        t = { s with scal := t.scal, layr := t.layr, regs := t.regs, mem := t.mem, ecc := t.ecc, hbm := t.hbm, evPend := t.evPend
                     evRaw := t.evRaw, msix := t.msix }) ∧
    (hbmLive s = false ∨ (scalFinish s j).2.2 ≠ 0 →
      ∃ t code, exec .scalJobFail s = .next t ∧ (code = 4 ∨ code = 5) ∧ (hbmLive s = true → code = (scalFinish s j).2.2) ∧
        reg t .scal Off.SCAL_FAIL_INFO = BitVec.ofNat 32 (code + j.pair * 65536) ∧ t.scal.running = none ∧
        bufAt t j.work = Buf.initial ∧ (bufAt t j.src).holds.contains .scal = false ∧
        (pageUp s .scal = true → bitOf (evPend t .scal) 2 = true) ∧
        t = { s with scal := t.scal, layr := t.layr, regs := t.regs, mem := t.mem, ecc := t.ecc, hbm := t.hbm, free := t.free
                     evPend := t.evPend, evRaw := t.evRaw, msix := t.msix }))

/-- R281, R283, R284, R286, R293, R294: a channel that may start takes the job at its queue's head, once the frames that streams are
owed have taken their buffers; a job that ends advances Q_HEAD, shows in LAST and raises its event; a job refused before it ran writes
its result words; an abort clears en; a queue's registers stand while it is in use. -/
def Obligations.CodecQueues : Prop :=
  (∀ (c : Fin 4) (i : Instr) (ops : Nat → Bool) (s : State),
    ((i = .codecDecode c ∧ intMayStart s c.val = false ∧ (∀ o, ops o = (decide (o = 0) || decide (5 ≤ o)))) ∨
      (i = .codecEncode c ∧ (∀ o, ops o = decide (o = 1))) ∨ (i = .codecTranscode c ∧ (∀ o, ops o = decide (o = 2))) ∨
      (i = .codecSaveState c ∧ (∀ o, ops o = decide (o = 3))) ∨ (i = .codecLoadState c ∧ (∀ o, ops o = decide (o = 4)))) →
    s.store.streams = [] → s.trim.fills = [] → codecMayStart s c.val ops = true → (∀ k, slotBusy s c.val k = false) →
    ∃ t j, exec i s = .next t ∧ codecRun t c.val = some j ∧ j.desc = codecHead s c.val ∧ j.index = cqHead s c.val ∧
      j.intern = none ∧ cqHead t c.val = cqHead s c.val ∧
      t = { s with codec := t.codec, layr := t.layr, ecc := t.ecc, free := t.free, evPend := t.evPend, evRaw := t.evRaw, msix := t.msix }) ∧
  (∀ (c : Fin 4) (j : CodecJob) (s : State), codecRun s c.val = some j → j.intern = none →
    (∃ t st, exec (.codecJobEnd c) s = .next t ∧ codecRun t c.val = none ∧
      reg t (.codec c) Off.CODEC_LAST = BitVec.ofNat 32 (st + j.index * 256) ∧
      reg t (.codec c) Off.CODEC_Q_HEAD = BitVec.ofNat 32 ((j.index + 1) % cqSize s c.val) ∧
      (pageUp s (.codec c) = true → bitOf (evPend t (.codec c)) (if st = 0 ∨ st = 10 then 0 else if st = 1 then 2 else 1) = true)) ∧
    (∀ st, j.dead = some st → st < 128 → s.ecc = [] → s.hbm.inj = none → hbmOk s (cqBase s c.val + 64 * j.index + 48) 16 = true →
      ∃ t, exec (.codecJobEnd c) s = .next t ∧
        memWords t (cqBase s c.val + 64 * j.index + 48) 4 = [0, 0, 0, BitVec.ofNat 32 (st + 2 ^ 31)] ∧
        (∀ a, a < cqBase s c.val + 64 * j.index + 48 ∨ cqBase s c.val + 64 * j.index + 64 ≤ a → memByte t a = memByte s a) ∧
        reg t (.codec c) Off.CODEC_LAST = BitVec.ofNat 32 (st + j.index * 256) ∧
        t = { s with codec := t.codec, regs := t.regs, mem := t.mem, evPend := t.evPend, evRaw := t.evRaw, msix := t.msix }) ∧
    (pageUp s (.codec c) = true → ∀ n, ∃ t, exec (.codecAbort c n) s = .next t ∧ codecRun t c.val = none ∧
      bitOf (reg t (.codec c) Off.CODEC_CTRL) 0 = false)) ∧
  (∀ (c : Fin 4) (v : Word) (s : State), pageUp s (.codec c) = true →
    ((codecRun s c.val).isSome = true ∨ cqHead s c.val ≠ cqTail s c.val →
      ∀ which, ∃ t, exec (.codecQueueConfigWrite c which v) s = .next t ∧ t = { s with msix := t.msix }) ∧
    (codecRun s c.val = none → cqHead s c.val = cqTail s c.val →
      ∀ which : Fin 3, ∃ t, exec (.codecQueueConfigWrite c which v) s = .next t ∧
        reg t (.codec c) Off.CODEC_Q_BASE_LO = (if which = 0 then v else reg s (.codec c) Off.CODEC_Q_BASE_LO) ∧
        fld (reg t (.codec c) Off.CODEC_Q_BASE_HI) 0 3 = fld (if which = 1 then v else reg s (.codec c) Off.CODEC_Q_BASE_HI) 0 3 ∧
        bitOf (reg t (.codec c) Off.CODEC_Q_BASE_HI) 31 = bitOf (if which = 1 then v else reg s (.codec c) Off.CODEC_Q_BASE_HI) 31 ∧
        cqSize t c.val = (if which = 2 then fld v 0 9 else cqSize s c.val) ∧
        t = { s with regs := t.regs, msix := t.msix }) ∧
    (∃ t, exec (.codecQTailWrite c v) s = .next t ∧ cqTail t c.val = fld v 0 8 ∧
      bitOf (evRaw t (.codec c)) 3 = (decide (cqHead s c.val = fld v 0 8) && (codecRun s c.val).isNone) ∧
      t = { s with regs := t.regs, evPend := t.evPend, evRaw := t.evRaw, msix := t.msix })) ∧
  (∀ (k : Fin 64) (s : State), pageUp s (.codec 0) = true →
    ((stSlot s k.val).owner = 0 → ∃ t, exec (.codecStateClaim k) s = .next t ∧ stSlot t k.val = ⟨1, StreamSt.empty⟩ ∧
      reg t (.codec 0) Off.CODEC_STATE_RESULT = 0 ∧ (∀ j, j ≠ k.val → stSlot t j = stSlot s j) ∧
      t = { s with codec := t.codec, regs := t.regs, msix := t.msix }) ∧
    ((stSlot s k.val).owner ≠ 0 → ∃ t, exec (.codecStateClaim k) s = .next t ∧ (∀ j, stSlot t j = stSlot s j) ∧
      reg t (.codec 0) Off.CODEC_STATE_RESULT = 1 ∧ bitOf (evPend t (.codec 0)) 4 = true ∧
      t = { s with regs := t.regs, evPend := t.evPend, msix := t.msix }) ∧
    ((stSlot s k.val).owner = 1 → ∃ t, exec (.codecStateRelease k) s = .next t ∧ stSlot t k.val = StSlot.initial ∧
      reg t (.codec 0) Off.CODEC_STATE_RESULT = 0 ∧ (∀ j, j ≠ k.val → stSlot t j = stSlot s j) ∧
      t = { s with codec := t.codec, regs := t.regs, msix := t.msix }))

/-- R307, R309 to R312: a second is deferred once while an update is held, waits behind an update in progress, waits for its sampled
frame, and else is applied with what that frame says; a second comes once; an update that ends flips the group's half at the next
close; the release of a hold applies what was deferred; a checkpoint uses the image place that the last good one did not, and ends once
every command of it has completed; a master fade starts from the attenuation of its start. -/
def Obligations.WearAndFades : Prop :=
  (∀ (g : Fin 16) (s : State), pageUp s .trim = true → wearEn s = true → mapGet (fun _ => none) s.trim.wearLast g.val ≠ some (nowSec s) →
    (wearHeld s = true → s.trim.deferSec ≠ some (nowSec s) →
      ∃ t, exec (.wearSecondUpdate g) s = .next t ∧
        t.trim = { s.trim with wearLast := mapSet (fun _ => none) s.trim.wearLast g.val (some (nowSec s))
                               deferSec := some (nowSec s), deferred := min 65535 (s.trim.deferred + 1) } ∧
        (65535 ≤ s.trim.deferred → bitOf (evPend t .trim) 11 = true) ∧
        t = { s with trim := t.trim, evPend := t.evPend, msix := t.msix }) ∧
    (wearHeld s = false → s.trim.wearBusy.contains g.val = true →
      ∃ t, exec (.wearSecondUpdate g) s = .next t ∧ wearWait t g.val = wearWait s g.val ++ [nowSec s] ∧ bitOf (evPend t .trim) 11 = true ∧
        t = { s with trim := t.trim, evPend := t.evPend, msix := t.msix }) ∧
    (wearHeld s = false → s.trim.wearBusy.contains g.val = false → wearWait s g.val = [] →
      (∀ x, wearGainOf s g.val (nowSec s) = some x →
        ∃ t, exec (.wearSecondUpdate g) s = .next t ∧ t.trim.wearBusy.contains g.val = true ∧
          t.trim.wearSec = BitVec.ofNat 32 (nowSec s) ∧ wearWait t g.val = [] ∧
          t = { s with trim := t.trim, mem := t.mem, ecc := t.ecc, hbm := t.hbm, evPend := t.evPend, msix := t.msix }) ∧
      (wearGainOf s g.val (nowSec s) = none →
        ∃ t, exec (.wearSecondUpdate g) s = .next t ∧ wearWait t g.val = [nowSec s] ∧ t.trim.wearBusy = s.trim.wearBusy ∧
          t = { s with trim := t.trim, msix := t.msix }))) ∧
  (∀ (g : Fin 16) (s : State), mapGet (fun _ => none) s.trim.wearLast g.val = some (nowSec s) ∨ wearEn s = false →
    ∃ t, exec (.wearSecondUpdate g) s = .next t ∧ t = { s with msix := t.msix }) ∧
  (∀ (g : Fin 16) (s : State), s.trim.wearBusy.contains g.val = true → hbmLive s = true → wearWait s g.val = [] →
    ∃ t, exec (.wearUpdateDone g) s = .next t ∧ t.trim.wearBusy.contains g.val = false ∧ t.trim.flip.contains g.val = true ∧
      (pageUp s .trim = true → bitOf (evPend t .trim) 10 = true) ∧
      t = { s with trim := t.trim, evPend := t.evPend, msix := t.msix }) ∧
  (∀ s : State, pageUp s .trim = true → bitOf (reg s .trim Off.TRIM_WEAR_CTRL) 1 = true → s.trim.ckpt = none →
    ∃ t, exec .wearHoldRelease s = .next t ∧ t.trim.deferred = 0 ∧ t.trim.deferSec = none ∧
      bitOf (reg t .trim Off.TRIM_WEAR_CTRL) 1 = false ∧
      t = { s with trim := t.trim, regs := t.regs, mem := t.mem, ecc := t.ecc, hbm := t.hbm, evPend := t.evPend, msix := t.msix }) ∧
  (∀ (c : Instr) (s : State), pageUp s .trim = true → s.trim.ckpt = none →
    (c = .wearCkptNow ∨ (c = .wearCkptTimer ∧ regF s .trim Off.TRIM_WEAR_CTRL 16 16 ≠ 0)) →
    ∃ t k, exec c s = .next t ∧ t.trim.ckpt = some k ∧ k.img = (!s.trim.ckptImg) ∧ k.drive = regF s .trim Off.TRIM_CKPT_LBA_HI 24 2 ∧
      k.hdr.take 5 = [1, BitVec.ofNat 32 (wearBlocks s), BitVec.ofNat 32 (nowSec s), BitVec.ofNat 32 (nowSec s / 2 ^ 32 % 65536)
        , s.trim.ckptSeq + 1] ∧
      ((drvAt s k.drive).st ≠ 2 → k.bad = true ∧ k.todo = []) ∧
      t = { s with trim := { s.trim with ckpt := some k }, store := t.store, msix := t.msix }) ∧
  (∀ (ok : Bool) (c : Ckpt) (s : State), s.trim.ckpt = some c →
    (ok = true → c.bad = false → (c.todo ≠ [] ∨ c.out ≠ 0) →
      ∃ t, exec (.wearCkptEnd ok) s = .next t ∧ t = { s with msix := t.msix }) ∧
    (ok = false ∨ c.bad = true ∨ (c.todo = [] ∧ c.out = 0) →
      ∃ t, exec (.wearCkptEnd ok) s = .next t ∧ t.trim.ckpt = none ∧
        t.trim.ckptImg = (if ok && !c.bad then c.img else s.trim.ckptImg) ∧
        t.trim.ckptSeq = (if ok && !c.bad then s.trim.ckptSeq + 1 else s.trim.ckptSeq) ∧
        (pageUp s .trim = true → bitOf (evPend t .trim) (if ok && !c.bad then 13 else 14) = true) ∧
        t = { s with trim := t.trim, mem := t.mem, ecc := t.ecc, hbm := t.hbm, evPend := t.evPend, msix := t.msix })) ∧
  (∀ (now : Bool) (t0 : Rat) (s : State), pageUp s .fade = true →
    t0 = (if now then nowNs s else genTimeNs s (reg s .fade Off.FADE_MF_T0_SEC).toNat (regF s .fade Off.FADE_MF_T0_NS 0 30)) →
    ∃ t, exec (.mfGo now) s = .next t ∧ t.fade = { s.fade with
        master := { t0 := t0, a0 := fadeAt s.fade.master t0, target := regF s .fade Off.FADE_MF_TARGET 0 14,
                    dur := (reg s .fade Off.FADE_MF_DUR).toNat } :: s.fade.master
        masterRun := true } ∧
      ((∃ (g : Fin 16) (pl : FramePlan), pl ∈ (tgen s g.val).plans ∧ pl.started = true ∧ pl.gov = .run ∧ t0 ≤ pl.latch) →
        bitOf (evPend t .fade) 2 = true) ∧
      t = { s with fade := t.fade, evPend := t.evPend, msix := t.msix })

/-- R319 to R325: a request of an IDLE slot that passes starts its FILL, one that fails is recorded, one of a busy slot waits; a FILL
stages the slot's words and arms the slot, and a FILL that decodes does so once its decode is done; the copy writes the table's words from
staging and only those; a drained slot is IDLE. -/
def Obligations.RegionUpdates : Prop :=
  (∀ (r : Fin 64) (c : Instr) (kind : Nat) (atTime : Bool) (s : State), pageUp s .trim = true →
    ((c = .updWords r atTime ∧ kind = 0) ∨ (c = .updBamler r atTime ∧ kind = 1) ∨ (c = .updMeasurements r atTime ∧ kind = 2)) →
    ((rgn s r.val).st = 0 → updCode s r.val (updReq s kind atTime) = 0 → hlpRun s 18 = true →
      ∃ t, exec c s = .next t ∧
        rgn t r.val = { rgn s r.val with st := 1, req := some (updReq s kind atTime), missed := false, dec := 0, run := (rgn s r.val).run + 1 } ∧
        t.trim.fills = s.trim.fills ++ [r.val] ∧ (∀ j, j ≠ r.val → rgn t j = rgn s j) ∧
        t = { s with trim := t.trim, msix := t.msix }) ∧
    (∀ code, (rgn s r.val).st = 0 →
      ((updCode s r.val (updReq s kind atTime) ≠ 0 ∧ code = updCode s r.val (updReq s kind atTime)) ∨
        (updCode s r.val (updReq s kind atTime) = 0 ∧ hlpRun s 18 = false ∧ code = 6)) →
      ∃ t, exec c s = .next t ∧ reg t .trim Off.TRIM_UPD_INFO = BitVec.ofNat 32 (code + r.val * 256) ∧
        bitOf (evPend t .trim) 8 = true ∧ t = { s with regs := t.regs, evPend := t.evPend, msix := t.msix }) ∧
    ((rgn s r.val).st ≠ 0 →
      ∃ t, exec c s = .next t ∧ rgn t r.val = { rgn s r.val with queued := some (updReq s kind atTime) } ∧
        ((rgn s r.val).queued.isSome = true → bitOf (evPend t .trim) 9 = true) ∧ (∀ j, j ≠ r.val → rgn t j = rgn s j) ∧
        t = { s with trim := t.trim, evPend := t.evPend, msix := t.msix })) ∧
  (∀ (r : Fin 64) (s : State),
    (∀ q, (rgn s r.val).queued = some q → (rgn s r.val).st = 0 → hlpRun s 18 = true →
      (updCode s r.val q = 0 → ∃ t, exec (.updRequestStart r) s = .next t ∧
        rgn t r.val = { rgn s r.val with st := 1, req := some q, queued := none, missed := false, dec := 0, run := (rgn s r.val).run + 1 } ∧
        t.trim.fills = s.trim.fills ++ [r.val] ∧ (∀ j, j ≠ r.val → rgn t j = rgn s j) ∧ t = { s with trim := t.trim, msix := t.msix }) ∧
      (updCode s r.val q ≠ 0 → ∃ t, exec (.updRequestStart r) s = .next t ∧
        rgn t r.val = { rgn s r.val with queued := none } ∧ t.trim.fills = s.trim.fills ∧ (∀ j, j ≠ r.val → rgn t j = rgn s j) ∧
        reg t .trim Off.TRIM_UPD_INFO = BitVec.ofNat 32 (updCode s r.val q + r.val * 256) ∧
        (pageUp s .trim = true → bitOf (evPend t .trim) 8 = true) ∧
        t = { s with trim := t.trim, regs := t.regs, evPend := t.evPend, msix := t.msix })) ∧
    ((rgn s r.val).queued = none ∨ (rgn s r.val).st ≠ 0 ∨ hlpRun s 18 = false →
      ∃ t, exec (.updRequestStart r) s = .next t ∧ t = { s with msix := t.msix })) ∧
  (∀ (r : Fin 64) (q : RgnReq) (rest : List Nat) (s : State), s.trim.fills = r.val :: rest → (rgn s r.val).req = some q →
    hlpRun s 18 = true → bitOf (reg s .trim Off.TRIM_UPD_CTRL) 0 = true →
    (∀ ws, q.kind ≠ 1 → s.ecc = [] → updFill s r.val q = .inr ws → hbmOk s (stageAt s r.val) (4 * ws.length) = true →
      (tgen s (rgnGroup s r.val)).gen ≠ .stopped →
      ∃ t, exec (.updFillDone r) s = .next t ∧ rgn t r.val = { rgn s r.val with st := 2 } ∧ t.trim.fills.contains r.val = false ∧
        memWords t (stageAt s r.val) ws.length = ws ∧
        (∀ a, a < stageAt s r.val ∨ stageAt s r.val + 4 * ws.length ≤ a → memByte t a = memByte s a) ∧
        t = { s with trim := t.trim, mem := t.mem, ecc := t.ecc, hbm := t.hbm, msix := t.msix }) ∧
    (∀ code, q.kind ≠ 1 → s.ecc = [] → updFill s r.val q = .inl code → (rgn s r.val).queued = none →
      ∃ t, exec (.updFillDone r) s = .next t ∧ (rgn t r.val).st = 0 ∧ (rgn t r.val).req = none ∧
        t.trim.fills.contains r.val = false ∧ reg t .trim Off.TRIM_UPD_INFO = BitVec.ofNat 32 (code + r.val * 256) ∧
        t = { s with trim := t.trim, regs := t.regs, evPend := t.evPend, msix := t.msix }) ∧
    (q.kind = 1 → (rgn s r.val).dec = 2 → (tgen s (rgnGroup s r.val)).gen ≠ .stopped →
      ∃ t, exec (.updFillDone r) s = .next t ∧ rgn t r.val = { rgn s r.val with st := 2 } ∧ t.trim.fills.contains r.val = false ∧
        t = { s with trim := t.trim, msix := t.msix }) ∧
    (q.kind = 1 → (rgn s r.val).dec ≠ 2 →
      (islandRuns s islMedia = true → ∃ t, exec (.updFillDone r) s = .next t ∧ t = { s with msix := t.msix }) ∧
      (islandRuns s islMedia = false → (rgn s r.val).queued = none →
        ∃ t, exec (.updFillDone r) s = .next t ∧ (rgn t r.val).st = 0 ∧ (rgn t r.val).req = none ∧
          t.trim.fills.contains r.val = false ∧ reg t .trim Off.TRIM_UPD_INFO = BitVec.ofNat 32 (4 + r.val * 256) ∧
          t = { s with trim := t.trim, regs := t.regs, evPend := t.evPend, msix := t.msix }))) ∧
  (∀ (r : Fin 64) (s : State), (rgn s r.val).st = 3 → islandUp s islFab = true →
    (rgn s r.val).past = true ∨ frameFinished s (rgnGroup s r.val) ((rgn s r.val).frameT - 1) = true →
    ∃ t, exec (.updCopyStart r) s = .next t ∧ rgn t r.val = { rgn s r.val with st := 4 } ∧
      (∀ j, j ≠ r.val → rgn t j = rgn s j) ∧ t = { s with trim := t.trim, msix := t.msix }) ∧
  (∀ (r : Fin 64) (s : State), (rgn s r.val).st = 4 → hbmLive s = true → s.ecc = [] → s.hbm.inj = none →
    (tgen s (rgnGroup s r.val)).gen ≠ .stopped →
    ∃ t, exec (.updCopyDone r) s = .next t ∧ rgn t r.val = { rgn s r.val with st := 5 } ∧
      (∀ k, k < rgnCnt s r.val → hbmReadOk s (stageAt s r.val + 4 * k) 4 = true → hbmOk s (tblBase s + 4 * (rgnLo s r.val + k)) 4 = true →
        memWords t (tblBase s + 4 * (rgnLo s r.val + k)) 1 = memWords s (stageAt s r.val + 4 * k) 1) ∧
      (∀ a, a < tblBase s + 4 * rgnLo s r.val ∨ tblBase s + 4 * (rgnLo s r.val + rgnCnt s r.val) ≤ a → memByte t a = memByte s a) ∧
      t = { s with trim := t.trim, mem := t.mem, msix := t.msix }) ∧
  (∀ (r : Fin 64) (s : State), (rgn s r.val).st = 6 →
    (rgn s r.val).past = true ∨ frameFinished s (rgnGroup s r.val) ((rgn s r.val).frameU - 1) = true →
    (rgn s r.val).queued = none →
    ∃ t, exec (.updDrainDone r) s = .next t ∧ rgn t r.val = { rgn s r.val with st := 0, req := none } ∧
      (pageUp s .trim = true → bitOf (evPend t .trim) 7 = true) ∧ (∀ j, j ≠ r.val → rgn t j = rgn s j) ∧
      t = { s with trim := t.trim, evPend := t.evPend, msix := t.msix })

/-! ## The Bunting links (spec/12_bunting_physical.md) -/

/-- R343, R347, R350, R351, R353, R551: a link command of the host on a ring whose link manager is in RUN: up leaves DOWN for RESET where
the group's reference is on and locked; down acts in every state; remeasure measures in UP and starts MEASURE elsewhere but in DOWN;
restep leaves UP for STEP; sleep needs the group's state and every module's capability; wake leaves a sleep. A command that the state does
not allow is refused, as is every command while the link manager is not in RUN. R356: a group command gives its command to each ring that
its mask names, and to no other. -/
def Obligations.LinkCommands : Prop :=
  (∀ (p : Fin 256) (s : State), pageUp s (.bport p) = true →
     (∀ c : Instr, hlpRun s (p.val / 16) = false →
       (c = .linkCmdUp p ∨ c = .linkCmdDown p ∨ c = .linkCmdRemeasure p ∨ c = .linkCmdRestep p ∨ c = .linkCmdSleepIdle p ∨
         c = .linkCmdSleepDeep p ∨ c = .linkCmdWake p) →
       ∃ t, exec c s = .next t ∧ evPend t (.bport p) = putBit (evPend s (.bport p)) 10 true ∧
         t = { s with evPend := t.evPend, msix := t.msix }) ∧
     (∀ c : Instr, hlpRun s (p.val / 16) = true →
       ((c = .linkCmdUp p ∧ (ringAt s p.val).st = 0 ∧
           (forceF s (bgrpPage (p.val / 16)) Off.BGRP_REF_CFG 0 1 = 0 ∨ (bgrpAt s (p.val / 16)).pll = false)) ∨
         (c = .linkCmdRemeasure p ∧ (ringAt s p.val).st = 0) ∨ (c = .linkCmdRestep p ∧ (ringAt s p.val).st ≠ 6) ∨
         (c = .linkCmdSleepIdle p ∧ (ringAt s p.val).st ≠ 6) ∨ (c = .linkCmdSleepDeep p ∧ (ringAt s p.val).st ≠ 6) ∨
         (c = .linkCmdWake p ∧ (ringAt s p.val).st ≠ 7 ∧ (ringAt s p.val).st ≠ 8)) →
       ∃ t, exec c s = .next t ∧ evPend t (.bport p) = putBit (evPend s (.bport p)) 10 true ∧
         t = { s with evPend := t.evPend, msix := t.msix }) ∧
     (∀ (c : Instr) (st : Nat), hlpRun s (p.val / 16) = true →
       ((c = .linkCmdUp p ∧ (ringAt s p.val).st = 0 ∧ forceF s (bgrpPage (p.val / 16)) Off.BGRP_REF_CFG 0 1 ≠ 0 ∧
           (bgrpAt s (p.val / 16)).pll = true ∧ st = 1) ∨
         (c = .linkCmdDown p ∧ st = 0) ∨
         (c = .linkCmdRemeasure p ∧ (ringAt s p.val).st ≠ 0 ∧ (ringAt s p.val).st ≠ 6 ∧ st = 4) ∨
         (c = .linkCmdRestep p ∧ (ringAt s p.val).st = 6 ∧ st = 5) ∨
         (c = .linkCmdSleepIdle p ∧ (ringAt s p.val).st = 6 ∧ allIdle (ringAt s p.val) = true ∧
           ((tgen s (p.val / 16)).gen = .stopped ∨ (tgen s (p.val / 16)).gen = .slack) ∧ st = 7) ∨
         (c = .linkCmdSleepDeep p ∧ (ringAt s p.val).st = 6 ∧ allDeep (ringAt s p.val) = true ∧
           (tgen s (p.val / 16)).gen = .stopped ∧ st = 8) ∨
         (c = .linkCmdWake p ∧ ((ringAt s p.val).st = 7 ∨ (ringAt s p.val).st = 8) ∧ st = 9)) →
       ∃ t, exec c s = .next t ∧ (ringAt t p.val).st = st ∧ (∀ j, j ≠ p.val → ringAt t j = ringAt s j) ∧
         (st = 1 → (ringAt t p.val).step = 0) ∧ (st = 5 → (ringAt t p.val).target = negotiated t p.val) ∧
         (st = 9 → (ringAt t p.val).fromDeep = decide ((ringAt s p.val).st = 8)) ∧
         (st = 7 ∨ st = 8 → (ringAt t p.val).rxLock = false) ∧
         t = { s with ring := t.ring, free := t.free, evPend := t.evPend, evRaw := t.evRaw, msix := t.msix }) ∧
     (hlpRun s (p.val / 16) = true → (ringAt s p.val).st = 6 →
       ∃ t, exec (.linkCmdRemeasure p) s = .next t ∧ ringAt t p.val = { ringAt s p.val with remeas := true, meas := [] } ∧
         (∀ j, j ≠ p.val → ringAt t j = ringAt s j) ∧ t = { s with ring := t.ring, msix := t.msix })) ∧
  (∀ (g : Fin 16) (mask : BitVec 16) (c : Instr) (old new : Nat) (s : State), pageUp s (.bgrp g) = true → hlpRun s g.val = true →
     forceF s (bgrpPage g.val) Off.BGRP_REF_CFG 0 1 ≠ 0 → (bgrpAt s g.val).pll = true →
     ((c = .grpCmdUp g mask ∧ old = 0 ∧ new = 1) ∨ (c = .grpCmdDown g mask ∧ new = 0) ∨
       (c = .grpCmdRemeasure g mask ∧ old = 3 ∧ new = 4) ∨ (c = .grpCmdRestep g mask ∧ old = 6 ∧ new = 5)) →
     (∀ i, i < 16 → mask.getLsbD i = true → (ringAt s (16 * g.val + i)).st = old) →
     ∃ t, exec c s = .next t ∧
       (∀ i, i < 16 → mask.getLsbD i = true → (ringAt t (16 * g.val + i)).st = new) ∧
       (∀ j, (j / 16 ≠ g.val ∨ mask.getLsbD (j % 16) = false) → ringAt t j = ringAt s j) ∧
       t = { s with ring := t.ring, evPend := t.evPend, evRaw := t.evRaw, msix := t.msix })

/-- R343, R349 to R353: the events of training, steps and sleep, each in the link state that it leaves: the new state, and the event
it raises. An auto_up ring leaves DOWN by itself. -/
def Obligations.LinkEvents : Prop :=
  ∀ (p : Fin 256) (s : State), pageUp s (.bport p) = true →
    (linkF s p.val 4 1 = 1 → hlpRun s (p.val / 16) = true → (ringAt s p.val).st = 0 →
      forceF s (bgrpPage (p.val / 16)) Off.BGRP_REF_CFG 0 1 ≠ 0 → (bgrpAt s (p.val / 16)).pll = true →
      ∃ t, exec (.linkAutoUpTimer p) s = .next t ∧ (ringAt t p.val).st = 1 ∧
        t = { s with ring := t.ring, evPend := t.evPend, evRaw := t.evRaw, msix := t.msix }) ∧
    (∀ (c : Instr) (st : Nat) (ev : Option Nat),
      ((c = .linkResetTimer p ∧ (ringAt s p.val).st = 1 ∧ st = 2 ∧ ev = none) ∨
        (c = .linkTrainReturn p ∧ (ringAt s p.val).st = 2 ∧ (ringAt s p.val).afterStep = false ∧ st = 3 ∧ ev = none) ∨
        (c = .linkTrainReturn p ∧ (ringAt s p.val).st = 2 ∧ (ringAt s p.val).afterStep = true ∧ st = 4 ∧ ev = some 4) ∨
        (c = .linkTrainReturn p ∧ (ringAt s p.val).st = 9 ∧ (ringAt s p.val).fromDeep = true ∧ st = 4 ∧ ev = none) ∨
        (c = .linkTrainReturn p ∧ (ringAt s p.val).st = 9 ∧ (ringAt s p.val).fromDeep = false ∧ st = 6 ∧ ev = none) ∨
        (c = .linkTrainTimeout p ∧ (ringAt s p.val).st = 2 ∧ (ringAt s p.val).afterStep = false ∧ st = 0 ∧ ev = some 9) ∨
        (c = .stepSent p ∧ (ringAt s p.val).st = 5 ∧ st = 2 ∧ ev = none) ∨
        (c = .stepTimeout p ∧ (ringAt s p.val).st = 2 ∧ (ringAt s p.val).afterStep = true ∧ st = 1 ∧ ev = some 5) ∨
        (c = .linkLoss p ∧ ((ringAt s p.val).st = 6 ∨ (ringAt s p.val).st = 4) ∧
          st = (if linkF s p.val 4 1 = 1 ∧ hlpRun s (p.val / 16) = true then 1 else 0) ∧ ev = some 1) ∨
        (c = .slackIdleEnter p ∧ (ringAt s p.val).st = 6 ∧ linkF s p.val 5 1 = 1 ∧ (tgen s (p.val / 16)).gen = .slack ∧
          (ringAt s p.val).penFrame.isSome = true ∧ allIdle (ringAt s p.val) = true ∧ st = 7 ∧ ev = none) ∨
        (c = .slackWakeStart p ∧ (ringAt s p.val).st = 7 ∧ linkF s p.val 5 1 = 1 ∧ (tgen s (p.val / 16)).gen = .slack ∧
          st = 9 ∧ ev = none) ∨
        (c = .wakeTimeout p ∧ (ringAt s p.val).st = 9 ∧ st = 1 ∧ ev = some 11)) →
      ∃ t, exec c s = .next t ∧ (ringAt t p.val).st = st ∧ (∀ e, ev = some e → bitOf (evPend t (.bport p)) e = true) ∧
        (st = 6 → (ringAt t p.val).needFull = List.range (ringAt s p.val).n) ∧
        (c = .stepSent p → (ringAt t p.val).step = (ringAt s p.val).target ∧ (ringAt t p.val).afterStep = true) ∧
        (∀ j, j ≠ p.val → ringAt t j = ringAt s j) ∧
        t = { s with ring := t.ring, free := t.free, evPend := t.evPend, evRaw := t.evRaw, msix := t.msix })

/-- R340, R341: TX_CFG waits while a ring is UP and acts in a gap; elsewhere it acts at once. The reference PLL's lock shows in the group.
R344, R346, R347: an enumeration that returns without overflow gives the ring its modules in slot order and starts the measurement; an
overflow ends in DOWN. A measurement train counts towards sixteen; in UP the sixteenth gives LOOP_DLY, the round-half-even mean of the
sixteen, and new ASSIGN blocks, or ends in DOWN above 47,700 ns. -/
def Obligations.LaneMeasurementAndSettings : Prop :=
  ((∀ (p : Fin 256) (v : Word) (s : State), pageUp s (.bport p) = true →
     ((ringAt s p.val).st = 6 → ∃ t, exec (.txCfgWrite p v) s = .next t ∧ ringAt t p.val = { ringAt s p.val with txPending := true } ∧
       (∀ j, j ≠ p.val → ringAt t j = ringAt s j) ∧ t = { s with ring := t.ring, regs := t.regs, msix := t.msix }) ∧
     ((ringAt s p.val).st ≠ 6 → ∃ t, exec (.txCfgWrite p v) s = .next t ∧
       ringAt t p.val = { ringAt s p.val with tx := reg t (.bport p) Off.BPORT_TX_CFG } ∧
       t = { s with ring := t.ring, regs := t.regs, msix := t.msix }) ∧
     ((ringAt s p.val).st = 6 → (ringAt s p.val).txPending = true → ∃ t, exec (.txCfgApply p) s = .next t ∧
       ringAt t p.val = { ringAt s p.val with tx := reg s (.bport p) Off.BPORT_TX_CFG, txPending := false } ∧
       bitOf (evPend t (.bport p)) 12 = true ∧ (∀ j, j ≠ p.val → ringAt t j = ringAt s j) ∧
       t = { s with ring := t.ring, evPend := t.evPend, msix := t.msix })) ∧
   (∀ (g : Fin 16) (s : State), pageUp s (.bgrp g) = true → ∃ t, exec (.refPllLock g) s = .next t ∧
     bgrpAt t g.val = { bgrpAt s g.val with pll := true } ∧ bitOf (evRaw t (.bgrp g)) 0 = true ∧
     (∀ j, j ≠ g.val → bgrpAt t j = bgrpAt s j) ∧ t = { s with bgrp := t.bgrp, evPend := t.evPend, evRaw := t.evRaw, msix := t.msix })) ∧
  (∀ (p : Fin 256) (s : State), pageUp s (.bport p) = true →
     (∀ slots : List (BitVec 128), (ringAt s p.val).st = 3 → linkF s p.val 7 1 = 0 →
       (∃ t, exec (.enumReturn p slots false) s = .next t ∧ (ringAt t p.val).st = 4 ∧
         (ringAt t p.val).n = min 192 (slots.filter (fun v => v.getLsbD 8)).length ∧ (ringAt t p.val).enumd = true ∧
         bitOf (evPend t (.bport p)) 2 = true ∧ (∀ j, j ≠ p.val → ringAt t j = ringAt s j) ∧
         t = { s with ring := t.ring, evPend := t.evPend, evRaw := t.evRaw, msix := t.msix }) ∧
       (∃ t, exec (.enumReturn p slots true) s = .next t ∧ (ringAt t p.val).st = 0 ∧ bitOf (evPend t (.bport p)) 8 = true ∧
         (∀ j, j ≠ p.val → ringAt t j = ringAt s j) ∧
         t = { s with ring := t.ring, evPend := t.evPend, evRaw := t.evRaw, msix := t.msix })) ∧
     (∀ (r : BitVec 24) (fs : List (BitVec 16)), ((ringAt s p.val).st = 4 ∨ ((ringAt s p.val).st = 6 ∧ (ringAt s p.val).remeas = true)) →
       (ringAt s p.val).meas.length < 15 →
       ∃ t, exec (.measTrainReturn p r fs) s = .next t ∧
         (ringAt t p.val).meas = (r.toNat, fs.map (·.toNat)) :: (ringAt s p.val).meas ∧ (ringAt t p.val).st = (ringAt s p.val).st ∧
         (∀ j, j ≠ p.val → ringAt t j = ringAt s j) ∧ t = { s with ring := t.ring, msix := t.msix }) ∧
     (∀ (r : BitVec 24) (fs : List (BitVec 16)), (ringAt s p.val).st = 6 → (ringAt s p.val).remeas = true →
       (ringAt s p.val).meas.length = 15 →
       let rl := (halfEven ((r.toNat + ((ringAt s p.val).meas.map (·.1)).foldl (· + ·) 0 : Nat) : Int) 16).toNat
       ∃ t, exec (.measTrainReturn p r fs) s = .next t ∧ (ringAt t p.val).rl = rl ∧ (ringAt t p.val).meas = [] ∧
         (ringAt t p.val).remeas = false ∧ bitOf (evPend t (.bport p)) 3 = true ∧
         (rl ≤ 47700 * 256 → (ringAt t p.val).assignDue = true ∧ (ringAt t p.val).st = 6) ∧
         (47700 * 256 < rl → (ringAt t p.val).st = 0 ∧ bitOf (evPend t (.bport p)) 7 = true) ∧
         (∀ j, j ≠ p.val → ringAt t j = ringAt s j) ∧
         t = { s with ring := t.ring, evPend := t.evPend, evRaw := t.evRaw, msix := t.msix }))

/-! ## The Bunting packers and modules (spec/13_bunting_protocol.md, spec/14_lamp_diagnostics.md) -/

/-- R136, R371, R379, R392, R393: the oldest chunk is discarded where its ring is not UP, waits for the Pennant before its frame's, and
else opens its frame's parts; a Pennant leaves in its slot, once for each frame, and waits to return; reports and flag heads count only
in UP. -/
def Obligations.PackerStream : Prop :=
  (∀ (g : Fin 16) (c : Chunk) (u : State) (s : State), pageUp s (.bgrp g) = true → nextChunk s g.val = some (c, u) →
    (ringUp s (16 * g.val + c.ring) = false →
      ∃ t, exec (.packerChunk g) s = .next t ∧ t = { u with msix := t.msix }) ∧
    (∀ pl, (ringAt s (16 * g.val + c.ring)).serve.find? (fun q => decide (q.frame = c.frame)) = some pl →
      ringUp s (16 * g.val + c.ring) = true → prevGone s (16 * g.val + c.ring) c.frame = false →
      ∃ t, exec (.packerChunk g) s = .next t ∧ t = { s with msix := t.msix }) ∧
    (∀ pl, (ringAt s (16 * g.val + c.ring)).serve.find? (fun q => decide (q.frame = c.frame)) = some pl →
      ringUp s (16 * g.val + c.ring) = true → prevGone s (16 * g.val + c.ring) c.frame = true →
      ∃ t, exec (.packerChunk g) s = .next t ∧ (ringAt t (16 * g.val + c.ring)).pf = some c.frame ∧
        (∀ j, j ≠ 16 * g.val + c.ring → ringAt t j = ringAt s j) ∧
        t = { u with ring := t.ring, mem := t.mem, ecc := t.ecc, hbm := t.hbm, evPend := t.evPend, evRaw := t.evRaw, msix := t.msix })) ∧
  (∀ (p : Fin 256) (fp : FramePlan) (ttx : Nat) (s : State), pageUp s (.bport p) = true → (ringAt s p.val).st = 6 →
    planOf (tgen s (p.val / 16)) ((tgen s (p.val / 16)).cur + 1) = some fp → fp.gov ≠ .stopped →
    (ringAt s p.val).penFrame ≠ some ((tgen s (p.val / 16)).cur + 1) →
    let rem : Int := held16 fp.latch - (((ringAt s p.val).dp * 65536 + ttx : Nat) : Int)
    0 ≤ rem → 10 * rem < (((blockTime10 (ringAt s p.val).step + 64) * 65536 : Nat) : Int) →
    ∃ t, exec (.pennantDepart p ttx) s = .next t ∧ (ringAt t p.val).penFrame = some ((tgen s (p.val / 16)).cur + 1) ∧
      (ringAt t p.val).penOut = true ∧ (ringAt t p.val).penKind = pennantKind fp (p.val % 16) ∧ (ringAt t p.val).st = 6 ∧
      (ringAt t p.val).penGen = genOfFrame s (p.val / 16) ((tgen s (p.val / 16)).cur + 1) ∧
      (ringAt t p.val).rep = (ringAt t p.val).n - (ringAt t p.val).vt ∧ (ringAt t p.val).n = (ringAt s p.val).n ∧
      (pennantKind fp (p.val % 16) ≠ 0 → (ringAt t p.val).vt = 0) ∧
      (pennantKind fp (p.val % 16) = 0 → (ringAt t p.val).vt < (ringAt t p.val).n → bitOf (evPend t (.bport p)) 16 = true) ∧
      (∀ j, j ≠ p.val → ringAt t j = ringAt s j) ∧
      t = { s with ring := t.ring, bgrp := t.bgrp, eng := t.eng, layr := t.layr, ecc := t.ecc
                   evPend := t.evPend, evRaw := t.evRaw, msix := t.msix }) ∧
  (∀ (p : Fin 256) (ttx : Nat) (s : State), pageUp s (.bport p) = true →
    ((ringAt s p.val).st ≠ 6 ∨ planOf (tgen s (p.val / 16)) ((tgen s (p.val / 16)).cur + 1) = none ∨
      (ringAt s p.val).penFrame = some ((tgen s (p.val / 16)).cur + 1) ∨
      (∃ fp, planOf (tgen s (p.val / 16)) ((tgen s (p.val / 16)).cur + 1) = some fp ∧
        held16 fp.latch < (((ringAt s p.val).dp * 65536 + ttx : Nat) : Int))) →
    ∃ t, exec (.pennantDepart p ttx) s = .next t ∧ t = { s with msix := t.msix }) ∧
  (∀ (p : Fin 256) (v : BitVec 128) (s : State), pageUp s (.bport p) = true → (ringAt s p.val).st = 6 → nfld v.toNat 8 8 < 192 →
    (crcOk v.toNat = false → ∃ t, exec (.reportRx p v []) s = .next t ∧ bitOf (evPend t (.bport p)) 18 = true ∧
      t = { s with evPend := t.evPend, msix := t.msix }) ∧
    (crcOk v.toNat = true → v.getLsbD 72 = false → ∃ t, exec (.reportRx p v []) s = .next t ∧
      rptOf (ringAt t p.val) (nfld v.toNat 8 8) =
        { rptOfBlock v.toNat with reported := (rptOf (ringAt s p.val) (nfld v.toNat 8 8)).reported } ∧
      (ringAt t p.val).got.contains (nfld v.toNat 8 8) = true ∧
      (v.getLsbD 22 = true → bitOf (evPend t (.bport p)) 20 = true ∧
        (ringAt t p.val).needFull.contains (nfld v.toNat 8 8) = true) ∧
      t = { s with ring := t.ring, evPend := t.evPend, evRaw := t.evRaw, msix := t.msix })) ∧
  (∀ (p : Fin 256) (s : State), pageUp s (.bport p) = true →
    ((ringAt s p.val).st = 6 → ∃ t, exec (.flagHeadReturn p) s = .next t ∧ evPend t (.bport p) = putBit (evPend s (.bport p)) 21 true ∧
      t = { s with evPend := t.evPend, msix := t.msix }) ∧
    ((ringAt s p.val).penOut = true →
      (∃ t, exec (.pennantReturn p) s = .next t ∧ (ringAt t p.val).penOut = false ∧ (ringAt t p.val).got = [] ∧
        ((∃ m ∈ (ringAt s p.val).sent0, (ringAt s p.val).got.contains m = false) → bitOf (evPend t (.bport p)) 17 = true) ∧
        (∀ m ∈ (ringAt s p.val).sent0, (ringAt s p.val).got.contains m = false → (ringAt t p.val).needFull.contains m = true) ∧
        t = { s with ring := t.ring, evPend := t.evPend, msix := t.msix }) ∧
      (∃ t, exec (.penLost p) s = .next t ∧ (ringAt t p.val).penOut = false ∧ bitOf (evPend t (.bport p)) 22 = true ∧
        (∀ m ∈ (ringAt s p.val).sent0, (ringAt s p.val).got.contains m = false → (ringAt t p.val).needFull.contains m = true) ∧
        t = { s with ring := t.ring, evPend := t.evPend, msix := t.msix })))

/-- R386, R387, R395, R551: the relay of module firmware: go starts one where none runs, abort ends it, activate queues MFW_ACTIVATE on
every UP ring named, and a relay ends once every UP ring has been sent the image. -/
def Obligations.FirmwareRelay : Prop :=
  ∀ (g : Fin 16) (s : State), pageUp s (.bgrp g) = true → hlpRun s g.val = true →
    ((bgrpAt s g.val).relay = none →
      ∃ t rl, exec (.mfwRelayGo g) s = .next t ∧ (bgrpAt t g.val).relay = some rl ∧ (bgrpAt t g.val).relayUnits = 0 ∧
        rl.src = addrPair s (.bgrp g) Off.BGRP_MFW_SRC_LO Off.BGRP_MFW_SRC_HI ∧ rl.len = regF s (.bgrp g) Off.BGRP_MFW_LEN 0 28 ∧
        rl.mask = regF s (.bgrp g) Off.BGRP_MFW_DEST 0 16 ∧ rl.dest = regF s (.bgrp g) Off.BGRP_MFW_DEST 16 8 ∧
        t = { s with bgrp := t.bgrp, ring := t.ring, msix := t.msix }) ∧
    ((bgrpAt s g.val).relay.isSome = true →
      (∃ t, exec (.mfwAbort g) s = .next t ∧ bgrpAt t g.val = { bgrpAt s g.val with relay := none } ∧
        bitOf (evPend t (.bgrp g)) 10 = true ∧ t = { s with bgrp := t.bgrp, evPend := t.evPend, msix := t.msix }) ∧
      (∃ t, exec (.mfwRelayGo g) s = .next t ∧ t = { s with msix := t.msix })) ∧
    ((bgrpAt s g.val).relay = none → ∀ c : Instr, (c = .mfwAbort g ∨ c = .mfwRelayDone g) →
      ∃ t, exec c s = .next t ∧ t = { s with msix := t.msix }) ∧
    (∃ t, exec (.mfwActivateCmd g) s = .next t ∧
      (∀ i, i < 16 → ringAt t (16 * g.val + i) =
        if (regF s (.bgrp g) Off.BGRP_MFW_DEST 0 16).testBit i = true ∧ ringUp s (16 * g.val + i) = true then
          { ringAt s (16 * g.val + i) with actDue := (ringAt s (16 * g.val + i)).actDue ++
            [(regF s (.bgrp g) Off.BGRP_MFW_DEST 16 8, reg s (.bgrp g) Off.BGRP_MFW_ACT_FRAME)] }
        else ringAt s (16 * g.val + i)) ∧
      t = { s with ring := t.ring, msix := t.msix }) ∧
    (∀ rl, (bgrpAt s g.val).relay = some rl →
      (∀ i, i < 16 → rl.mask.testBit i = true → ringUp s (16 * g.val + i) = true → rl.len ≤ (ringAt s (16 * g.val + i)).relayed + 15) →
      ∃ t, exec (.mfwRelayDone g) s = .next t ∧ (bgrpAt t g.val).relay = none ∧ bitOf (evPend t (.bgrp g)) 10 = true ∧
        t = { s with bgrp := t.bgrp, evPend := t.evPend, msix := t.msix })

/-- R344, R346, R349, R351, R357, R388: what a module's lane does: it takes the position of the first empty slot, fills a measurement
slot, follows a step that it allows, sleeps as it declares, and gains and loses its lane. Every other module stands, at this and at every
other command of a module. -/
def Obligations.ModuleLane : Prop :=
  ∀ (p k : Fin 256) (s : State),
    let v := moduAt s p.val k.val
    (∀ (d : ModDesc) (n : Nat), n < 192 → ∃ t, exec (.moduleEnumSlot p k d n) s = .next t ∧
      moduAt t p.val k.val = moduLine (256 + 256 * p.val + k.val) v
        { v with desc := d, pos := some n, out := [enumSlot d n], runs := v.runs + 1 } ∧ t = { s with modu := t.modu, msix := t.msix }) ∧
    (∀ (d : ModDesc), ∃ t, exec (.moduleEnumSlot p k d 192) s = .next t ∧ (moduAt t p.val k.val).pos = none ∧
      (moduAt t p.val k.val).out = [0xF4 + 2 ^ 8] ∧ t = { s with modu := t.modu, msix := t.msix }) ∧
    (∀ m, v.link = 1 → v.pos = some m → ∃ t, exec (.moduleMeasSlot p k) s = .next t ∧
      moduAt t p.val k.val = moduLine (256 + 256 * p.val + k.val) v
        { v with out := [0xF6 + 2 ^ 8 + m % 256 * 2 ^ 16 + v.desc.f.toNat * 2 ^ 32], runs := v.runs + 1 } ∧
      t = { s with modu := t.modu, msix := t.msix }) ∧
    (v.link ≠ 1 ∨ v.pos = none → ∃ t, exec (.moduleMeasSlot p k) s = .next t ∧ moduAt t p.val k.val = v ∧
      t = { s with modu := t.modu, msix := t.msix }) ∧
    (∃ t, exec (.moduleRxBlockLock p k) s = .next t ∧ moduAt t p.val k.val = { v with link := 1 } ∧
      t = { s with modu := t.modu, msix := t.msix }) ∧
    (v.link = 2 ∨ v.link = 3 → ∃ t, exec (.moduleLinkLoss p k) s = .next t ∧ t = { s with modu := t.modu, msix := t.msix } ∧
      moduAt t p.val k.val = v) ∧
    (v.link < 2 → ∃ t, exec (.moduleLinkLoss p k) s = .next t ∧ (moduAt t p.val k.val).link = 0 ∧
      (moduAt t p.val k.val).step = 0 ∧ (moduAt t p.val k.val).pos = none ∧ (moduAt t p.val k.val).cond = [] ∧
      (2 ≤ v.latches → (moduAt t p.val k.val).shown = v.shown) ∧ (v.latches < 2 → (moduAt t p.val k.val).shown.dark = true) ∧
      t = { s with modu := t.modu, msix := t.msix }) ∧
    (∃ t, exec (.moduleHoldExpiry p k) s = .next t ∧ moduAt t p.val k.val = { v with shown := { v.shown with codes := [], dark := true } } ∧
      t = { s with modu := t.modu, msix := t.msix }) ∧
    (∀ target : Fin 8, v.link = 1 → target.val ≤ v.desc.maxStep.val → ∃ t, exec (.moduleStepRx p k target) s = .next t ∧
      moduAt t p.val k.val = { v with step := target.val, link := 0 } ∧ t = { s with modu := t.modu, msix := t.msix }) ∧
    (v.link = 1 → v.desc.idleCap = true → ∃ t, exec (.moduleSleepRx p k 1) s = .next t ∧ moduAt t p.val k.val = { v with link := 2 } ∧
      t = { s with modu := t.modu, msix := t.msix }) ∧
    (v.link = 1 → v.desc.deepCap = true → ∃ t, exec (.moduleSleepRx p k 2) s = .next t ∧ moduAt t p.val k.val = { v with link := 3 } ∧
      t = { s with modu := t.modu, msix := t.msix }) ∧
    (∀ (c : Instr) (t : State), exec c s = .next t →
      ((∃ d n, c = .moduleEnumSlot p k d n) ∨ c = .moduleMeasSlot p k ∨ c = .moduleRxBlockLock p k ∨ c = .moduleLinkLoss p k ∨
        c = .moduleHoldExpiry p k ∨ (∃ n, c = .moduleStepRx p k n) ∨ (∃ n, c = .moduleSleepRx p k n) ∨ (∃ b, c = .moduleAssignRx p k b) ∨
        (∃ b, c = .moduleDiagCfgRx p k b) ∨ (∃ b, c = .moduleWithdrawRx p k b) ∨ (∃ b l o, c = .moduleFlagPartRx p k b l o) ∨
        (∃ b, c = .moduleProbeRx p k b) ∨ (∃ b l x o, c = .moduleMfwChunkRx p k b l x o) ∨ (∃ b, c = .moduleMfwActivateRx p k b) ∨
        (∃ o, c = .moduleActivationEnd p k o) ∨ (∃ a b, c = .modulePennantRx p k a b) ∨ (∃ l, c = .moduleLatch p k l) ∨
        (∃ l x, c = .moduleUnmeasuredWindow p k l x) ∨ (∃ n x y z, c = .moduleProbePulse p k n x y z)) →
      (∀ q j, j < 256 → (q, j) ≠ (p.val, k.val) → moduAt t q j = moduAt s q j) ∧ t = { s with modu := t.modu, msix := t.msix })

/-- R367, R373, R383, R385, R387, R404, R410: the control blocks a module takes when they are its own: a hold value and a measurement
window wait for the next Pennant; a WITHDRAW drops the attempt's parts and the frame's probes; a part replaces those of another frame
or attempt, part 0 giving place to the report; a probe is kept once; an image chunk is kept once, and a new relay starts the image anew;
activation waits for its frame, and ends in RUNNING or DEAD. -/
def Obligations.ModuleBlocks : Prop :=
  ∀ (p k : Fin 256) (b : BitVec 128) (s : State),
    let v := moduAt s p.val k.val
    (v.link = 1 → forMe v 0x40 b.toNat false = true → ∃ t, exec (.moduleAssignRx p k b) s = .next t ∧
      moduAt t p.val k.val = { v with holdNext := some (nfld b.toNat 16 24) } ∧ t = { s with modu := t.modu, msix := t.msix }) ∧
    (v.link = 1 → forMe v 0x71 b.toNat true = true → ∃ t, exec (.moduleDiagCfgRx p k b) s = .next t ∧
      moduAt t p.val k.val = { v with windowNext := some (nfld b.toNat 16 16) } ∧ t = { s with modu := t.modu, msix := t.msix }) ∧
    (v.link = 1 → crcOk b.toNat = true → nfld b.toNat 0 8 = 0x10 → ∃ t, exec (.moduleWithdrawRx p k b) s = .next t ∧
      moduAt t p.val k.val = { v with
        parts := v.parts.filter (fun q => !(decide (q.frame.toNat = nfld b.toNat 32 32) && decide (q.gen = nfld b.toNat 8 4)))
        probes := v.probes.filter (fun q => decide (q.frame.toNat ≠ nfld b.toNat 32 32)) } ∧
      t = { s with modu := t.modu, msix := t.msix }) ∧
    (∀ (body : List (Bool × BitVec 128)) (temp : Option (BitVec 16)), v.link = 1 → forMe v 0x01 b.toNat false = true → v.fw ≠ 4 →
      ∃ t q, exec (.moduleFlagPartRx p k b body temp) s = .next t ∧ (moduAt t p.val k.val).parts.head? = some q ∧
        q.kind = nfld b.toNat 16 2 ∧ q.phase = nfld b.toNat 18 2 ∧ q.gen = nfld b.toNat 20 4 ∧ q.frame.toNat = nfld b.toNat 24 32 ∧
        (∀ o ∈ (moduAt t p.val k.val).parts, o.frame = q.frame ∧ o.gen = q.gen) ∧
        (moduAt t p.val k.val).out = (if q.phase = 0 ∨ 2 ≤ q.kind then moduReport v temp else []) ∧
        (moduAt t p.val k.val).shown = v.shown ∧ t = { s with modu := t.modu, msix := t.msix }) ∧
    (∀ (body : List (Bool × BitVec 128)) (temp : Option (BitVec 16)), v.link = 1 → forMe v 0x01 b.toNat false = true → v.fw = 4 →
      ∃ t, exec (.moduleFlagPartRx p k b body temp) s = .next t ∧ (moduAt t p.val k.val).parts = v.parts ∧
        (moduAt t p.val k.val).shown = v.shown ∧ t = { s with modu := t.modu, msix := t.msix }) ∧
    (v.link = 1 → forMe v 0x70 b.toNat false = true → ∃ t, exec (.moduleProbeRx p k b) s = .next t ∧
      (∀ e ∈ probeEntries b.toNat, ∃ q ∈ (moduAt t p.val k.val).probes ++ v.pulsed,
        q.frame = e.frame ∧ q.lamp = e.lamp ∧ q.slot = e.slot) ∧
      (∀ q ∈ v.probes, q ∈ (moduAt t p.val k.val).probes) ∧ t = { s with modu := t.modu, msix := t.msix }) ∧
    (∀ (data : List (BitVec 128)) (check : BitVec 128) (ok : Bool) (old : List (Nat × Nat)), v.link = 1 → forMe v 0x50 b.toNat true = true →
      data.length = nfld b.toNat 52 8 → check.toNat = (checkBlock (nfld b.toNat 8 8) 0 (data.map (·.toNat))).payload → v.fw ≠ 4 →
      old = (if v.fw = 1 then v.chunks else []) →
      ∃ t, exec (.moduleMfwChunkRx p k b data check ok) s = .next t ∧
        (moduAt t p.val k.val).chunks =
          (if old.contains (nfld b.toNat 20 32, data.length) then old else (nfld b.toNat 20 32, data.length) :: old) ∧
        ((moduAt t p.val k.val).fw = 1 ∨ (moduAt t p.val k.val).fw = (if ok = true then 2 else 3)) ∧
        t = { s with modu := t.modu, msix := t.msix }) ∧
    (v.link = 1 → forMe v 0x51 b.toNat true = true → v.fw = 2 → ∃ t, exec (.moduleMfwActivateRx p k b) s = .next t ∧
      moduAt t p.val k.val = { v with actFrame := some (BitVec.ofNat 32 (nfld b.toNat 16 32)) } ∧
      t = { s with modu := t.modu, msix := t.msix }) ∧
    (v.fw = 4 → (∃ t, exec (.moduleActivationEnd p k true) s = .next t ∧
        moduAt t p.val k.val = { v with fw := 0, chunks := [], fwEnd := none } ∧ t = { s with modu := t.modu, msix := t.msix }) ∧
      (∃ t, exec (.moduleActivationEnd p k false) s = .next t ∧
        moduAt t p.val k.val = { v with fw := 5, chunks := [], fwEnd := none, shown := { v.shown with codes := [], dark := true } } ∧
        t = { s with modu := t.modu, msix := t.msix }))

/-- R375, R376, R396, R397, R405: a valid Pennant chooses the content of the next latch: REPEAT what is displayed, DARK no light, LATCH
the parts held, or what is displayed where they are not whole; an invalid one is marked missed. A latch shows the choice. A colour
unmeasured for the window becomes unmeasured, and a changed condition is queued once; a probe's result is queued ahead. -/
def Obligations.ModuleDisplay : Prop :=
  ∀ (p k : Fin 256) (s : State),
    let v := moduAt s p.val k.val
    (∀ a b : BitVec 128, v.link = 1 →
      (pennantOk a.toNat b.toNat = false → ∃ t, exec (.modulePennantRx p k a b) s = .next t ∧
        moduAt t p.val k.val = { v with penMissed := true } ∧ t = { s with modu := t.modu, msix := t.msix }) ∧
      (∀ h, pennantOk a.toNat b.toNat = true → v.hold = some h → v.holdNext = none → v.chosen = none → v.fw = 0 →
        (nfld a.toNat 8 2 = 1 → ∃ t, exec (.modulePennantRx p k a b) s = .next t ∧ (moduAt t p.val k.val).chosen = some v.shown ∧
          (moduAt t p.val k.val).penMissed = false ∧ (moduAt t p.val k.val).flagOk = false ∧
          (moduAt t p.val k.val).shown = v.shown ∧ t = { s with modu := t.modu, msix := t.msix }) ∧
        (nfld a.toNat 8 2 = 2 → ∃ t, exec (.modulePennantRx p k a b) s = .next t ∧
          (moduAt t p.val k.val).chosen = some { v.shown with codes := [], dark := true } ∧
          t = { s with modu := t.modu, msix := t.msix }) ∧
        (∀ c, nfld a.toNat 8 2 = 0 →
          newContent v (BitVec.ofNat 32 (nfld a.toNat 38 32)) (nfld a.toNat 10 4) (nfld a.toNat 14 8) (nfld b.toNat 8 2 + 1) = c →
          ∃ t, exec (.modulePennantRx p k a b) s = .next t ∧ (moduAt t p.val k.val).chosen = some (c.getD v.shown) ∧
            (moduAt t p.val k.val).flagOk = c.isSome ∧ (moduAt t p.val k.val).shown = v.shown ∧
            t = { s with modu := t.modu, msix := t.msix }))) ∧
    (∀ c, v.chosen = some c → ∃ t, exec (.moduleLatch p k []) s = .next t ∧
      moduAt t p.val k.val = { v with shown := c, chosen := none, latches := v.latches + 1 } ∧
      t = { s with modu := t.modu, msix := t.msix }) ∧
    (v.chosen = none → ∀ l, ∃ t, exec (.moduleLatch p k l) s = .next t ∧ moduAt t p.val k.val = v ∧
      t = { s with modu := t.modu, msix := t.msix }) ∧
    (∀ (lamp : Fin 65536) (c : Fin 3), mapGet (fun _ => 0) v.measured (3 * lamp.val + c.val) + v.window ≤ v.latches →
      ∃ t, exec (.moduleUnmeasuredWindow p k lamp ⟨c.val, by omega⟩) s = .next t ∧
        mapGet (fun _ => 0) (moduAt t p.val k.val).cond (3 * lamp.val + c.val) = 3 ∧
        (mapGet (fun _ => 0) v.cond (3 * lamp.val + c.val) = 3 → (moduAt t p.val k.val).queue = v.queue) ∧
        (mapGet (fun _ => 0) v.cond (3 * lamp.val + c.val) ≠ 3 → (moduAt t p.val k.val).queue = queueEntry v.queue lamp.val c.val 3) ∧
        t = { s with modu := t.modu, msix := t.msix }) ∧
    (∀ (slot : Fin 8) (r0 r1 r2 : Fin 3) (f : Word) (kind : Nat) (q : Probe), v.pen = some (f, kind) → kind < 2 → v.chosen = none → v.hold ≠ none →
      v.probes.filter (fun x => decide (x.frame = f) && decide (x.slot = slot.val)) = [q] → q.colour < 3 →
      ∃ t, exec (.moduleProbePulse p k slot r0 r1 r2) s = .next t ∧
        (moduAt t p.val k.val).probeQ = v.probeQ ++ [condEntry q.lamp q.colour ([r0.val, r1.val, r2.val].getD q.colour 0)] ∧
        mapGet (fun _ => 0) (moduAt t p.val k.val).cond (3 * q.lamp + q.colour) = [r0.val, r1.val, r2.val].getD q.colour 0 ∧
        q ∉ (moduAt t p.val k.val).probes ∧
        q ∈ (moduAt t p.val k.val).pulsed ∧ t = { s with modu := t.modu, msix := t.msix }) ∧
    (∀ (slot : Fin 8) (r0 r1 r2 : Fin 3), v.pen = none ∨ v.chosen.isSome = true ∨ v.hold = none →
      ∃ t, exec (.moduleProbePulse p k slot r0 r1 r2) s = .next t ∧ moduAt t p.val k.val = v ∧ t = { s with modu := t.modu, msix := t.msix })

/-! ## Memory (spec/15_hbm_controller.md, spec/02_register_pages.md R66, R67) and the fault map (spec/14_lamp_diagnostics.md) -/

/-- R66, R67, R416, R417, R419, R421, R422: the arbiter admits the request it picks, class 0 before every other: a write takes effect
and a read keeps what it will reply as they enter the queue; a queue serves up to its first read, whose reply leaves; a refresh falls
due and is issued; BAR2 writes wait at the arbiter, cut at granules, and a BAR2 read answers from memory, with the poisoned attribute
where a word cannot be corrected. No injection is armed. A write's order with the reads queued before it, and how a long wait is
reported, are as logs 24 and 33 say. -/
def Obligations.MemoryQueues : Prop :=
  (∀ (n : Fin 16) (s : State) (r : HbmReq), s.ecc = [] → s.hbm.inj = none → arbPick s n.val = some r → r.src ≠ srcBar2 →
    hbmOk s r.addr r.len = true →
    ((∃ q ∈ s.hbm.waiting, hbmPc q.addr = n.val ∧ q.cls = 0) → r.cls = 0) ∧
    (r.write = none → ∃ t, exec (.hbmRequestAdmit n) s = .next t ∧
      pcAt t n.val = { pcAt s n.val with queue := (pcAt s n.val).queue ++ [⟨r, .ok, memBytes s r.addr r.len, [], []⟩] } ∧
      t.hbm.waiting = s.hbm.waiting.erase r ∧ (∀ j, j ≠ n.val → pcAt t j = pcAt s j) ∧ t = { s with hbm := t.hbm, msix := t.msix }) ∧
    (∀ bs, r.write = some bs → bs.length = r.len → ∃ t, exec (.hbmRequestAdmit n) s = .next t ∧ t.hbm.waiting = s.hbm.waiting.erase r ∧
      pcAt t n.val = { pcAt s n.val with queue := (pcAt s n.val).queue ++ [⟨r, .ok, [], memBytes s r.addr r.len, []⟩] } ∧
      (∀ j, j ≠ n.val → pcAt t j = pcAt s j) ∧
      (∀ a, memByte t a = if r.addr ≤ a ∧ a < r.addr + bs.length then bs.getD (a - r.addr) 0 else memByte s a) ∧
      t = { s with hbm := t.hbm, mem := t.mem, weirs := t.weirs, msix := t.msix })) ∧
  (∀ (n : Fin 16) (s : State) (r : HbmReq), arbPick s n.val = some r → hbmOk s r.addr r.len = false →
    ∃ t, exec (.hbmRequestAdmit n) s = .next t ∧ t.hbm.waiting = s.hbm.waiting.erase r ∧ (∀ j, pcAt t j = pcAt s j) ∧
      t = { s with hbm := t.hbm, weirs := t.weirs, msix := t.msix }) ∧
  (∀ (n : Fin 16) (s : State) (e : PcEntry) (rest : List PcEntry), s.hbm.inj = none → hbmLive s = true →
    chanStopped s (n.val / 2) = false → (pcAt s n.val).queue = e :: rest → e.req.write = none → e.req.src < srcBar2 → e.errs = [] →
    (weirAt s e.req.src).shadow.contains e.req.tag = true → (weirAt s e.req.src).orphans = [] →
    (∀ x ∈ (weirAt s e.req.src).due ++ (weirAt s e.req.src).replies, x.1 ≠ e.req.tag) →
    ∃ t, exec (.hbmReadReply n) s = .next t ∧ (pcAt t n.val).queue = rest ∧ (∀ j, j ≠ n.val → pcAt t j = pcAt s j) ∧
      weirAt t e.req.src = replyFill e.req.src { weirAt s e.req.src with
        due := (weirAt s e.req.src).due ++ [(e.req.tag, e.status, if e.status = .ok then e.data else [])] } ∧
      t = { s with hbm := t.hbm, weirs := t.weirs, msix := t.msix }) ∧
  (∀ (s : State) (r : HbmReq), r ∈ s.hbm.waiting → 1 ≤ r.cls → r.cls ≤ 3 → pageUp s .fab = true →
    ∃ t, exec .arbStarveTimeout s = .next t ∧ evPend t .fab = putBit (evPend s .fab) 0 true ∧
      t = { s with evPend := t.evPend, msix := t.msix }) ∧
  (∀ (n bank : Fin 16) (s : State), forceF s (.hbmpc n) Off.HBMPC_PAGE_CFG 0 2 = 0 →
    ∃ t, exec (.pageIdleClose n bank) s = .next t ∧ mapGet (fun _ => none) (pcAt t n.val).rows bank.val = none ∧
      (∀ b, b ≠ bank.val → mapGet (fun _ => none) (pcAt t n.val).rows b = mapGet (fun _ => none) (pcAt s n.val).rows b) ∧
      (pcAt t n.val).queue = (pcAt s n.val).queue ∧ t = { s with hbm := t.hbm, msix := t.msix }) ∧
  (∀ (n : Fin 16) (s : State), pageUp s .hbm = true → s.hbm.sr = false →
    ((pcAt s n.val).owed + 1 ≤ ((forceF s .hbm Off.HBM_CFG 0 4 : Nat) : Int) →
      ∃ t, exec (.refDue n) s = .next t ∧ pcAt t n.val = { pcAt s n.val with owed := (pcAt s n.val).owed + 1 } ∧
        (∀ j, j ≠ n.val → pcAt t j = pcAt s j) ∧ t = { s with hbm := t.hbm, msix := t.msix }) ∧
    (((forceF s .hbm Off.HBM_CFG 0 4 : Nat) : Int) < (pcAt s n.val).owed + 1 →
      ∃ t, exec (.refDue n) s = .next t ∧ (pcAt t n.val).owed = ((forceF s .hbm Off.HBM_CFG 0 4 : Nat) : Int) ∧
        (pcAt t n.val).rows = [] ∧ bitOf (evPend t (.hbmpc n)) 3 = true ∧
        t = { s with hbm := t.hbm, evPend := t.evPend, msix := t.msix }) ∧
    (chanStopped s (n.val / 2) = false → s.hbm.inj = none → refMay s (pcAt s n.val) = true →
      ∃ t, exec (.refIssue n) s = .next t ∧ pcAt t n.val = { pcAt s n.val with owed := (pcAt s n.val).owed - 1, rows := [] } ∧
        (∀ j, j ≠ n.val → pcAt t j = pcAt s j) ∧ t = { s with hbm := t.hbm, msix := t.msix })) ∧
  (∀ (a : BitVec 35) (bs : List Byte) (s : State),
    (hbmLive s = true → bs ≠ [] → a.toNat % 256 + bs.length ≤ 256 → a.toNat + bs.length ≤ hbmBytes s →
      ∃ t, exec (.bar2Write a bs false) s = .next t ∧
        t.hbm = { s.hbm with waiting := s.hbm.waiting ++ [⟨srcBar2, 0, 3, a.toNat, bs.length, some bs⟩] } ∧
        t = { s with hbm := t.hbm, msix := t.msix }) ∧
    (hbmLive s = true →
      ∃ t ws, exec (.bar2Write a bs false) s = .next t ∧ t.hbm = { s.hbm with waiting := s.hbm.waiting ++ ws } ∧
        (∀ r ∈ ws, r.src = srcBar2 ∧ r.cls = 3 ∧ r.addr % 256 + r.len ≤ 256 ∧ r.addr + r.len ≤ hbmBytes s ∧ r.write.map (fun x => x.length) = some r.len) ∧
        (a.toNat + bs.length ≤ hbmBytes s → ws.flatMap (fun r => r.write.getD []) = bs) ∧
        t = { s with hbm := t.hbm, msix := t.msix }) ∧
    (hbmLive s = false → ∃ t, exec (.bar2Write a bs false) s = .next t ∧ t = { s with msix := t.msix }) ∧
    (pageUp s .pcie = true → ∃ t, exec (.bar2Write a bs true) s = .next t ∧ evPend t .pcie = putBit (evPend s .pcie) 3 true ∧
      t = { s with evPend := t.evPend, msix := t.msix })) ∧
  (∀ (a : BitVec 35) (n : Nat) (s : State), bar2Waits s = false →
    (hbmOk s a.toNat n = true → n ≠ 0 → memPoison s a.toNat n = true →
      ∃ t, exec (.bar2Read a n) s = .next t ∧ t.bar2 = { s.bar2 with data := List.replicate n 0xFF, poisoned := true } ∧
        t = { s with bar2 := t.bar2, ecc := t.ecc, evPend := t.evPend, msix := t.msix }) ∧
    (s.ecc = [] → hbmOk s a.toNat n = true →
      ∃ t, exec (.bar2Read a n) s = .next t ∧ t.bar2 = { s.bar2 with data := memBytes s a.toNat n, poisoned := false } ∧
        t = { s with bar2 := t.bar2, msix := t.msix }) ∧
    (hbmLive s = false →
      ∃ t, exec (.bar2Read a n) s = .next t ∧ t.bar2 = { s.bar2 with data := List.replicate n 0xFF, poisoned := false } ∧
        t = { s with bar2 := t.bar2, msix := t.msix }))

/-- R424, R429, R430, R431, R432: the memory's upkeep. A temperature sample is kept; one at the hot limit doubles the refresh rate, and
so does a sample that fails; a cool one halves it again. A parity error starts a recovery; the fifth error of one command asks for a
retraining, whose failure fails the channel. Patrol scrub goes on to the next granule and wraps. An injection is armed at INJ_ADDR, or
canceled. -/
def Obligations.MemoryUpkeep : Prop :=
  (∀ (v : BitVec 8) (s : State), pageUp s .hbm = true → s.hbm.doubled = false → v.toInt < (s.cpm.policy.hbmTrip : Int) →
    (v.toInt < ((forceF s .hbm Off.HBM_CFG 16 8 : Nat) : Int) →
      ∃ t, exec (.hbmTempSample (some v)) s = .next t ∧ t.hbm = { s.hbm with temp := v.toInt, tempValid := true } ∧
        (s.hbm.train = 1 → sensor t 24 = ⟨256 * v.toInt, true, false⟩) ∧
        t.last = (if 85 ≤ v.toInt then { s.last with hotMs := s.last.hotMs + 1 } else s.last) ∧
        t = { s with hbm := t.hbm, therm := t.therm, last := t.last, msix := t.msix }) ∧
    (((forceF s .hbm Off.HBM_CFG 16 8 : Nat) : Int) ≤ v.toInt →
      ∃ t, exec (.hbmTempSample (some v)) s = .next t ∧ t.hbm.doubled = true ∧ t.hbm.temp = v.toInt ∧
        (∀ n, n < 16 → (pcAt t n).owed = min (2 * (pcAt s n).owed) ((forceF s .hbm Off.HBM_CFG 0 4 : Nat) : Int)) ∧
        bitOf (evRaw t .hbm) 1 = true ∧
        t.last = (if 85 ≤ v.toInt then { s.last with hotMs := s.last.hotMs + 1 } else s.last) ∧
        t = { s with hbm := t.hbm, therm := t.therm, last := t.last, evPend := t.evPend, evRaw := t.evRaw, msix := t.msix })) ∧
  (∀ (v : BitVec 8) (s : State), pageUp s .hbm = true → s.hbm.doubled = true → v.toInt < (s.cpm.policy.hbmTrip : Int) →
    v.toInt < ((forceF s .hbm Off.HBM_CFG 16 8 : Nat) : Int) → v.toInt < ((forceF s .hbm Off.HBM_CFG 24 8 : Nat) : Int) →
    ∃ t, exec (.hbmTempSample (some v)) s = .next t ∧ t.hbm.doubled = false ∧ t.hbm.temp = v.toInt ∧
      (∀ n, n < 16 → (pcAt t n).owed = min (((pcAt s n).owed + 1) / 2) ((forceF s .hbm Off.HBM_CFG 0 4 : Nat) : Int)) ∧
      bitOf (evRaw t .hbm) 1 = false ∧
      t = { s with hbm := t.hbm, therm := t.therm, last := t.last, evPend := t.evPend, evRaw := t.evRaw, msix := t.msix }) ∧
  (∀ (c : Instr) (s : State), (c = .hbmTempSample none ∨ c = .hbmTempSampleTimeout) → pageUp s .hbm = true → s.hbm.doubled = false →
    ∃ t, exec c s = .next t ∧ t.hbm.doubled = true ∧ t.hbm.tempValid = false ∧ t.hbm.temp = s.hbm.temp ∧
      bitOf (evPend t .hbm) 2 = true ∧ t = { s with hbm := t.hbm, evPend := t.evPend, evRaw := t.evRaw, msix := t.msix }) ∧
  (∀ (c : Fin 8) (s : State), hbmLive s = true → s.hbm.chanFailed.testBit c.val = false → (chanAt s c.val).retrain = false →
    (∃ t, exec (.hbmParityError c false) s = .next t ∧ chanAt t c.val = { chanAt s c.val with replay := true, repeats := 0 } ∧
      (∀ j, j ≠ c.val → chanAt t j = chanAt s j) ∧ t = { s with hbm := t.hbm, msix := t.msix }) ∧
    ((chanAt s c.val).replay = true → (chanAt s c.val).repeats = 3 →
      ∃ t, exec (.hbmParityError c true) s = .next t ∧ chanAt t c.val = { chanAt s c.val with repeats := 4, retrain := true } ∧
        t = { s with hbm := t.hbm, msix := t.msix }) ∧
    ((chanAt s c.val).replay = true →
      ∃ t, exec (.hbmReplayDone c) s = .next t ∧ chanAt t c.val = { chanAt s c.val with replay := false, repeats := 0 } ∧
        (∀ n : Fin 16, n.val / 2 = c.val → bitOf (evPend t (.hbmpc n)) 2 = true) ∧
        (∀ j, j ≠ c.val → chanAt t j = chanAt s j) ∧ t = { s with hbm := t.hbm, evPend := t.evPend, msix := t.msix })) ∧
  (∀ (c : Fin 8) (s : State), (chanAt s c.val).retrain = true →
    (∃ t, exec (.hbmRetrainDone c true) s = .next t ∧
      chanAt t c.val = { chanAt s c.val with replay := false, retrain := false, repeats := 0 } ∧
      (∀ n, n < 16 → n / 2 = c.val → pcAt t n = { pcAt s n with owed := 0, rows := [] }) ∧ t = { s with hbm := t.hbm, msix := t.msix }) ∧
    (pageUp s .hbm = true →
      ∃ t, exec (.hbmRetrainDone c false) s = .next t ∧ (chanAt t c.val).retrain = false ∧ t.hbm.chanFailed.testBit c.val = true ∧
        (∀ n, n < 16 → n / 2 = c.val → (pcAt t n).queue = []) ∧ bitOf (evRaw t .hbm) 3 = true ∧
        t = { s with hbm := t.hbm, weirs := t.weirs, evPend := t.evPend, evRaw := t.evRaw, msix := t.msix })) ∧
  (∀ s : State, s.ecc = [] → s.hbm.inj = none → hbmLive s = true → forceF s .hbm Off.HBM_SCRUB_CFG 0 16 ≠ 0 →
    chanStopped s (hbmPc (s.hbm.scrub * 256) / 2) = false → (pcAt s (hbmPc (s.hbm.scrub * 256))).queue = [] →
    (s.hbm.scrub * 256 + 256 < hbmBytes s → ∃ t, exec .scrubAccess s = .next t ∧
      t.hbm = { s.hbm with scrub := s.hbm.scrub + 1, pcs := t.hbm.pcs, chans := t.hbm.chans } ∧
      (∀ n, pcAt t n = { pcAt s n with rows := (pcAt t n).rows, pred := (pcAt t n).pred }) ∧
      (∀ n, n ≠ hbmPc (s.hbm.scrub * 256) → pcAt t n = pcAt s n) ∧
      t = { s with hbm := t.hbm, msix := t.msix }) ∧
    (hbmBytes s ≤ s.hbm.scrub * 256 + 256 → ∃ t, exec .scrubAccess s = .next t ∧
      t.hbm = { s.hbm with scrub := 0, pcs := t.hbm.pcs, chans := t.hbm.chans } ∧
      evPend t .hbm = putBit (evPend s .hbm) 5 true ∧ t = { s with hbm := t.hbm, evPend := t.evPend, msix := t.msix })) ∧
  (∀ s : State, pageUp s .hbm = true →
    (∀ k : Fin 4, k.val ≠ 0 → ∃ t, exec (.injArm k) s = .next t ∧
      t.hbm = { s.hbm with inj := some (k.val, (reg s .hbm Off.HBM_INJ_ADDR_LO).toNat / 8 * 8 + regF s .hbm Off.HBM_INJ_ADDR_HI 0 3 * 2 ^ 32) } ∧
      t = { s with hbm := t.hbm, regs := t.regs, msix := t.msix }) ∧
    (∃ t, exec .injCancel s = .next t ∧ t.hbm = { s.hbm with inj := none } ∧ t = { s with hbm := t.hbm, regs := t.regs, msix := t.msix }))

/-- R400, R407: a fault map command takes its span, or raises DIAG_CMD_ERR where one is in progress or the span passes the map's end;
as it ends, every byte of its span that can be read is masked, unmasked or cleared, and no other byte of memory changes. No injection
is armed and no check bit is bad. -/
def Obligations.FaultMapCommands : Prop :=
  ∀ s : State, pageUp s .diag = true →
    (∀ (c : Instr) (op : Nat), (c = .fmapMask ∧ op = 1) ∨ (c = .fmapUnmask ∧ op = 2) ∨ (c = .fmapClear ∧ op = 3) →
      (s.diag.cmd = none → regF s .diag Off.DIAG_FMAP_IDX 0 30 + regF s .diag Off.DIAG_FMAP_CNT 0 17 ≤ fmapLen s →
        ∃ t, exec c s = .next t ∧
          t.diag = { s.diag with cmd := some (op, regF s .diag Off.DIAG_FMAP_IDX 0 30, regF s .diag Off.DIAG_FMAP_CNT 0 17) } ∧
          t = { s with diag := t.diag, msix := t.msix }) ∧
      (s.diag.cmd.isSome = true ∨ fmapLen s < regF s .diag Off.DIAG_FMAP_IDX 0 30 + regF s .diag Off.DIAG_FMAP_CNT 0 17 →
        ∃ t, exec c s = .next t ∧ evPend t .diag = putBit (evPend s .diag) 2 true ∧ t = { s with evPend := t.evPend, msix := t.msix })) ∧
    (∀ op i n : Nat, s.diag.cmd = some (op, i, n) → s.ecc = [] → s.hbm.inj = none →
      (∀ k, k < n → hbmReadOk s (fmapBase s + i + k) 1 = true) →
      ∃ t, exec .fmapCmdDone s = .next t ∧ t.diag = { s.diag with cmd := none } ∧ evPend t .diag = putBit (evPend s .diag) 6 true ∧
        (∀ a, memByte t a = if fmapBase s + i ≤ a ∧ a < fmapBase s + i + n then
            (if op = 1 then memByte s a ||| 0x80 else if op = 2 then memByte s a &&& 0x7F else memByte s a &&& 0x80)
          else memByte s a) ∧
        t = { s with diag := t.diag, mem := t.mem, evPend := t.evPend, msix := t.msix })

/-! ## Host port and scene store (spec/16_host_and_scene_store.md) -/

/-- R34, R446, R451 to R456, R602: the host port. A configuration request is answered, or retried while the device is not ready, and a
base address register keeps its address bits; the link's speed, width and power state show; a doorbell waits, and then sends its buffer
READY or is refused; a DMA channel takes the job at its queue's head, collects its completions, and ends it: result words, DMA_QHEAD,
DMA_LAST and the event. No injection is armed and no check bit is bad. -/
def Obligations.HostPort : Prop :=
  (∀ (req : CfgReq) (s : State), islandUp s islHost = true →
    (∃ t, exec (.pcieConfigRequest false req) s = .next t ∧ t.host = { s.host with cfgAns := (2, 0) } ∧
      t = { s with host := t.host, msix := t.msix }) ∧
    (∃ t, exec (.pcieConfigRequest true req) s = .next t ∧ t.host.cfgAns.1 = 0 ∧
      (∀ d3, req = .powerWrite d3 → t.host.d3 = d3) ∧ (∀ e f, req = .msixWrite e f → t.msix.enable = e ∧ t.msix.funcMask = f) ∧
      (req = .header 11 → t.host.cfgAns.2 = s.cpm.settings.getD 1 0) ∧
      (∀ d : Fin 16, req = .header d → 4 ≤ d.val → d.val < 10 → t.host.cfgAns.2 = barWord s d.val) ∧
      (∀ (d : Fin 16) (v : Word), req = .headerWrite d v → ∀ e, mapGet (fun _ => 0) t.host.bars e =
        if e = d.val then v &&& barBits d.val else mapGet (fun _ => 0) s.host.bars e) ∧
      t = { s with host := t.host, free := t.free, msix := t.msix })) ∧
  (∀ (speed : Fin 6) (width : Fin 17) (l1 : Bool) (s : State), pageUp s .pcie = true →
    ∃ t, exec (.pcieLinkChange speed width l1) s = .next t ∧
      fld (reg t .pcie Off.PCIE_LINK_STAT) 0 4 = speed.val ∧ fld (reg t .pcie Off.PCIE_LINK_STAT) 4 5 = width.val ∧
      bitOf (reg t .pcie Off.PCIE_LINK_STAT) 9 = l1 ∧
      (fld (reg s .pcie Off.PCIE_LINK_STAT) 0 9 ≠ speed.val + 16 * width.val → bitOf (evPend t .pcie) 4 = true) ∧
      t = { s with regs := t.regs, evPend := t.evPend, msix := t.msix }) ∧
  (∀ (k : Fin 8) (seq : Word) (s : State), pageUp s .pcie = true →
    (∃ t, exec (.dbSeqWrite k seq) s = .next t ∧ t.host = { s.host with bells := s.host.bells ++ [(k.val, seq)] } ∧
      t = { s with host := t.host, msix := t.msix }) ∧
    (∀ (rest : List (Nat × Word)) (b : Nat), s.host.bells = (k.val, seq) :: rest → bar2Waits s = false →
      regF s .pcie (Off.PCIE_DB_BUF + 8 * k.val) 0 14 = b → pageUp s .layr = true →
      (hostReadyCode s b = 0 → ∃ t, exec (.doorbellReady k) s = .next t ∧ t.host.bells = rest ∧
        bitOf (reg t .pcie Off.PCIE_DB_STAT) k.val = false ∧ bufAt t b = { bufAt s b with st := 2, seq := seq } ∧
        (∀ e, e ≠ b → bufAt t e = bufAt s e) ∧
        t = { s with host := t.host, regs := t.regs, layr := t.layr, scal := t.scal, evPend := t.evPend, msix := t.msix }) ∧
      (hostReadyCode s b ≠ 0 → ∃ t, exec (.doorbellReady k) s = .next t ∧ t.host.bells = rest ∧
        bitOf (reg t .pcie Off.PCIE_DB_STAT) k.val = true ∧ bitOf (evPend t .pcie) 2 = true ∧ bitOf (evPend t .layr) 4 = true ∧
        t = { s with host := t.host, regs := t.regs, evPend := t.evPend, msix := t.msix }))) ∧
  (∀ (c : Fin 4) (v : Word) (s : State), pageUp s .pcie = true →
    ∃ t, exec (.dmaQtailWrite c v) s = .next t ∧ dmaTail t c.val = fld v 0 8 ∧ dmaHead t c.val = dmaHead s c.val ∧
      t = { s with regs := t.regs, msix := t.msix }) ∧
  (∀ (i : Instr) (c : Fin 4) (op : Nat) (s : State), s.ecc = [] →
    ((i = .dmaToHbm c ∧ op = 0) ∨ (i = .dmaFromHbm c ∧ op = 1)) → dmaMayStart s c.val (fun o => decide (o = op)) = true →
    dmaDescOk s c.val = true →
    (dmaDescBad s (dmaFresh s c.val) = true → ∃ t, exec i s = .next t ∧
      dmaRun t c.val = some { dmaFresh s c.val with dead := some 1 } ∧ (∀ k, k ≠ c.val → dmaRun t k = dmaRun s k) ∧
      t = { s with host := t.host, msix := t.msix }) ∧
    (dmaDescBad s (dmaFresh s c.val) = false → ∃ t j, exec i s = .next t ∧ dmaRun t c.val = some j ∧
      j = { dmaFresh s c.val with asked := j.asked, reads := j.reads } ∧
      j.reads.length ≤ 64 ∧ j.asked = (j.reads.map (fun x => x.2)).foldl (· + ·) 0 ∧ (op = 1 → j.reads = []) ∧
      (op = 0 → (j.reads.length = 64 ∨ j.asked = djLen j) ∧ j.reads.head?.map (fun x => x.1) = some (djBus j % 2 ^ 64)) ∧
      (∀ x ∈ j.reads, x.1 % 4096 + x.2 ≤ 4096) ∧
      (∀ k, k ≠ c.val → dmaRun t k = dmaRun s k) ∧ t = { s with host := t.host, msix := t.msix })) ∧
  (∀ (c : Fin 4) (s : State), dmaMayStart s c.val (fun o => decide (o = 3)) = true → ∃ t j, exec (.dmaToHbm c) s = .next t ∧
    dmaRun t c.val = some j ∧ j.dead = (if dmaDescOk s c.val then some 1 else some 4) ∧
    (∀ k, k ≠ c.val → dmaRun t k = dmaRun s k) ∧ t = { s with host := t.host, ecc := t.ecc, evPend := t.evPend, msix := t.msix }) ∧
  (∀ (c : Fin 4) (s : State), s.ecc = [] → dmaMayStart s c.val (fun o => decide (o = 2)) = true → dmaDescOk s c.val = true →
    let f := surfOf (bufEntry s (djBuf (dmaFresh s c.val)))
    let b := djBuf (dmaFresh s c.val)
    dmaDescBad s (dmaFresh s c.val) = false → pageUp s .layr = true → ownedBy s b ownPcie c.val = false → claimCode s b = 0 → f.st < 4 →
    f.w * fmtBytes f.fmt ≤ djPitch (dmaFresh s c.val) →
    ∃ t j, exec (.dmaFillBuf c) s = .next t ∧ dmaRun t c.val = some j ∧
      j = { dmaFresh s c.val with buf := some b, asked := j.asked, reads := j.reads } ∧ j.reads.length ≤ 64 ∧
      (∀ x ∈ j.reads, x.1 % 4096 + x.2 ≤ 4096) ∧ ownedBy t b ownPcie c.val = true ∧
      t = { s with host := t.host, layr := t.layr, msix := t.msix }) ∧
  (∀ (c : Fin 4) (s : State) (j : DmaJob), s.ecc = [] → s.hbm.inj = none → pageUp s .pcie = true → dmaRun s c.val = some j →
    (∀ bs, j.dead = none → djOp j = 0 → j.index < 256 → j.got + bs.length ≤ j.asked → hbmOk s (djHbm j + j.got) bs.length = true →
      ∃ t j', exec (.dmaCompletionRx c (Fin.ofNat 256 j.index) (some bs)) s = .next t ∧ dmaRun t c.val = some j' ∧
        j' = { j with got := j.got + bs.length, asked := j'.asked, reads := j'.reads } ∧ j.asked ≤ j'.asked ∧
        (∀ a, memByte t a = if djHbm j + j.got ≤ a ∧ a < djHbm j + j.got + bs.length then bs.getD (a - (djHbm j + j.got)) 0
          else memByte s a) ∧ t = { s with host := t.host, mem := t.mem, msix := t.msix }) ∧
    (∀ bs, j.dead = none → djOp j = 2 → j.index < 256 → j.got + bs.length ≤ j.asked →
      ∃ t j', exec (.dmaCompletionRx c (Fin.ofNat 256 j.index) (some bs)) s = .next t ∧ dmaRun t c.val = some j' ∧
        j' = { j with got := j.got + bs.length, image := bs.reverse ++ j.image, asked := j'.asked, reads := j'.reads } ∧
        t = { s with host := t.host, msix := t.msix }) ∧
    (j.dead = none → djOp j = 1 → hbmReadOk s (djHbm j) (djLen j) = true →
      ∃ t, exec (.dmaJobEnd c) s = .next t ∧ dmaRun t c.val = none ∧
        t.host.posted = (djBus j, memBytes s (djHbm j) (djLen j)) :: s.host.posted ∧
        fld (dmaReg t c.val Off.PCIE_DMA_LAST) 0 8 = 0 ∧ bitOf (evPend t .pcie) 0 = true ∧
        t = { s with host := t.host, mem := t.mem, regs := t.regs, evPend := t.evPend, msix := t.msix }) ∧
    (∀ (i : Instr) (status : Nat), j.buf = none →
      ((i = .dmaJobEnd c ∧ j.dead = some status) ∨
       (i = .dmaJobEnd c ∧ j.dead = none ∧ djOp j = 0 ∧ djLen j ≤ j.got ∧ status = 0) ∨
       (i = .cplTimeout c ∧ j.dead = none ∧ djOp j = 0 ∧ status = 3) ∨
       (i = .dmaCompletionRx c (Fin.ofNat 256 j.index) none ∧ j.index < 256 ∧ j.dead = none ∧ djOp j = 0 ∧ status = 3) ∨
       (i = .dmaAbort c ∧ status = 5)) → status < 256 → 0 < dmaSize s c.val → dmaSize s c.val ≤ 256 →
      ∃ t, exec i s = .next t ∧ dmaRun t c.val = none ∧ dmaHead t c.val = (j.index + 1) % dmaSize s c.val ∧
        fld (dmaReg t c.val Off.PCIE_DMA_LAST) 0 8 = status ∧ bitOf (evPend t .pcie) (if status = 0 then 0 else 1) = true ∧
        (hbmOk s (dmaBase s c.val + 64 * j.index + 48) 16 = true →
          memWords t (dmaBase s c.val + 64 * j.index + 48) 4 = [BitVec.ofNat 32 j.got, 0, 0, BitVec.ofNat 32 (status + 2 ^ 31)]) ∧
        (∀ a, (a < dmaBase s c.val + 64 * j.index + 48 ∨ dmaBase s c.val + 64 * j.index + 64 ≤ a) → memByte t a = memByte s a) ∧
        t = { s with host := t.host, mem := t.mem, regs := t.regs, evPend := t.evPend, msix := t.msix }))

/-- R460 to R471, R477, R479: the scene store. A drive goes from ABSENT to INIT as its link trains, and to READY or FAILED as its
initialisation ends; a drive that is turned off or loses its link is ABSENT. A stream starts, stops, seeks and releases its chunks; a
host request is taken and, its commands ended, shows its status. -/
def Obligations.SceneStore : Prop :=
  (∀ (d : Fin 4) (s : State), pageUp s .nvme = true →
    (∀ (speed : Fin 6) (width : Fin 5), hlpRun s 16 = true → bitOf (reg s .nvme Off.NVME_CTRL) d.val = true → drvPresent s d.val = true →
      (drvAt s d.val).st = 0 → s.store.rperst.contains d.val = false →
      ∃ t, exec (.driveLinkUp d speed width) s = .next t ∧
        drvAt t d.val = { Drive.initial with st := 1, speed := speed.val, width := width.val } ∧
        (∀ e, e ≠ d.val → drvAt t e = drvAt s e) ∧ t = { s with store := t.store, evRaw := t.evRaw, msix := t.msix }) ∧
    (∀ (lba : Fin 64) (blocks : BitVec 64) (mdts : Fin 256) (mqes : BitVec 16), (drvAt s d.val).st = 1 →
      ((lba.val = 9 ∨ lba.val = 12) → 256 ≤ mqes.toNat →
        ∃ t, exec (.driveInitDone d true lba blocks mdts mqes) s = .next t ∧
          drvAt t d.val = { drvAt s d.val with
            st := 2, lbaLog2 := lba.val, cap := min blocks.toNat (2 ^ (44 - lba.val))
            most := if mdts.val = 0 then 2 ^ 19 else min (2 ^ (12 + mdts.val)) (2 ^ 19) } ∧
          bitOf (evRaw t .nvme) d.val = true ∧ t = { s with store := t.store, evPend := t.evPend, evRaw := t.evRaw, msix := t.msix }) ∧
      (∃ t, exec (.driveInitDone d false lba blocks mdts mqes) s = .next t ∧ (drvAt t d.val).st = 3 ∧ bitOf (evPend t .nvme) 4 = true ∧
        t = { s with store := t.store, evPend := t.evPend, evRaw := t.evRaw, msix := t.msix })) ∧
    ((drvAt s d.val).st ≠ 0 → s.store.cmds = [] → s.store.streams = [] → s.store.req = none →
      ∃ t, exec (.driveLinkDown d) s = .next t ∧ drvAt t d.val = Drive.initial ∧ bitOf (evRaw t .nvme) d.val = false ∧
        (∀ e, e ≠ d.val → drvAt t e = drvAt s e) ∧
        t = { s with store := t.store, trim := { s.trim with ckpt := t.trim.ckpt }, evRaw := t.evRaw, msix := t.msix })) ∧
  (∀ (v : Word) (s : State), pageUp s .nvme = true → s.store.cmds = [] → s.store.streams = [] → s.store.req = none →
    ∃ t, exec (.driveEnableWrite v) s = .next t ∧ (∀ d, d < 4 → bitOf v d = false → drvAt t d = Drive.initial) ∧
      (∀ d, d < 4 → bitOf v d = true → drvAt t d = drvAt s d ∧ bitOf (reg t .nvme Off.NVME_CTRL) d = true) ∧
      (∀ d, d < 4 → t.store.rperst.contains d = !bitOf v d) ∧
      t = { s with store := t.store, trim := { s.trim with ckpt := t.trim.ckpt }, regs := t.regs, evRaw := t.evRaw, msix := t.msix }) ∧
  (∀ (d : Fin 4) (tag : Fin 256) (c : NvmeCmd) (q : NvmeReq) (s : State), cmdAt s (d.val * 256 + tag.val) = some c → c.who = 32 →
    c.write = false → s.store.req = some q → q.todo = [] → s.store.streams = [] → s.trim.ckpt = none → s.ecc = [] → s.hbm.inj = none →
    (∀ (field : BitVec 15) (data : List Byte), field ≠ 0 → q.status = 0 →
      ∃ t, exec (.nvmeCompletion d tag field data) s = .next t ∧ cmdAt t (d.val * 256 + tag.val) = none ∧
        t.store.req = some { q with out := q.out - 1, status := 3, field := field.toNat } ∧ t = { s with store := t.store, msix := t.msix }) ∧
    (∀ data : List Byte, c.flush = false → data.length ≤ c.blocks * 2 ^ (drvAt s d.val).lbaLog2 → hbmOk s c.addr data.length = true →
      ∃ t, exec (.nvmeCompletion d tag 0 data) s = .next t ∧ cmdAt t (d.val * 256 + tag.val) = none ∧
        t.store.req = some { q with out := q.out - 1 } ∧
        (∀ a, memByte t a = if c.addr ≤ a ∧ a < c.addr + data.length then data.getD (a - c.addr) 0 else memByte s a) ∧
        t = { s with store := t.store, mem := t.mem, msix := t.msix }) ∧
    (q.status = 0 → pageUp s .nvme = true → (drvAt s d.val).lastReset = none → s.store.cmds = [(d.val * 256 + tag.val, some c)] →
      ∃ t, exec (.nvmeCmdTimeout d tag) s = .next t ∧ (drvAt t d.val).st = 1 ∧ (drvAt t d.val).lastReset = some s.time.now ∧
        cmdAt t (d.val * 256 + tag.val) = none ∧ t.store.req = some { q with out := q.out - 1, status := 4, field := 0 } ∧
        bitOf (evPend t .nvme) 5 = true ∧
        t = { s with store := t.store, free := t.free, evPend := t.evPend, evRaw := t.evRaw, msix := t.msix })) ∧
  (∀ (d : Fin 4) (tag : Fin 256) (c : NvmeCmd) (q : Ckpt) (s : State), cmdAt s (d.val * 256 + tag.val) = some c → c.who = 33 →
    s.trim.ckpt = some q → q.todo = [] → s.store.streams = [] → s.store.req = none →
    c.write = true → ckptReadOk s q.hdr c.addr c.bytes = true →
    ∃ t, exec (.nvmeCompletion d tag 0 []) s = .next t ∧ cmdAt t (d.val * 256 + tag.val) = none ∧
      t.store.written = (d.val, c.lba, ckptData s q.hdr c.addr c.bytes) :: s.store.written ∧
      t = { s with store := t.store, trim := { s.trim with ckpt := some { q with out := q.out - 1 } }, msix := t.msix }) ∧
  (∀ (k : Fin 32) (c : Instr) (s : State), pageUp s .nvme = true → islandRuns s islHost = true → hlpRun s 16 = true →
    s.store.streams = [] → s.store.cmds = [] → s.store.req = none → (c = .strStart k ∨ c = .strSeek k) →
    (strClipFor s k.val = none →
      ∃ t, exec c s = .next t ∧ (strAt t k.val).st = 3 ∧ (strAt t k.val).err = 7 ∧ bitOf (evPend t .nvme) 8 = true ∧
        (∀ j, j ≠ k.val → strAt t j = strAt s j) ∧
        t = { s with store := t.store, codec := t.codec, evPend := t.evPend, msix := t.msix }) ∧
    (∀ clip, strClipFor s k.val = some clip → bitOf (strReg s k.val Off.NVME_STR_CFG) 12 = false →
      (strReg s k.val Off.NVME_STR_SEEK_LO).toNat + fld (strReg s k.val Off.NVME_STR_SEEK_HI) 0 14 * 2 ^ 32 < clip.len →
      ∃ t, exec c s = .next t ∧ (strAt t k.val).st = 1 ∧ (strAt t k.val).err = 0 ∧ (strAt t k.val).mask = clip.mask ∧
        (strAt t k.val).len = clip.len ∧ (strAt t k.val).proms = 0 ∧ 2 ≤ fld (strAt t k.val).cfg 16 5 ∧ (strAt t k.val).chunks ≠ [] ∧
        (∀ j, j ≠ k.val → strAt t j = strAt s j) ∧
        t = { s with store := t.store, trim := { s.trim with ckpt := t.trim.ckpt }, codec := t.codec, msix := t.msix })) ∧
  (∀ (k : Fin 32) (s : State), pageUp s .nvme = true →
    (∃ t, exec (.strStop k) s = .next t ∧ (strAt t k.val).st = 0 ∧ (strAt t k.val).chunks = [] ∧ (strAt t k.val).next = none ∧
      (strAt t k.val).slot = none ∧ (∀ j, j ≠ k.val → (strAt t j).st = (strAt s j).st ∧ (strAt t j).proms = (strAt s j).proms) ∧
      t = { s with store := t.store, trim := { s.trim with ckpt := t.trim.ckpt }, codec := t.codec, layr := t.layr, msix := t.msix }) ∧
    (∀ x rest, (strAt s k.val).chunks = x :: rest → x.prom = true → strDecodes (strAt s k.val) = false → (strAt s k.val).st = 1 →
      (∃ y ∈ rest, y.prom = false) →
      ∃ t more, exec (.strConsume k) s = .next t ∧ (strAt t k.val).chunks.map (fun y => y.pos) = rest.map (fun y => y.pos) ++ more ∧
        (strAt t k.val).st = 1 ∧ (∀ j, j ≠ k.val → (strAt t j).st = (strAt s j).st ∧ (strAt t j).proms = (strAt s j).proms) ∧
        t = { s with store := t.store, trim := { s.trim with ckpt := t.trim.ckpt }, msix := t.msix })) ∧
  (∀ (d : Fin 4) (c : Instr) (op : Nat) (s : State), pageUp s .nvme = true → islandRuns s islHost = true → s.store.req = none →
    s.store.streams = [] → s.store.cmds = [] → s.trim.ckpt = none →
    ((c = .nvmeReqRead d ∧ op = 0) ∨ (c = .nvmeReqWrite d ∧ op = 1) ∨ (c = .nvmeReqFlush d ∧ op = 2)) → (drvAt s d.val).st = 2 →
    let lba := (reg s .nvme Off.NVME_REQ_LBA_LO).toNat + regF s .nvme Off.NVME_REQ_LBA_HI 0 16 * 2 ^ 32
    let n := regF s .nvme Off.NVME_REQ_CNT 0 16
    let a := addrPair s .nvme Off.NVME_REQ_HBM_LO Off.NVME_REQ_HBM_HI
    (op < 2 → n ≠ 0 ∧ lba + n ≤ (drvAt s d.val).cap ∧ a + n * 2 ^ (drvAt s d.val).lbaLog2 ≤ hbmBytes s ∧ a % 4 = 0) →
    ∃ t q, exec c s = .next t ∧ t.store.req = some q ∧ q.op = op ∧ q.drive = d.val ∧ q.status = 0 ∧
      (hlpRun s 16 = true → ∃ x, cmdAt t (d.val * 256) = some x ∧ x.who = 32 ∧ (x.write = decide (op = 1)) ∧ (x.flush = decide (op = 2)) ∧
        (op < 2 → x.lba = lba ∧ x.addr = a)) ∧
      t = { s with store := t.store, msix := t.msix }) ∧
  (∀ (q : NvmeReq) (s : State), pageUp s .nvme = true → s.store.req = some q → q.todo = [] → q.out = 0 →
    ∃ t, exec .nvmeReqDone s = .next t ∧ t.store = { s.store with req := none, reqStatus := q.status, reqField := q.field } ∧
      evPend t .nvme = putBit (evPend s .nvme) 11 true ∧ t = { s with store := t.store, evPend := t.evPend, msix := t.msix })

/-! ## Firmware: start, recovery, helpers, handover, campaigns and records (spec/21_firmware_and_update.md, spec/16, spec/23) -/

/-- R472, R473, R568, R570: how the firmware starts. The ROM starts the image of the active slot where it is valid, else waits for
recovery; recovery enters on its key, takes an image word by word, checks it, and runs it or fails; migration writes SDN and starts the
CTL helpers. -/
def Obligations.FirmwareStart : Prop :=
  (∀ s : State, s.pins.strapped = false → s.pins.porst = true → s.pins.tripped = false → (island s 1).st = .reset →
    (nvBest s nvBootA nvBootB 0x13 = none →
      ∃ t, exec .bootRom s = .next t ∧ t.recov = ⟨1, [], false⟩ ∧ t.cpm.up = s.cpm.up ∧ (island t 1).st = .reset ∧ t.pins.strapped = true) ∧
    (∀ b r, nvBest s nvBootA nvBootB 0x13 = some b → nvGet s (nvCp (leAt b.payload 0 1 % 2)) 0x14 = some r →
      ∃ t, exec .bootRom s = .next t ∧ t.pins.strapped = true ∧
        (cpDetail (readPolicy s) r.payload = 0 → t.cpm.up = true ∧ t.cpm.migrated = false ∧ t.cpm.ver = imgVersion r.payload ∧
          t.cpm.svn = imgSvn r.payload ∧ (island t 1).st = .run ∧ (island t 1).imgVer = imgVersion r.payload ∧ t.recov = s.recov) ∧
        (cpDetail (readPolicy s) r.payload ≠ 0 → t.recov = ⟨1, [], false⟩ ∧ t.cpm.up = s.cpm.up ∧ (island t 1).st = .reset))) ∧
  (∀ (key : BitVec 16) (s : State), pageUp s .pcie = true →
    (key = 0x5AFE → (s.recov.st = 0 ∨ s.recov.st = 1 ∨ s.recov.st = 3) →
      ∃ t, exec (.recEnter key) s = .next t ∧ t.recov = ⟨1, [], false⟩ ∧
        ((island s 1).st = .reset ∨ islandUp s 1 = false → (island t 1).st = .reset) ∧
        (islandUp s 1 = true → (island t 1).target = some .reset ∧ t.cpm.up = false) ∧
        fld (reg t .pcie Off.PCIE_REC_LEN) 0 23 = 0 ∧ bitOf (evRaw t .pcie) 5 = true) ∧
    (key ≠ 0x5AFE ∨ s.recov.st = 2 ∨ s.recov.st = 4 → ∃ t, exec (.recEnter key) s = .next t ∧ t = { s with msix := t.msix })) ∧
  (∀ (src : Bool) (s : State), pageUp s .pcie = true → (s.recov.st = 1 ∨ s.recov.st = 3) →
    ∃ t, exec (.recGo src) s = .next t ∧ t.recov = { s.recov with st := 2, src := src } ∧ bitOf (evRaw t .pcie) 5 = false ∧
      t = { s with recov := t.recov, evRaw := t.evRaw, msix := t.msix }) ∧
  (∀ (v : Word) (s : State), pageUp s .pcie = true → s.recov.st = 1 →
    regF s .pcie Off.PCIE_REC_LEN 0 23 + 4 ≤ 2 ^ 21 + 4096 →
    ∃ t, exec (.recDataWrite v) s = .next t ∧ regF t .pcie Off.PCIE_REC_LEN 0 23 = regF s .pcie Off.PCIE_REC_LEN 0 23 + 4 ∧
      (∀ k, k < 4 → mapGet (fun _ => 0) t.recov.image (regF s .pcie Off.PCIE_REC_LEN 0 23 + k) = BitVec.ofNat 8 (v.toNat / 256 ^ k)) ∧
      (∀ k, (k < regF s .pcie Off.PCIE_REC_LEN 0 23 ∨ regF s .pcie Off.PCIE_REC_LEN 0 23 + 4 ≤ k) →
        mapGet (fun _ => 0) t.recov.image k = mapGet (fun _ => 0) s.recov.image k) ∧
      t = { s with recov := t.recov, regs := t.regs, msix := t.msix }) ∧
  (∀ s : State, s.recov.st = 2 → pageUp s .pcie = true →
    (∀ img, recImage s = some img →
      ∃ t, exec .recCheckDone s = .next t ∧ t.recov = { s.recov with st := if cpDetail s img = 0 then 4 else 3 } ∧
        evPend t .pcie = (if cpDetail s img = 0 then evPend s .pcie else putBit (evPend s .pcie) 6 true) ∧
        t = { s with recov := t.recov, evPend := t.evPend, msix := t.msix }) ∧
    (recImage s = none →
      ∃ t, exec .recCheckDone s = .next t ∧ t.recov = { s.recov with st := 3 } ∧ evPend t .pcie = putBit (evPend s .pcie) 6 true ∧
        t = { s with recov := t.recov, evPend := t.evPend, msix := t.msix })) ∧
  (∀ (img : List Byte) (s : State), s.recov.st = 4 → (island s 1).st = .reset → recImage s = some img →
    ∃ t, exec .recImageStarted s = .next t ∧ t.recov = Recovery.initial ∧ t.cpm.up = true ∧ t.cpm.ver = imgVersion img ∧
      t.cpm.svn = imgSvn img ∧ (island t 1).st = .run ∧ (island t 1).imgVer = imgVersion img) ∧
  (∀ s : State, s.cpm.up = true → s.cpm.migrated = false → s.cpm.req = none → s.cpm.late = none →
    ∃ t, exec .settingsMigration s = .next t ∧ t.cpm.migrated = true ∧ t.cpm.settings = s.cpm.settings ∧
      (∀ h, h ∈ ctlHelpers → (hlpAt s h).st = 1 → (hlpAt t h).st = 3) ∧
      reg t .sync Off.SYNC_SDN = word ((s.cpm.settings.getD 5 0).toNat &&& 0x8003FFFF))

/-- R551, R552, R571, R572: helpers and the handover. A helper whose watchdog expires restarts; one whose self-check ends enters RUN
with its image, or is DEAD. A handover loads and verifies its image, checks its shadow, switches, and ends its probation; the control
processor whose watchdog expires after a switch goes to DEAD. R554, R574, R576: the load sequence takes the island that it has reached
to IDLE, and goes on where the island's kind has no image; at T a campaign fails the entries whose island is not IDLE and puts the
others through UPDATE; the lifetime counts are appended as the record after the highest. -/
def Obligations.HelpersAndSequences : Prop :=
  ((∀ (h : Fin 23) (s : State), hlpRun s h.val = true → pageUp s .cpm = true →
     ∃ t, exec (.helperWatchdogExpiry h) s = .next t ∧ hlpAt t h.val = ⟨3, (hlpAt s h.val).ver, true⟩ ∧ bitOf (evPend t .cpm) 3 = true ∧
       (∀ k, k ≠ h.val → hlpAt t k = hlpAt s k) ∧
       ((h.val < 16 ∨ h.val = 17 ∨ h.val = 20 ∨ h.val = 21) → t = { s with cpm := t.cpm, evPend := t.evPend, evRaw := t.evRaw, msix := t.msix })) ∧
   (∀ (h : Fin 23) (s : State), (hlpAt s h.val).st = 4 → s.cpm.entries = [] → s.cpm.rspHelper = none →
     (∀ img, hlpImage s h.val = some img →
       ∃ t, exec (.helperSelfCheckEnd h true) s = .next t ∧
         hlpAt t h.val = (if img.2 then ⟨3, img.1, true⟩ else { hlpAt s h.val with st := 5 }) ∧
         (∀ k, k ≠ h.val → hlpAt t k = hlpAt s k)) ∧
     (∃ t, exec (.helperSelfCheckEnd h false) s = .next t ∧ hlpAt t h.val = { hlpAt s h.val with st := 5 } ∧
       (pageUp s .cpm = true → bitOf (evRaw t .cpm) 2 = true) ∧ (∀ k, k ≠ h.val → hlpAt t k = hlpAt s k) ∧
       t = { s with cpm := t.cpm, evPend := t.evPend, evRaw := t.evRaw, msix := t.msix })) ∧
   (∀ (img : List Byte) (s : State), s.cpm.ho = 1 → hoImage s = some img → pageUp s .cpm = true →
     ∃ t, exec .handoverLoadDone s = .next t ∧
       t.cpm = (if cpDetail s img = 0 then { s.cpm with ho := 2, hoVer := imgVersion img, hoSvn := imgSvn img }
         else { s.cpm with ho := 0, hoInfo := cpDetail s img }) ∧
       (cpDetail s img ≠ 0 → bitOf (evPend t .sec) 0 = true ∧ bitOf (evPend t .cpm) 5 = true) ∧
       (cpDetail s img = 0 → t.evPend = s.evPend) ∧ t = { s with cpm := t.cpm, evPend := t.evPend, msix := t.msix }) ∧
   (∀ s : State, s.cpm.ho = 2 →
     (∃ t, exec (.handoverShadowDone true) s = .next t ∧ t.cpm = { s.cpm with ho := 3 } ∧ t = { s with cpm := t.cpm, msix := t.msix }) ∧
     (pageUp s .cpm = true → ∃ t, exec (.handoverShadowDone false) s = .next t ∧ t.cpm = { s.cpm with ho := 0, hoInfo := 10 } ∧
       evPend t .cpm = putBit (evPend s .cpm) 5 true ∧ t = { s with cpm := t.cpm, evPend := t.evPend, msix := t.msix })) ∧
   (∀ s : State, s.cpm.ho = 3 → s.cpm.req = none → s.cpm.late = none →
     ∃ t, exec .handoverSwitchDone s = .next t ∧
       t.cpm = { s.cpm with ho := 4, ver := s.cpm.hoVer, svn := s.cpm.hoSvn, half := !s.cpm.half, switched := true } ∧
       (∀ k, island t k = if k = 1 then { island s k with imgVer := s.cpm.hoVer } else island s k) ∧
       t = { s with cpm := t.cpm, isl := t.isl, msix := t.msix }) ∧
   (∀ s : State, s.cpm.ho = 4 → pageUp s .cpm = true →
     ∃ t, exec .handoverProbationPass s = .next t ∧ t.cpm = { s.cpm with ho := 0 } ∧ evPend t .cpm = putBit (evPend s .cpm) 4 true ∧
       t = { s with cpm := t.cpm, evPend := t.evPend, msix := t.msix }) ∧
   (∀ s : State, s.cpm.up = true → s.cpm.switched = true → s.cpm.ho ≠ 3 → islandUp s 1 = true →
     ∃ t, exec .cpWatchdogExpiry s = .next t ∧ (island t 1).target = some .dead ∧ t.cpm = { s.cpm with up := false } ∧
       (∀ k, k ≠ 1 → island t k = island s k) ∧ t = { s with cpm := t.cpm, isl := t.isl, evPend := t.evPend, msix := t.msix })) ∧
  ((∀ (i k : Nat) (s : State), s.cpm.auto = some i → i < autoOrder.length → k = autoOrder.getD i 0 → s.cpm.up = true →
     s.cpm.migrated = true → s.pins.tripped = false → islandPresent s.part k = true → (island s k).target = none →
     ((island s k).st = .reset →
       ∃ t, exec .autoLoadSequence s = .next t ∧ (island t k).target = some .idle ∧ (island t k).st = .reset ∧
         t = { s with isl := t.isl, msix := t.msix }) ∧
     ((island s k).st = .idle → (s.cpm.autoTried = true ∨ islImage s k = none) →
       ∃ t, exec .autoLoadSequence s = .next t ∧
         t.cpm = { s.cpm with auto := if i + 1 < autoOrder.length then some (i + 1) else none, autoTried := false } ∧
         t = { s with cpm := t.cpm, msix := t.msix })) ∧
   (∀ (e : CampEntry) (k : Nat) (s : State), s.cpm.camp = 1 → 0 ≤ sinceTime s s.cpm.campSec s.cpm.campNs → s.cpm.entries = [e] → e.st = 0 →
     e.going = false → fld (e.words.getD 0 0) 0 2 = 2 → k = fld (e.words.getD 0 0) 8 6 →
     ((island s k).st ≠ .idle → pageUp s .cpm = true →
       ∃ t, exec .campaignTimeT s = .next t ∧ t.cpm = { s.cpm with camp := 3, entries := [{ e with st := 2, code := 4 }] } ∧
         evPend t .cpm = putBit (evPend s .cpm) 6 true ∧ t = { s with cpm := t.cpm, evPend := t.evPend, msix := t.msix }) ∧
     ((island s k).st = .idle → (island s k).target = none → islandPresent s.part k = true → islFixed s k = false → hlpRun s 21 = true →
       (islImage s k).isSome = true → k < 44 →
       ∃ t, exec .campaignTimeT s = .next t ∧ t.cpm = { s.cpm with camp := 2, entries := [{ e with going := true }] } ∧
         (island t k).target = some .update ∧ t = { s with cpm := t.cpm, isl := t.isl, evPend := t.evPend, msix := t.msix })) ∧
   (∀ s : State, s.cpm.up = true →
     (let seq := nvNext (logBest s)
      ∃ t, exec (.lifetimeLogAppend true) s = .next t ∧
       nvAt t (nvLog (seq.toNat % 4096)) = ⟨0x12, 1, seq, leBytes 8 (onSeconds s) ++ leBytes 8 s.last.hotMs ++ leBytes 4 s.last.cycles ++
         leBytes 4 s.last.porsts⟩ ∧ t = { s with last := t.last, msix := t.msix }) ∧
     (pageUp s .cpm = true → ∃ t, exec (.lifetimeLogAppend false) s = .next t ∧ evPend t .cpm = putBit (evPend s .cpm) 7 true ∧
       t = { s with evPend := t.evPend, msix := t.msix })))

/-- R585, R580, R583, R588, R590 to R594: temperatures and the calibration of delay lines. A sample of the die sensors is kept, a failed
one is a fault, and a third sample running at or above the trip limit removes the power of every island but AON. An evaluation of the
governor moves each group's step as R584 says. A calibration pass runs, measures the slicer offsets of the
lanes that run, steps each line at a quiet moment, with its lanes' offsets, trims the loss-of-signal thresholds as it ends, and is saved. -/
def Obligations.ThermalAndCalibration : Prop :=
  (∀ (rs : List (Option (BitVec 16))) (i : Nat) (s : State), i ∈ dieSensors s →
    (∀ x, rs.getD i none = some x → -320 ≤ x.toInt → x.toInt ≤ 1200 →
      ∃ t, exec (.sensorSample rs) s = .next t ∧ sensor t i = ⟨32 * x.toInt, true, false⟩ ∧
        (s.pins.tripped = false → mapGet (fun _ => 0) s.therm.overs i = 2 → 256 * (s.cpm.policy.trip : Int) ≤ 32 * x.toInt →
          t.pins.tripped = true ∧ (∀ k, 0 < k → k < 44 → islState t k = .off) ∧ t.shutPulses = [] ∧ t.camPulses = [])) ∧
    ((rs.getD i none = none ∨ ∃ x, rs.getD i none = some x ∧ (x.toInt < -320 ∨ 1200 < x.toInt)) →
      ∃ t, exec (.sensorSample rs) s = .next t ∧ sensor t i = { sensor s i with fault := true })) ∧
  (∀ s : State, ∃ t, exec .riseHoldExpiry s = .next t ∧
    t.therm = (if s.therm.rising then s.therm else { s.therm with hold := false }) ∧ t = { s with therm := t.therm, msix := t.msix }) ∧
  (∀ s : State, hlpRun s 20 = true →
    ∃ t, exec .governorTick s = .next t ∧ (∀ g, g < groupCount s.part → govStep t g = govNext s g) ∧
      (pageUp s .thrm = true → (∃ g, g < groupCount s.part ∧ govStep s g ≠ govNext s g) → bitOf (evPend t .thrm) 2 = true) ∧
      t = { s with therm := t.therm, evPend := t.evPend, evRaw := t.evRaw, msix := t.msix }) ∧
  (∀ (c : Instr) (s : State), (c = .calPeriodTimer ∨ c = .calRun) → pageUp s .cal = true → hlpRun s 19 = true →
    bitOf (force s .cal Off.CAL_CAL_CFG) 24 = true →
    ∃ t, exec c s = .next t ∧
      t.cal = (if s.cal.busy then { s.cal with again := true }
        else { s.cal with busy := true, again := false, stepped := 0, due := List.range 43, slicer := t.cal.slicer }) ∧
      (s.cal.busy = false → ∀ l, l < 272 →
        (laneRuns s l = true → (mapGet (fun _ => none) t.cal.slicer l).isSome = true) ∧
        (laneRuns s l = false → mapGet (fun _ => none) t.cal.slicer l = mapGet (fun _ => none) s.cal.slicer l)) ∧
      t = { s with cal := t.cal, free := t.free, msix := t.msix }) ∧
  (∀ s : State, pageUp s .cal = true → hlpRun s 19 = true →
    ∃ t, exec .calSave s = .next t ∧
      t.cal = (if s.cal.busy then { s.cal with saveWait := true } else { s.cal with saveBusy := true }) ∧ t = { s with cal := t.cal, msix := t.msix }) ∧
  (∀ s : State, pageUp s .cal = true → s.cal.saveBusy = true →
    (∃ t, exec (.calSaveDone true) s = .next t ∧ t.cal = { s.cal with saveBusy := false } ∧ bitOf (evPend t .cal) 3 = true ∧
      nvAt t (nvCal 0) = ⟨0x20, 1, nvNext (nvGet s (nvCal 0) 0x20), calRecord s⟩ ∧
      (nvAt t (nvCal 1)).type = 0x21 ∧ (nvAt t (nvCal 1)).payload.length = 544 ∧
      (∀ l, l < 272 → (nvAt t (nvCal 1)).payload.getD (2 * l) 0 = (laneSlicer s l).getD 0) ∧
      t = { s with cal := t.cal, last := t.last, free := t.free, evPend := t.evPend, msix := t.msix }) ∧
    (pageUp s .cpm = true → ∃ t, exec (.calSaveDone false) s = .next t ∧ t.cal = { s.cal with saveBusy := false } ∧
      bitOf (evPend t .cal) 4 = true ∧ bitOf (evPend t .cpm) 7 = true ∧ t = { s with cal := t.cal, evPend := t.evPend, msix := t.msix })) ∧
  (∀ s : State, pageUp s .cal = true → hlpRun s 19 = true → s.cal.busy = true → s.calDone = true → s.cal.again = false →
    ∃ t, exec .calPassDone s = .next t ∧ t.cal.busy = false ∧ t.cal.lines = s.cal.lines ∧
      (s.cal.saveWait = true → t.cal.saveBusy = true ∧ t.cal.saveWait = false) ∧ bitOf (evPend t .cal) 0 = true ∧
      reg t .cal Off.CAL_LAST_SEC = BitVec.ofNat 32 (stampSec (now16 s)) ∧
      (∀ p, p < 16 * groupCount s.part → islandUp s (islPgrp (p / 16)) = true → (ringAt t p).los.isSome = true) ∧
      (∀ p, ringAt t p = { ringAt s p with los := (ringAt t p).los }) ∧ t.net = { s.net with los := t.net.los } ∧
      t = { s with cal := t.cal, ring := t.ring, net := t.net, regs := t.regs, free := t.free, evPend := t.evPend, msix := t.msix }) ∧
  (∀ (k : Fin 43) (sum : Nat) (s : State), pageUp s .cal = true → s.cal.due.contains k.val = true →
    (hlpRun s 19 = true → calScale sum ≠ 0 → calQuiet s k.val = true →
      ∃ t, exec (.calStepApply k sum) s = .next t ∧ calLine t k.val = ⟨calScale sum, true, (sensor s (lineSensor k.val)).temp⟩ ∧
        t.cal.due.contains k.val = false ∧ (∀ j, j ≠ k.val → calLine t j = calLine s j) ∧
        (∀ l, l < 272 → laneSlicer t l =
          if 27 ≤ k.val ∧ ((l < 256 ∧ l / 16 = k.val - 27) ∨ l = 256 + (k.val - 27)) ∧ (mapGet (fun _ => none) s.cal.slicer l).isSome = true then
            mapGet (fun _ => none) s.cal.slicer l else laneSlicer s l) ∧
        (k.val < 27 → t.ring = s.ring ∧ t.net = s.net) ∧
        t = { s with cal := t.cal, ring := t.ring, net := t.net, evPend := t.evPend, msix := t.msix }) ∧
    (calQuiet s k.val = false → ∃ t, exec (.calStepApply k sum) s = .next t ∧ t = { s with msix := t.msix }) ∧
    (∃ t, exec (.calDeferTimeout k) s = .next t ∧ evPend t .cal = putBit (evPend s .cal) 2 true ∧ t.cal.deferred.contains k.val = true ∧
      t.cal = { s.cal with deferred := t.cal.deferred } ∧ t = { s with cal := t.cal, evPend := t.evPend, msix := t.msix }))

/-! ## The mailbox (spec/21_firmware_and_update.md R556 to R576, spec/08_ray_compositing.md R235, R236) -/

/-- R565: a request that no firmware can take yet is held, and one written while another is carried out is discarded; a response shows in
MB_RSP with MB_DONE; a request whose time runs out ends with status 8 and MB_TIMEOUT. The response words after word 0 are those of log 30.
R552, R565, R569, R571, R573 to R576: commands that firmware which is ready carries out, and that read no image: information, settings,
lifetime counts, the handover, a helper's update, the campaign. Each makes its response, status 0 and its words, and has its effect (words
after word 0: log 30). -/
def Obligations.Mailbox : Prop :=
  ((∀ (c : Instr) (op : Nat) (tag : BitVec 8) (s : State), pageUp s .cpm = true →
     ((c = .getInfo tag ∧ op = 1) ∨ (c = .settingsRead tag ∧ op = 0x20) ∨ (c = .lifetimeRead tag ∧ op = 0x31) ∨
       (c = .campaignStatus tag ∧ op = 0x41) ∨ (c = .campaignCancel tag ∧ op = 0x42)) →
     (s.cpm.busy = false → cpReady s = false →
       ∃ t ws, exec c s = .next t ∧ t.cpm = { s.cpm with busy := true, timedOut := false, tag := tag.toNat, rsp := none, rspHelper := none
                                                         req := some (ws, true) } ∧
         ws.getD 0 0 = word (op + tag.toNat * 2 ^ 24) ∧ t = { s with cpm := t.cpm, regs := t.regs, msix := t.msix }) ∧
     (s.cpm.busy = true → ∃ t, exec c s = .next t ∧ t = { s with regs := t.regs, msix := t.msix })) ∧
   (∀ (ws : List Word) (s : State), pageUp s .cpm = true → s.cpm.rsp = some ws → ws.length ≤ 64 →
     ∃ t, exec .mbResponse s = .next t ∧ t.cpm = { s.cpm with busy := false, rsp := none } ∧
       (∀ k, k < ws.length → reg t .cpm (Off.CPM_MB_RSP + 4 * k) = ws.getD k 0) ∧ evPend t .cpm = putBit (evPend s .cpm) 0 true ∧
       t.ens.next = none ∧ (s.ens.next = none → t.ens = s.ens) ∧
       t = { s with cpm := t.cpm, ens := t.ens, regs := t.regs, evPend := t.evPend, msix := t.msix }) ∧
   (∀ s : State, pageUp s .cpm = true → s.cpm.busy = true → s.cpm.rsp = none →
     ∃ t, exec .mbTimeout s = .next t ∧ t.cpm.busy = false ∧ t.cpm.timedOut = true ∧ t.cpm.req = none ∧
       reg t .cpm Off.CPM_MB_RSP = word (8 + s.cpm.tag * 2 ^ 24) ∧ evPend t .cpm = putBit (evPend s .cpm) 1 true ∧
       t = { s with cpm := t.cpm, regs := t.regs, evPend := t.evPend, msix := t.msix })) ∧
  (∀ (tag : BitVec 8) (s : State), pageUp s .cpm = true → s.cpm.busy = false → cpReady s = true →
     let base : Cpm := { s.cpm with busy := true, timedOut := false, tag := tag.toNat, rspHelper := none }
     let ans (ws : List Word) : Option (List Word) := some (word (ws.length * 2 ^ 8 + tag.toNat * 2 ^ 24) :: ws)
     (∀ (c : Instr) (ws : List Word),
       ((c = .getInfo tag ∧ ws = [s.cpm.ver, word (settingsVersion + b2n s.cpm.newer * 2 ^ 16), word s.cpm.svn
           , Config.deviceId.setWidth 32, (Config.deviceId >>> 32).setWidth 32]) ∨
        (c = .settingsRead tag ∧ ws = s.cpm.settings) ∨
        (c = .lifetimeRead tag ∧ ws = [word (onSeconds s), word (onSeconds s / 2 ^ 32), word s.last.hotMs, word (s.last.hotMs / 2 ^ 32)
           , word s.last.cycles, word s.last.porsts]) ∨
        (c = .campaignStatus tag ∧ ws = (List.range 32).map (fun i => ((s.cpm.entries[i]?).map campWord).getD 0))) →
       ∃ t, exec c s = .next t ∧ t.cpm = { base with rsp := ans ws } ∧ t = { s with cpm := t.cpm, regs := t.regs, msix := t.msix }) ∧
     (∀ p : List Word, let q := (p ++ List.replicate 8 0).take 8
       settingsOk q = true →
       ∃ t, exec (.settingsWrite p tag true) s = .next t ∧
         t.cpm = { base with settings := q, newer := false, rsp := ans [nvNext (nvBest s nvSetA nvSetB 0x10)] } ∧
         nvBest t nvSetA nvSetB 0x10 = some ⟨0x10, settingsVersion, nvNext (nvBest s nvSetA nvSetB 0x10), bytesOfWords q⟩ ∧
         t = { s with cpm := t.cpm, last := t.last, regs := t.regs, evRaw := t.evRaw, msix := t.msix }) ∧
     (∀ (p : List Word), settingsOk ((p ++ List.replicate 8 0).take 8) = false →
       ∃ t, exec (.settingsWrite p tag true) s = .next t ∧ t.cpm = { base with rsp := some [word (2 + tag.toNat * 2 ^ 24)] } ∧
         t = { s with cpm := t.cpm, regs := t.regs, msix := t.msix }) ∧
     (∀ nvm slot : Bool, s.cpm.ho = 0 →
       ∃ t, exec (.cpHandover nvm slot tag) s = .next t ∧
         t.cpm = { base with ho := 1, hoSrc := if nvm then b2n slot else 2, rsp := ans [] } ∧
         t = { s with cpm := t.cpm, regs := t.regs, msix := t.msix }) ∧
     (∀ h : Fin 32, hlpMayUpdate s h.val = true →
       ∃ t, exec (.helperUpdate h tag) s = .next t ∧ (hlpAt t h.val).st = 4 ∧ t.cpm.rspHelper = some h.val ∧ t.cpm.busy = true ∧
         t.cpm.rsp = none ∧ (∀ k, k ≠ h.val → hlpAt t k = hlpAt s k)) ∧
     (∀ (a : BitVec 35) (n ns sec : Word), s.ecc = [] → n ≠ 0 → n.toNat ≤ 32 → ns.toNat ≤ 999999999 → s.cpm.camp ≠ 1 → s.cpm.camp ≠ 2 →
       mbHbm s = true → hbmReadOk s a.toNat (16 * n.toNat) = true →
       ∃ t, exec (.campaignArm a n ns sec tag) s = .next t ∧ (t.cpm.camp = 1 ∨ t.cpm.camp = 3) ∧ t.cpm.campSec = sec.toNat ∧
         t.cpm.campNs = ns.toNat ∧ t.cpm.entries.map (fun e => e.words) = (List.range n.toNat).map (fun i => memWords s (a.toNat + 16 * i) 4) ∧
         t.cpm.rsp = ans [] ∧ t = { s with cpm := t.cpm, regs := t.regs, evPend := t.evPend, msix := t.msix }) ∧
     ((s.cpm.camp = 1 ∨ s.cpm.camp = 2) →
       ∃ t, exec (.campaignCancel tag) s = .next t ∧ t.cpm.camp = 3 ∧ t.cpm.rsp = ans [] ∧
         t.cpm.entries = s.cpm.entries.map (fun e => if e.st = 0 then { e with st := 2, code := 6 } else e) ∧
         bitOf (evPend t .cpm) 6 = true ∧ t = { s with cpm := t.cpm, regs := t.regs, evPend := t.evPend, msix := t.msix }))

/-- R235 to R237, R556, R559 to R561, R564, R566, R567: commands on images, blobs, reports and the Ensign, carried out by firmware that
is ready, HBM in RUN and its data readable. An image that verifies is staged, stored or cleared; one that does not answers status 4 and
raises VERIFY_FAIL. A command of the Ensign takes effect as its response appears. A signed command acts by its blob's kind, and the
nonce is then fresh. No injection is armed and no check bit is bad. The places of a blob's fields are those of logs 29 and 30. -/
def Obligations.MailboxImages : Prop :=
  ∀ (tag : BitVec 8) (s : State), pageUp s .cpm = true → s.cpm.busy = false → cpReady s = true → mbHbm s = true → s.ecc = [] →
    s.hbm.inj = none →
    let base : Cpm := { s.cpm with busy := true, timedOut := false, tag := tag.toNat, rspHelper := none }
    let ans (st : Nat) (ws : List Word) : Option (List Word) := some (word (st + ws.length * 2 ^ 8 + tag.toNat * 2 ^ 24) :: ws)
    (∀ (a : BitVec 35) (n : Word), n.toNat ≤ 2 ^ 21 + 4096 → hbmReadOk s a.toNat n.toNat = true →
      let img := memBytes s a.toNat n.toNat
      let ws : List Word := [word (imgDetail s img), word (imgClass img), word (imgTarget img), imgVersion img]
      ∃ t, exec (.imgStage a n tag) s = .next t ∧
        t.cpm = { base with staged := t.cpm.staged, rsp := ans (if imgDetail s img = 0 then 0 else 4) ws } ∧
        (imgDetail s img = 0 → imgClass img ≠ 4 →
          stagedAt t (imgClass img) (imgTarget img) = some ⟨a.toNat, n.toNat, imgDigest img, imgVersion img⟩) ∧
        (imgDetail s img ≠ 0 ∨ imgClass img = 4 → t.cpm.staged = s.cpm.staged) ∧
        evPend t .sec = (if imgDetail s img = 0 then evPend s .sec else putBit (evPend s .sec) 0 true) ∧
        t = { s with cpm := t.cpm, regs := t.regs, evPend := t.evPend, msix := t.msix }) ∧
    (∀ (cls : Fin 16) (target : BitVec 8) (boot : Bool) (g : Staged), (cls.val = 2 ∨ cls.val = 3) →
      imgTargetOk cls.val target.toNat = true → stagedAt s cls.val target.toNat = some g → hbmReadOk s g.addr g.len = true →
      let b := nvImageBanks cls.val target.toNat
      let seq := nvNext (nvBest s b.1 b.2 0x14)
      ∃ t, exec (.imgStore cls target boot tag true) s = .next t ∧
        (stagedWhole s g = true → nvBest t b.1 b.2 0x14 = some ⟨0x14, 1, seq, memBytes s g.addr g.len⟩ ∧ t.evPend = s.evPend) ∧
        (stagedWhole s g = false → evPend t .sec = putBit (evPend s .sec) 0 true ∧ t.last = s.last) ∧
        t.cpm = { base with rsp := if stagedWhole s g then ans 0 [seq] else ans 4 [7] } ∧
        t = { s with cpm := t.cpm, last := t.last, regs := t.regs, evPend := t.evPend, msix := t.msix }) ∧
    (∀ (cls : Fin 16) (target : BitVec 8), (1 ≤ cls.val ∧ cls.val ≤ 3) → imgTargetOk cls.val target.toNat = true →
      ∃ t, exec (.imgClear cls target tag) s = .next t ∧ stagedAt t cls.val target.toNat = none ∧
        t.cpm = { base with staged := t.cpm.staged, rsp := ans 0 [] } ∧ t = { s with cpm := t.cpm, regs := t.regs, msix := t.msix }) ∧
    (∀ (c : Instr) (kind : Nat) (a : BitVec 35) (n : Word), n.toNat ≤ 0x60 + 256 + 114 → hbmReadOk s a.toNat n.toNat = true →
      ((c = .policy a n tag true ∧ kind = 1) ∨ (c = .keyEnroll a n tag ∧ kind = 2) ∨ (c = .keyRevoke a n tag ∧ kind = 3) ∨
        (c = .svnAdvance a n tag ∧ kind = 4)) →
      let blob := memBytes s a.toNat n.toNat
      let body := blobBody blob
      ∃ t, exec c s = .next t ∧ t.cpm.nonce = s.free ∧
        (blobDetail s blob ≠ 0 → t.cpm = { base with nonce := s.free, rsp := ans 4 [word (blobDetail s blob)] } ∧ t.last = s.last ∧
          evPend t .sec = putBit (evPend s .sec) 0 true) ∧
        (blobDetail s blob = 0 → blobKind blob = kind →
          (kind = 1 → 9 ≤ blobLen blob → policyOk (policyOf body) = true → t.cpm.policy = policyOf body ∧ t.cpm.rsp = ans 0 [0] ∧
            (nvBest t nvPolA nvPolB 0x11).map (fun r => r.payload) = some blob) ∧
          (kind = 2 → 65 ≤ blobLen blob → leAt body 0 1 < 4 → keySlot s (leAt body 0 1) = none →
            keySlot t (leAt body 0 1) = some (slice body 1 64) ∧ t.cpm.rsp = ans 0 [0] ∧ bitOf (evPend t .sec) 1 = true ∧
            (∀ k, k ≠ leAt body 0 1 → keySlot t k = keySlot s k)) ∧
          (kind = 3 → leAt body 0 1 < 4 → (∃ j, j < 4 ∧ j ≠ leAt body 0 1 ∧ keyUsable s j = true) →
            keyUsable t (leAt body 0 1) = false ∧ t.cpm.rsp = ans 0 [0] ∧ bitOf (evPend t .sec) 1 = true ∧
            (∀ k, k ≠ leAt body 0 1 → keyUsable t k = keyUsable s k)) ∧
          (kind = 4 → 1 ≤ leAt body 0 1 → leAt body 0 1 ≤ 4 → leAt body 1 1 ≤ 32 →
            minSvn t (leAt body 0 1) = max (leAt body 1 1) (minSvn s (leAt body 0 1)) ∧ t.cpm.rsp = ans 0 [0] ∧
            (∀ k, k ≠ leAt body 0 1 → minSvn t k = minSvn s k))) ∧
        t = { s with cpm := t.cpm, last := t.last, regs := t.regs, evPend := t.evPend, free := t.free, msix := t.msix }) ∧
    (∀ (a : BitVec 35) (nonce : List Word), a.toNat % 64 = 0 → hbmOk s a.toNat 640 = true →
      ∃ t, exec (.attest a nonce tag) s = .next t ∧ memBytes t a.toNat 640 = attestReport s ((nonce ++ List.replicate 8 0).take 8) ∧
        t.cpm = { base with rsp := ans 0 [] } ∧ (∀ x, (x < a.toNat ∨ a.toNat + 640 ≤ x) → memByte t x = memByte s x) ∧
        t = { s with cpm := t.cpm, mem := t.mem, regs := t.regs, msix := t.msix }) ∧
    (∀ (g : Fin 16) (rings : List Word), let ws := word 0 :: word g.val :: (rings ++ List.replicate 16 0).take 16
      g.val < groupCount s.part → islandUp s islFab = true →
      (∀ r ∈ (rings ++ List.replicate 16 0).take 16, fld r 1 7 = 0 ∧ fld r 24 8 = 0 ∧ (bitOf r 0 = true → fld r 8 8 ≤ fld r 16 8 ∧ fld r 16 8 < 192)) →
      ensignLamps s g.val (ensignRings ws) ≤ 2097152 →
      ∃ t u, exec (.ensignRegion g rings tag) s = .next t ∧
        t.cpm = { base with rsp := ans 0 [word (ensignLamps s g.val (ensignRings ws))] } ∧ t.ens = { s.ens with next := t.ens.next } ∧
        t = { s with cpm := t.cpm, ens := t.ens, regs := t.regs, msix := t.msix } ∧ exec .mbResponse t = .next u ∧
        u.ens.group = some g.val ∧ u.ens.changed = true ∧ u.ens.palette = s.ens.palette ∧ u.ens.store = s.ens.store ∧
        (∀ i, i < 16 → mapGet (fun _ => none) u.ens.rings i = ((ensignRings ws).find? (fun x => decide (x.1 = i))).map (fun x => x.2))) ∧
    (∀ words : List Word, words.length = 32 → (∀ k, k < 16 → fld (words.getD (2 * k + 1) 0) 16 16 = 0) →
      ∃ t u, exec (.ensignPalette words tag) s = .next t ∧ t.cpm = { base with rsp := ans 0 [] } ∧ t.ens = { s.ens with next := t.ens.next } ∧
        t = { s with cpm := t.cpm, ens := t.ens, regs := t.regs, msix := t.msix } ∧ exec .mbResponse t = .next u ∧
        u.ens.group = s.ens.group ∧ u.ens.rings = s.ens.rings ∧ u.ens.changed = true ∧ u.ens.store = s.ens.store ∧
        (∀ k, k < 16 → mapGet (fun _ => 0) u.ens.palette k = (words.getD (2 * k) 0).toNat + fld (words.getD (2 * k + 1) 0) 0 16 * 2 ^ 32)) ∧
    (∀ (a : BitVec 35) (first lamps : Word), first.toNat % 2 = 0 → lamps.toNat % 2 = 0 → first.toNat + lamps.toNat ≤ 2097152 →
      hbmReadOk s a.toNat (lamps.toNat / 2) = true →
      ∃ t u, exec (.ensignLoad a first lamps tag) s = .next t ∧ t.cpm = { base with rsp := ans 0 [] } ∧ t.ens = { s.ens with next := t.ens.next } ∧
        t = { s with cpm := t.cpm, ens := t.ens, regs := t.regs, msix := t.msix } ∧ exec .mbResponse t = .next u ∧
        u.ens.group = s.ens.group ∧ u.ens.rings = s.ens.rings ∧ u.ens.palette = s.ens.palette ∧ u.ens.changed = true ∧
        (∀ i, mapGet (fun _ => 0) u.ens.store i = if first.toNat / 2 ≤ i ∧ i < first.toNat / 2 + lamps.toNat / 2 then
            memByte s (a.toNat + (i - first.toNat / 2)) else mapGet (fun _ => 0) s.ens.store i))

/-! ## Network, cameras, audio and the blitter (spec/17 to spec/20) -/

/-- R481, R482, R485, R490 to R492, R497, R498, R500 to R502: the network. A link comes up on an enabled port and goes down; a received
frame that no flow takes goes to the control processor with its stamp where it is PTP, one that finds the packet buffer full is dropped
with an event, and one that is too short, too long or not for the port's address changes nothing. A flow starts on the settings in force
with a membership report for each leg, or is refused with its code; it stops with the leaves, loses its signal, and sends its closed frame
READY or drops it. -/
def Obligations.NetworkFlows : Prop :=
  (∀ (n : Fin 16) (up align anDone : Bool) (fec : Fin 3) (s : State), pageUp s (.net n) = true →
    (up = true → forceF s (.net n) Off.NET_PORT_CFG 0 1 = 1) →
    ∃ t, exec (.netLinkChange n up align anDone fec) s = .next t ∧ portAt t n.val = ⟨up, align, anDone, fec.val⟩ ∧
      bitOf (evRaw t (.net n)) 0 = up ∧ ((portAt s n.val).link ≠ up → bitOf (evPend t (.net n)) 1 = true) ∧
      (∀ k, k ≠ n.val → portAt t k = portAt s k) ∧ t = { s with net := t.net, evPend := t.evPend, evRaw := t.evRaw, msix := t.msix }) ∧
  (∀ (n : Fin 16) (bytes : List Byte) (s : State),
    (pageUp s (.net n) = true → islState s islNet = .run → (portAt s n.val).link = true → 64 ≤ bytes.length →
      bytes.length ≤ forceF s (.net n) Off.NET_MTU 0 14 → ((ethOf bytes).dst = netMac s n.val ∨ (ethOf bytes).dst / 2 ^ 40 % 2 = 1) →
      (∃ t, exec (.netFrameRx n bytes true) s = .next t ∧ evPend t (.net n) = putBit (evPend s (.net n)) 2 true ∧
        t = { s with evPend := t.evPend, msix := t.msix }) ∧
      (flowFor s n.val (ethOf bytes) = none →
        ∃ t, exec (.netFrameRx n bytes false) s = .next t ∧
          t.net.toCtl = (if isPtp (ethOf bytes) then (n.val, some (rxStamp s n.val), bytes) :: s.net.toCtl
            else if forCtl s n.val (ethOf bytes) then (n.val, none, bytes) :: s.net.toCtl else s.net.toCtl) ∧
          t = { s with net := { s.net with toCtl := t.net.toCtl }, msix := t.msix }) ∧
      (∀ f a b r, flowFor s n.val (ethOf bytes) = some (f, a, b, r) →
        ∃ t, exec (.netFrameRx n bytes false) s = .next t ∧ (flowAt t f).legA = ((flowAt s f).legA || a) ∧
          (flowAt t f).legB = ((flowAt s f).legB || b) ∧ t.net.toCtl = s.net.toCtl ∧ (∀ k, k ≠ f → flowAt t k = flowAt s k))) ∧
    (∀ full : Bool, ((portAt s n.val).link = false ∨ bytes.length < 64 ∨ forceF s (.net n) Off.NET_MTU 0 14 < bytes.length ∨
        ((ethOf bytes).dst ≠ netMac s n.val ∧ (ethOf bytes).dst / 2 ^ 40 % 2 = 0)) →
      exec (.netFrameRx n bytes full) s = done s)) ∧
  (∀ (f : Fin 8) (s : State), pageUp s .flow = true →
    (islandRuns s islNet = true → (flowAt s f.val).st = 0 → flowStartCode s f.val = 0 → flKind s f.val = 1 →
      ∃ t, exec (.flowStart f) s = .next t ∧
        flowAt t f.val = { Flow.initial with st := 1, cfg := flowForce s f.val, lbuf := flowLbuf s f.val, seq := (flowAt s f.val).seq
                                             rtp := (flowAt s f.val).rtp, dropCause := (flowAt s f.val).dropCause
                                             run := (flowAt s f.val).run + 1 } ∧
        t.net.igmp = (if islState s islCtl = .run then ((flowLegs s f.val).map (fun l => (⟨l.1, l.2.1, l.2.2, true⟩ : Igmp))).reverse else [])
          ++ s.net.igmp ∧
        (∀ k, k ≠ f.val → flowAt t k = flowAt s k) ∧ t = { s with net := t.net, msix := t.msix }) ∧
    (∀ k, islandRuns s islNet = true → (flowAt s f.val).st = 0 → flowStartCode s f.val = 0 → flKind s f.val = 2 → freeSlot s = some k →
      ∃ t, exec (.flowStart f) s = .next t ∧
        flowAt t f.val = { Flow.initial with st := 1, cfg := flowForce s f.val, slot := some k, seq := (flowAt s f.val).seq
                                             rtp := (flowAt s f.val).rtp, dropCause := (flowAt s f.val).dropCause
                                             run := (flowAt s f.val).run + 1 } ∧
        stSlot t k = ⟨3, StreamSt.empty⟩ ∧ t = { s with net := t.net, codec := t.codec, msix := t.msix }) ∧
    (islandRuns s islNet = true → (flowAt s f.val).st = 0 → flowStartCode s f.val ≠ 0 →
      ∃ t, exec (.flowStart f) s = .next t ∧ flowAt t f.val = { flowAt s f.val with startErr := flowStartCode s f.val } ∧
        evPend t .flow = putBit (evPend s .flow) 7 true ∧ t = { s with net := t.net, evPend := t.evPend, msix := t.msix }) ∧
    ((islandRuns s islNet = false ∨ (flowAt s f.val).st ≠ 0) → exec (.flowStart f) s = done s) ∧
    ((flowAt s f.val).st = 0 → exec (.flowStop f) s = done s) ∧
    ((flowAt s f.val).st ≠ 0 →
      ∃ t, exec (.flowStop f) s = .next t ∧
        flowAt t f.val = { Flow.initial with seq := (flowAt s f.val).seq, rtp := (flowAt s f.val).rtp
                                             dropCause := (flowAt s f.val).dropCause, run := (flowAt s f.val).run + 1 } ∧
        (islState s islCtl = .run → islandUp s islNet = true →
          t.net.igmp = ((flowLegs s f.val).map (fun l => (⟨l.1, l.2.1, l.2.2, false⟩ : Igmp))).reverse ++ s.net.igmp) ∧
        bitOf (evRaw t .flow) (8 + f.val) = false ∧ (∀ k, k ≠ f.val → flowAt t k = flowAt s k) ∧
        t = { s with net := t.net, codec := t.codec, layr := t.layr, evRaw := t.evRaw, msix := t.msix }) ∧
    (∀ which : Fin 3, (flowAt s f.val).st ≠ 0 → flKind s f.val = 1 → (flowAt s f.val).frame = none →
      ∃ t, exec (.flowFrameTimeout f which) s = .next t ∧
        flowAt t f.val = (if which.val = 0 then { flowAt s f.val with signal := false, legA := false, legB := false }
          else if which.val = 1 then { flowAt s f.val with legA := false } else { flowAt s f.val with legB := false }) ∧
        (which.val = 0 → bitOf (evRaw t .flow) (8 + f.val) = false) ∧ t = { s with net := t.net, evRaw := t.evRaw, msix := t.msix }) ∧
    (∀ d rest, (flowAt s f.val).closing = d :: rest → ownedBy s d.buf ownNet f.val = true →
      (d.cause = 0 → (d.damaged = false ∨ flF s f.val Off.FLOW_FL_CFG 11 1 = 1) →
        ∃ t, exec (.flowFrameReady f) s = .next t ∧
          flowAt t f.val = { flowAt s f.val with closing := rest, seq := (flowAt s f.val).sent + 1, sent := (flowAt s f.val).sent + 1
                                                 rtp := d.ts } ∧
          bufAt t d.buf = { bufAt s d.buf with st := 2, seq := (flowAt s f.val).sent + 1 } ∧ bitOf (evPend t .flow) 0 = true ∧
          (d.damaged = true → bitOf (evPend t .flow) 1 = true) ∧
          t = { s with net := t.net, layr := t.layr, scal := t.scal, evPend := t.evPend, msix := t.msix }) ∧
      (d.cause ≠ 0 →
        ∃ t, exec (.flowFrameReady f) s = .next t ∧ flowAt t f.val = { flowAt s f.val with closing := rest, dropCause := d.cause } ∧
          bufAt t d.buf = Buf.initial ∧ evPend t .flow = putBit (evPend s .flow) 2 true ∧
          t = { s with net := t.net, layr := t.layr, evPend := t.evPend, msix := t.msix })))

/-- R503 to R506, R521, R522: a camera's frames. A Frame Start of the selected channel, without a trigger, numbers the frame after the
last and takes the registers as they stand; a good line is kept; a frame whose lines are all in closes OK, and one whose time is over
closes short; FR_SEQ captures the words beside it. R510 to R515, R519: triggers, settings sets and a camera's results. A trigger pulse is
numbered, queued and driven; a sequence run starts and stops; a set is armed, read, written entry by entry, and completes or fails with
its code; the statistics block and the measurement list of the oldest frame that waits are written. -/
def Obligations.Cameras : Prop :=
  ((∀ (c : Fin 4) (s : State), camRuns s c.val = true → islandRuns s islCam = true → trigMode s c.val = 0 →
     (camAt s c.val).frame = none → camF s c.val Off.CAM_TAP_CFG 0 1 = 0 →
     ∀ vc : Fin 4, camF s c.val Off.CAM_CSI_CFG 2 2 = vc.val →
     ∃ t f, exec (.csiFrameStart c vc) s = .next t ∧ (camAt t c.val).frame = some f ∧ (camAt t c.val).signal = true ∧
       (camAt t c.val).trigSeq = (camAt s c.val).trigSeq + 1 ∧ f.seq = (camAt s c.val).trigSeq + 1 ∧ f.discard = false ∧ f.lines = 0 ∧
       f.rows = [] ∧ f.stamp = now16 s ∧ f.regs = camSnap s c.val ∧ f.tap = none ∧ (∀ k, k ≠ c.val → camAt t k = camAt s k) ∧
       t = { s with cam := t.cam, evPend := t.evPend, evRaw := t.evRaw, msix := t.msix }) ∧
   (∀ (c : Fin 4) (f : CamFrame) (s : State), camRuns s c.val = true → (camAt s c.val).frame = some f → f.discard = false → f.tap = none →
     let rd := cfRead c.val f
     (∀ (vc : Fin 4) (dt : Fin 64) (raw : List (BitVec 16)) (full : Bool), cfF rd Off.CAM_CSI_CFG 2 2 = vc.val → cfF rd Off.CAM_CSI_CFG 4 6 = dt.val →
       f.lines < cfH rd → cfW rd ≤ raw.length → f.flags.testBit 3 = false →
       ∃ t g, exec (.csiLine c vc dt raw true true full) s = .next t ∧ (camAt t c.val).frame = some g ∧ g.lines = f.lines + 1 ∧
         g.flags = f.flags ∧
         g.rows = (List.range (cfW rd)).map (fun x => ((raw.map (fun v => v.toNat)).getD x 0) % 2 ^ ((dtDepth dt.val).getD 16)
           * 2 ^ (16 - (dtDepth dt.val).getD 16)) :: f.rows ∧
         t = { s with cam := t.cam, msix := t.msix }) ∧
     (∀ vc : Fin 4, cfF rd Off.CAM_CSI_CFG 2 2 = vc.val → cfH rd ≤ f.lines → f.flags.testBit 2 = false →
       ∃ t, exec (.csiFrameEnd c vc) s = .next t ∧ (camAt t c.val).frame = none ∧ bitOf (evPend t (.cam c)) 0 = true ∧
         reg t (.cam c) Off.CAM_FR_SEQ = f.seq ∧ reg t (.cam c) Off.CAM_FR_SET = BitVec.ofNat 32 f.setId ∧
         (camValid f.flags = true → bitOf (reg t (.cam c) Off.CAM_FR_FLAGS) 0 = true) ∧
         t = { s with cam := t.cam, regs := t.regs, evPend := t.evPend, evRaw := t.evRaw, msix := t.msix }) ∧
     (∃ t, exec (.camFrameTimeout c) s = .next t ∧ (camAt t c.val).frame = none ∧ bitOf (evPend t (.cam c)) 1 = true ∧
       reg t (.cam c) Off.CAM_FR_SEQ = f.seq ∧ bitOf (reg t (.cam c) Off.CAM_FR_FLAGS) 1 = true ∧
       t = { s with cam := t.cam, regs := t.regs, evPend := t.evPend, evRaw := t.evRaw, msix := t.msix })) ∧
   (∀ (c : Fin 4) (s : State), pageUp s (.cam c) = true →
     (∃ t, exec (.camFrSeqRead c) s = .next t ∧ t.lastRead = reg s (.cam c) Off.CAM_FR_SEQ ∧
       mapGet (fun _ => none) t.captures (regKey (.cam c) Off.CAM_FR_FLAGS 0) = some (reg s (.cam c) Off.CAM_FR_FLAGS) ∧
       mapGet (fun _ => none) t.captures (regKey (.cam c) Off.CAM_FR_SET 0) = some (reg s (.cam c) Off.CAM_FR_SET) ∧
       t = { s with captures := t.captures, lastRead := t.lastRead, msix := t.msix }) ∧
     (∀ signal ulps : Bool, ∃ t, exec (.csiLaneSignalChange c signal ulps) s = .next t ∧
       camAt t c.val = { camAt s c.val with signal := signal, ulps := ulps } ∧ bitOf (evRaw t (.cam c)) 17 = (signal || (camAt s c.val).frame.isSome) ∧
       t = { s with cam := t.cam, evPend := t.evPend, evRaw := t.evRaw, msix := t.msix }))) ∧
  ((∀ (c k : Fin 4) (frame : Word) (p : FramePlan) (s : State), camRuns s c.val = true → islandRuns s islCam = true →
     trigMode s c.val = 1 →
     planOf (tgen s (camF s c.val Off.CAM_TRIG_CFG 2 4)) frame = some p →
     ((tgen s (camF s c.val Off.CAM_TRIG_CFG 2 4)).gen = .run ∨ (tgen s (camF s c.val Off.CAM_TRIG_CFG 2 4)).gen = .slack) →
     k.val < p.phases → bitOf (force s (.cam c) Off.CAM_TRIG_CFG) (6 + k.val) = true →
     frame.toNat % (camF s c.val Off.CAM_TRIG_CFG 16 8 + 1) = 0 → s.camPulses = [] → (camAt s c.val).queue.length < 4 →
     ∃ t t0, exec (.camTrigger c k frame) s = .next t ∧
       t0 = p.latch + (phaseOfs p k.val : Rat) + ((signed 32 (force s (.cam c) Off.CAM_TRIG_DLY).toNat : Int) : Rat) ∧
       t.camPulses = [(c.val, t0, t0 + (camF s c.val Off.CAM_TRIG_WID 0 24 : Rat), decide (camF s c.val Off.CAM_TRIG_CFG 10 1 = 0))] ∧
       (camAt t c.val).trigSeq = (camAt s c.val).trigSeq + 1 ∧
       (camAt t c.val).queue = (camAt s c.val).queue ++ [((camAt s c.val).trigSeq + 1, (t0 * 2 ^ 32).floor.toNat)] ∧
       (∀ j, j ≠ c.val → camAt t j = camAt s j) ∧ t = { s with cam := t.cam, camPulses := t.camPulses, evPend := t.evPend, msix := t.msix }) ∧
   (∀ (c : Fin 4) (s : State), pageUp s (.cam c) = true →
     (camRuns s c.val = true → trigMode s c.val = 2 →
       ∃ t, exec (.trigStart c) s = .next t ∧
         camAt t c.val = { camAt s c.val with seqRun := some (s.time.now, camF s c.val Off.CAM_TRIG_COUNT 0 16) } ∧
         t = { s with cam := t.cam, msix := t.msix }) ∧
     (∃ t, exec (.trigStop c) s = .next t ∧ camAt t c.val = { camAt s c.val with seqRun := none } ∧ t = { s with cam := t.cam, msix := t.msix }) ∧
     (∀ next : Bool, ∃ t, exec (.setArm c next) s = .next t ∧
       camAt t c.val = { camAt s c.val with queued := some ⟨if next then (camAt s c.val).trigSeq + 1 else reg s (.cam c) Off.CAM_SET_TRIG
         , addrPair s (.cam c) Off.CAM_SET_ADDR_LO Off.CAM_SET_ADDR_HI, 0, [], 0, 0⟩ } ∧
       ((camAt s c.val).queued.isSome = true → bitOf (evPend t (.cam c)) 12 = true) ∧
       t = { s with cam := t.cam, evPend := t.evPend, msix := t.msix }) ∧
     (∀ w : CamSet, islandRuns s islCam = true → s.ecc = [] → hlpRun s 22 = true → (camAt s c.val).queued = some w → (camAt s c.val).writing = none →
       frameGe (camAt s c.val).trigSeq (w.target - 1) = true → w.addr % 8 = 0 → hbmReadOk s w.addr 8 = true →
       (memByte s (w.addr + 2)).toNat = 1 → (∀ i, i < 5 → memByte s (w.addr + 3 + i) = 0) → hbmReadOk s (w.addr + 8) 8 = true →
       setEntryOk (memBytes s (w.addr + 8) 8) = true →
       ∃ t, exec (.setWriteStart c) s = .next t ∧ (camAt t c.val).queued = none ∧
         (camAt t c.val).writing = some { w with id := leVal [memByte s w.addr, memByte s (w.addr + 1)], todo := [memBytes s (w.addr + 8) 8]
                                                 bad := 0, started := s.time.now } ∧ t = { s with cam := t.cam, msix := t.msix }) ∧
     (∀ w : CamSet, (camAt s c.val).writing = some w →
       (∀ e rest, w.bad = 0 → w.todo = e :: rest →
         ∃ t, exec (.i2cTransaction c false) s = .next t ∧ (camAt t c.val).writing = some { w with todo := rest } ∧
           (camAt t c.val).i2c = ((e.getD 0 0).toNat, 1 + (e.getD 1 0).toNat % 2, leVal ((e.drop 2).take 2)
             , (e.drop 4).take ((e.getD 1 0).toNat / 2)) :: (camAt s c.val).i2c ∧ t = { s with cam := t.cam, msix := t.msix }) ∧
       (∀ (i : Instr) (code : Nat), ((i = .i2cTransaction c true ∧ w.bad = 0 ∧ w.todo ≠ [] ∧ code = 1) ∨
           (i = .i2cTransaction c false ∧ w.bad ≠ 0 ∧ code = w.bad) ∨ (i = .i2cBusStuckTimeout c ∧ code = 2)) →
         ∃ t, exec i s = .next t ∧ (camAt t c.val).writing = none ∧ (camAt t c.val).failCode = code ∧
           evPend t (.cam c) = putBit (evPend s (.cam c)) 10 true ∧ t = { s with cam := t.cam, evPend := t.evPend, msix := t.msix }) ∧
       (w.bad = 0 → w.todo = [] →
         ∃ t, exec (.setComplete c) s = .next t ∧ (camAt t c.val).writing = none ∧ (camAt t c.val).setId = w.id ∧
           bitOf (evPend t (.cam c)) 9 = true ∧ t = { s with cam := t.cam, evPend := t.evPend, msix := t.msix })) ∧
     (∀ f rest, s.ecc = [] → s.hbm.inj = none → (camAt s c.val).statsQ = f :: rest →
       let rd := cfRead c.val f
       let a := (rd Off.CAM_STATS_LO).toNat + cfF rd Off.CAM_STATS_HI 0 3 * 2 ^ 32 + f.seq.toNat % 2 ^ cfF rd Off.CAM_STATS_CFG 24 3 * 69888
       hbmOk s a 69888 = true →
       ∃ t, exec (.statsWritten c) s = .next t ∧ camAt t c.val = { camAt s c.val with statsQ := rest } ∧
         memWord t a = f.seq ∧ memWord t (a + 4) = BitVec.ofNat 32 f.setId ∧ memWord t (a + 8) = BitVec.ofNat 32 f.flags ∧
         (∀ x, (x < a ∨ a + 69888 ≤ x) → memByte t x = memByte s x) ∧ evPend t (.cam c) = putBit (evPend s (.cam c)) 13 true ∧
         t = { s with cam := t.cam, mem := t.mem, evPend := t.evPend, msix := t.msix }) ∧
     (∀ f rest, s.ecc = [] → s.hbm.inj = none → (camAt s c.val).spotQ = f :: rest →
       let rd := cfRead c.val f
       let a := (rd Off.CAM_SPOT_IN_LO).toNat + cfF rd Off.CAM_SPOT_IN_HI 0 3 * 2 ^ 32
       let o := (rd Off.CAM_SPOT_OUT_LO).toNat + cfF rd Off.CAM_SPOT_OUT_HI 0 3 * 2 ^ 32
       let n := spotCount rd
       hbmReadOk s a (12 * n) = true → hbmOk s o (12 * n) = true →
       ∃ t, exec (.spotListDone c) s = .next t ∧ camAt t c.val = { camAt s c.val with spotQ := rest } ∧
         (∀ i, i < n → memWord t (o + 12 * i) = BitVec.ofNat 32 (fld (memWord s (a + 12 * i)) 0 24)) ∧
         (∀ x, (x < o ∨ o + 12 * n ≤ x) → memByte t x = memByte s x) ∧ bitOf (evPend t (.cam c)) 14 = true ∧
         t = { s with cam := t.cam, mem := t.mem, evPend := t.evPend, msix := t.msix })))

/-- R538, R541, R542, R545 to R547: the blitter. An operation is taken with a snapshot of its registers while none runs, and refused
while one does; as it completes, or is aborted, it runs no more, IDLE holds, STAT shows the result and the rows drawn, and its event is
raised. Of a fill of one row, with no injection armed and no check bit bad, bytes outside the rectangle are unchanged. -/
def Obligations.Blitter : Prop :=
  (∀ (c : Instr) (op : Nat) (s : State), pageUp s .blit = true → islandRuns s islMedia = true →
    ((c = .blitFill ∧ op = 0) ∨ (c = .blitCopy ∧ op = 1) ∨ (c = .blitGlyph ∧ op = 2)) →
    (s.blit.run = none → regF s .blit Off.BLIT_OP 8 1 = 0 →
      ∃ t j, exec c s = .next t ∧ t.blit.run = some j ∧ j.entry = none ∧ (blitOp j.words none).op = op ∧ t.blit.rows = 0 ∧
        (∀ k, k ≠ 1 → k < 20 → j.words.getD k 0 = reg s .blit (0x100 + 4 * k)) ∧ bitOf (evRaw t .blit) 3 = false ∧
        t = { s with blit := t.blit, regs := t.regs, evRaw := t.evRaw, msix := t.msix }) ∧
    (s.blit.run.isSome = true →
      ∃ t, exec c s = .next t ∧ t.blit = s.blit ∧ evPend t .blit = putBit (evPend s .blit) 2 true ∧
        t = { s with regs := t.regs, evPend := t.evPend, msix := t.msix })) ∧
  (∀ (c : Instr) (j : BlitJob) (s : State), pageUp s .blit = true → s.blit.run = some j → (c = .blitComplete ∨ ∃ rows, c = .blitAbort rows) →
    ∃ t, exec c s = .next t ∧ t.blit.run = none ∧ bitOf (evRaw t .blit) 3 = true ∧
      bitOf (evPend t .blit) (if t.blit.result = 0 then 0 else 1) = true) ∧
  (∀ (j : BlitJob) (s : State), pageUp s .blit = true → s.blit.run = some j → j.entry = none → s.ecc = [] → s.hbm.inj = none →
    bitOf (bw j.words Off.BLIT_OP) 8 = false →
    (∀ c : Instr, j.res ≠ 0 → (c = .blitComplete ∨ ∃ rows, c = .blitAbort rows) →
      ∃ t, exec c s = .next t ∧ t.blit = ⟨none, j.res, 0⟩ ∧ bitOf (evPend t .blit) 1 = true ∧ bitOf (evRaw t .blit) 3 = true ∧
        t = { s with blit := t.blit, evPend := t.evPend, evRaw := t.evRaw, msix := t.msix }) ∧
    (let o := blitOp j.words none
     j.res = 0 → j.rows = 0 → o.op = 0 → o.bits = 8 → o.h = 1 → hbmReadOk s ((o.base + o.dy * o.pitch + o.dx) / 32 * 32) 32 = true →
     (o.base + o.dy * o.pitch + o.dx) % 32 + o.w ≤ 32 →
      (∃ t, exec .blitComplete s = .next t ∧ t.blit = ⟨none, 0, 1⟩ ∧ bitOf (evPend t .blit) 0 = true ∧
        (∀ a, memByte t a = if o.base + o.dy * o.pitch + o.dx ≤ a ∧ a < o.base + o.dy * o.pitch + o.dx + o.w then BitVec.ofNat 8 o.fg
          else memByte s a) ∧
        t = { s with blit := t.blit, mem := t.mem, evPend := t.evPend, evRaw := t.evRaw, msix := t.msix }) ∧
      (∃ t, exec (.blitAbort 0) s = .next t ∧ t.blit = ⟨none, 6, 0⟩ ∧ bitOf (evPend t .blit) 1 = true ∧
        t = { s with blit := t.blit, evPend := t.evPend, evRaw := t.evRaw, msix := t.msix })))
end

