-- ==== Sys2Proof/Laws/Map.lean ====
section
/-!
SUPPORT. Sparse maps: a read after a write, the canonical form that every write keeps, and what follows for HBM's bytes.
-/
namespace Sys2Proof.Machine

variable {α : Type} [DecidableEq α] (d : Nat → α)

omit [DecidableEq α] in
theorem mapGet_mapDrop (m : AMap α) (k k' : Nat) : mapGet d (mapDrop m k) k' = if k' = k then d k else mapGet d m k' := by
  induction m with
  | nil =>
    rw [mapDrop, List.filter_nil, mapGet]
    split
    · rename_i h; rw [h]
    · rfl
  | cons e m ih =>
    obtain ⟨j, u⟩ := e
    by_cases h : j = k
    · have hd : mapDrop ((j, u) :: m) k = mapDrop m k := by simp [mapDrop, h]
      rw [hd, ih, mapGet]
      split
      · rfl
      · rename_i h'; rw [if_neg (by omega)]
    · have hd : mapDrop ((j, u) :: m) k = (j, u) :: mapDrop m k := by simp [mapDrop, h]
      rw [hd, mapGet, mapGet, ih]
      by_cases e : j = k'
      · rw [if_pos e, if_pos e, if_neg (by omega)]
      · rw [if_neg e, if_neg e]

omit [DecidableEq α] in
theorem mapGet_mapIns (m : AMap α) (k k' : Nat) (v : α) (h : ∀ e ∈ m, e.1 ≠ k) :
    mapGet d (mapIns m k v) k' = if k' = k then v else mapGet d m k' := by
  induction m with
  | nil =>
    by_cases e : k' = k
    · simp [mapIns, mapGet, e]
    · simp [mapIns, mapGet, e, Ne.symm e]
  | cons x m ih =>
    obtain ⟨j, u⟩ := x
    have hj : j ≠ k := h (j, u) (List.mem_cons_self ..)
    have ih := ih (fun e he => h e (List.mem_cons_of_mem _ he))
    rw [mapIns]
    split
    · by_cases e : k' = k
      · simp [mapGet, e]
      · simp [mapGet, e, Ne.symm e]
    · simp only [mapGet, ih]
      by_cases e : k' = k
      · subst e; rw [if_neg hj, if_pos rfl, if_pos rfl]
      · simp only [if_neg e]

omit [DecidableEq α] in
theorem mapDrop_ne (m : AMap α) (k : Nat) : ∀ e ∈ mapDrop m k, e.1 ≠ k := by
  intro e he
  simpa [mapDrop] using (List.mem_filter.mp he).2

theorem mapSet_eq (m : AMap α) (k : Nat) (v : α) :
    mapSet d m k v = if v = d k then mapDrop m k else mapIns (mapDrop m k) k v := by
  cases m <;> rfl

/-- A read after a write gives the value written at the key written, and leaves every other key alone. -/
@[simp] theorem mapGet_mapSet (m : AMap α) (k k' : Nat) (v : α) :
    mapGet d (mapSet d m k v) k' = if k' = k then v else mapGet d m k' := by
  rw [mapSet_eq]
  split
  · rename_i h
    rw [mapGet_mapDrop]
    split
    · exact h.symm
    · rfl
  · rw [mapGet_mapIns d _ _ _ _ (mapDrop_ne m k), mapGet_mapDrop]
    split <;> rfl

omit [DecidableEq α] in
theorem mapDrop_mapIns (m : AMap α) (k : Nat) (v : α) : mapDrop (mapIns m k v) k = mapDrop m k := by
  induction m with
  | nil => simp [mapIns, mapDrop]
  | cons e m ih =>
    rw [mapIns]
    split
    · simp [mapDrop]
    · simp only [mapDrop, List.filter_cons] at ih ⊢
      rw [ih]

omit [DecidableEq α] in
theorem mapDrop_mapDrop (m : AMap α) (k : Nat) : mapDrop (mapDrop m k) k = mapDrop m k := by
  simp [mapDrop]

/-- The last write to a key decides. -/
@[simp] theorem mapSet_mapSet (m : AMap α) (k : Nat) (v w : α) : mapSet d (mapSet d m k v) k w = mapSet d m k w := by
  have h : mapDrop (mapSet d m k v) k = mapDrop m k := by
    rw [mapSet_eq]
    split
    · exact mapDrop_mapDrop m k
    · rw [mapDrop_mapIns, mapDrop_mapDrop]
  rw [mapSet_eq d (mapSet d m k v) k w, h, mapSet_eq d m k w]

/-! ## The canonical form -/

theorem mapWfFrom_mono {m : AMap α} {lo lo' : Nat} (h : lo' ≤ lo) (w : mapWfFrom d lo m = true) : mapWfFrom d lo' m = true := by
  cases m with
  | nil => rfl
  | cons e m =>
    obtain ⟨k, v⟩ := e
    simp only [mapWfFrom, Bool.and_eq_true, decide_eq_true_eq] at w ⊢
    exact ⟨⟨by omega, w.1.2⟩, w.2⟩

theorem mapDrop_wfFrom {m : AMap α} {lo : Nat} (k : Nat) (w : mapWfFrom d lo m = true) : mapWfFrom d lo (mapDrop m k) = true := by
  induction m generalizing lo with
  | nil => rfl
  | cons e m ih =>
    obtain ⟨j, u⟩ := e
    have w' := w
    simp only [mapWfFrom, Bool.and_eq_true, decide_eq_true_eq] at w'
    obtain ⟨⟨h1, h2⟩, h3⟩ := w'
    by_cases h : j = k
    · have hd : mapDrop ((j, u) :: m) k = mapDrop m k := by simp [mapDrop, h]
      rw [hd]
      exact mapWfFrom_mono d (by omega) (ih h3)
    · have hd : mapDrop ((j, u) :: m) k = (j, u) :: mapDrop m k := by simp [mapDrop, h]
      rw [hd]
      simp only [mapWfFrom, Bool.and_eq_true, decide_eq_true_eq]
      exact ⟨⟨h1, h2⟩, ih h3⟩

theorem mapIns_wfFrom {m : AMap α} {lo k : Nat} {v : α} (hv : v ≠ d k) (hk : lo ≤ k) (hn : ∀ e ∈ m, e.1 ≠ k)
    (w : mapWfFrom d lo m = true) : mapWfFrom d lo (mapIns m k v) = true := by
  induction m generalizing lo with
  | nil => simp [mapIns, mapWfFrom, hk, hv]
  | cons e m ih =>
    obtain ⟨j, u⟩ := e
    have hj : j ≠ k := hn (j, u) (List.mem_cons_self ..)
    simp only [mapWfFrom, Bool.and_eq_true, decide_eq_true_eq] at w
    obtain ⟨⟨h1, h2⟩, h3⟩ := w
    rw [mapIns]
    split
    · rename_i hlt
      dsimp only at hlt
      simp only [mapWfFrom, Bool.and_eq_true, decide_eq_true_eq]
      exact ⟨⟨hk, hv⟩, ⟨by omega, h2⟩, h3⟩
    · rename_i hlt
      dsimp only at hlt
      simp only [mapWfFrom, Bool.and_eq_true, decide_eq_true_eq]
      exact ⟨⟨h1, h2⟩, ih (by omega) (fun e he => hn e (List.mem_cons_of_mem _ he)) h3⟩

/-- A write keeps the canonical form. -/
theorem mapSet_wf {m : AMap α} (k : Nat) (v : α) (w : mapWf d m = true) : mapWf d (mapSet d m k v) = true := by
  unfold mapWf at *
  rw [mapSet_eq]
  split
  · exact mapDrop_wfFrom d k w
  · rename_i hv
    exact mapIns_wfFrom d hv (Nat.zero_le k) (mapDrop_ne m k) (mapDrop_wfFrom d k w)

/-! ## HBM's bytes -/

/-- The canonical form of HBM's bytes. -/
abbrev memWf (m : List Host.Cell) : Prop := mapWf memDefault m = true

theorem cellsPut_wf {m : List Host.Cell} (a : Nat) (bs : List Byte) (w : memWf m) : memWf (cellsPut m a bs) := by
  induction bs generalizing m a with
  | nil => exact w
  | cons b bs ih => exact ih (a + 1) (mapSet_wf _ _ _ w)

/-- What a byte of HBM reads as after a write of bytes. -/
theorem mapGet_cellsPut (m : List Host.Cell) (a k : Nat) (bs : List Byte) :
    mapGet memDefault (cellsPut m a bs) k = if a ≤ k ∧ k < a + bs.length then bs.getD (k - a) 0 else mapGet memDefault m k := by
  induction bs generalizing m a with
  | nil =>
    rw [if_neg (by simp only [List.length_nil]; omega)]
    rfl
  | cons b bs ih =>
    rw [cellsPut, ih, mapGet_mapSet]
    by_cases h : a + 1 ≤ k ∧ k < a + 1 + bs.length
    · rw [if_pos h, if_pos (by simp only [List.length_cons]; omega)]
      rw [show k - a = (k - (a + 1)) + 1 by omega, List.getD_cons_succ]
    · rw [if_neg h]
      by_cases e : k = a
      · subst e; simp
      · rw [if_neg e, if_neg]
        simp only [List.length_cons]; omega

theorem setPend_mem (s : State) (p : Page) (w : Word) : (setPend s p w).mem = s.mem := rfl

theorem raise_mem (s : State) (p : Page) (b : Nat) : (raise s p b).mem = s.mem := by
  unfold raise; split <;> rfl

theorem injWrite_mem (s : State) (a n : Nat) : (injWrite s a n).mem = s.mem := by
  unfold injWrite
  split
  · split <;> rfl
  · rfl

theorem eccWrite_wf (s : State) (a n : Nat) (w : memWf s.mem) : memWf (eccWrite s a n).mem := by
  unfold eccWrite
  generalize s.ecc = l
  induction l generalizing s with
  | nil => exact w
  | cons e l ih =>
    apply ih
    dsimp only
    split
    · exact w
    · split
      · exact w
      · split
        · rw [raise_mem]; exact cellsPut_wf _ _ w
        · rw [raise_mem]; exact w

/-- A write to HBM keeps the canonical form. -/
theorem memPut_wf (s : State) (a : Nat) (bs : List Byte) (w : memWf s.mem) : memWf (memPut s a bs).mem := by
  unfold memPut
  rw [injWrite_mem]
  apply cellsPut_wf
  split
  · exact w
  · exact eccWrite_wf s a bs.length w

theorem memPutAll_wf (s : State) (l : List (Nat × List Byte)) (w : memWf s.mem) : memWf (memPutAll s l).mem := by
  unfold memPutAll
  induction l generalizing s with
  | nil => exact w
  | cons x l ih => exact ih _ (memPut_wf s x.1 x.2 w)

theorem hbmPut_wf (s : State) (l : List (Nat × List Byte)) (w : memWf s.mem) : memWf (hbmPut s l).mem := by
  unfold hbmPut
  induction l generalizing s with
  | nil => exact w
  | cons x l ih =>
    apply ih
    dsimp only
    split
    · exact memPut_wf s x.1 x.2 w
    · exact w

theorem eccTouch_mem (s : State) (a n : Nat) : (eccTouch s a n).mem = s.mem := by
  unfold eccTouch
  dsimp only
  generalize decide (forceF s .hbm Off.HBM_CFG 12 1 = 1) = wb
  have : ∀ (l : List (Nat × Nat)) (t : State), (l.foldl (fun (t : State) (e : Nat × Nat) =>
      if wordIn a n e.1 = false then t
      else if e.2 = 2 then raise t (hbmpcPage (hbmPc (e.1 * 8))) 1
      else
        let t := raise t (hbmpcPage (hbmPc (e.1 * 8))) 0
        if wb then { t with ecc := mapSet (fun _ => 0) t.ecc e.1 0 } else t) t).mem = t.mem := by
    intro l
    induction l with
    | nil => intro t; rfl
    | cons e l ih =>
      intro t
      rw [List.foldl_cons, ih]
      dsimp only
      split
      · rfl
      · split
        · exact raise_mem _ _ _
        · split
          · exact raise_mem _ _ _
          · exact raise_mem _ _ _
  exact this _ _

theorem eccTouchAll_mem (s : State) (l : List (Nat × Nat)) : (eccTouchAll s l).mem = s.mem := by
  unfold eccTouchAll
  split
  · rfl
  · induction l generalizing s with
    | nil => rfl
    | cons x l ih =>
      rw [List.foldl_cons]
      have h := eccTouch_mem s x.1 x.2
      generalize eccTouch s x.1 x.2 = u at h ⊢
      have : ∀ (l : List (Nat × Nat)) (u : State), (l.foldl (fun t x => eccTouch t x.1 x.2) u).mem = u.mem := by
        intro l
        induction l with
        | nil => intro u; rfl
        | cons y l ih2 => intro u; rw [List.foldl_cons, ih2, eccTouch_mem]
      rw [this, h]

/-- A read of HBM leaves every byte as it was. -/
theorem hbmRead_mem (s : State) (a n : Nat) : (hbmRead s a n).2.2.mem = s.mem := by
  unfold hbmRead
  split
  · rfl
  · dsimp only
    split <;> exact eccTouchAll_mem s _

/-- Memory is in its canonical form at reset. -/
theorem reset_memWf : memWf State.reset.mem := rfl

end Sys2Proof.Machine
end

