-- ==== Sys2Proof/Laws/State.lean ====
section
/-!
SUPPORT. One law per state update: the field it writes, and every other field as it was. Each is true by `rfl` and a simp rule,
so that no later proof unfolds a record update.
-/
namespace Sys2Proof.Machine

variable (s : State)

/-- `setReg` writes `regs` alone. -/
@[simp] theorem setReg_frame (p : Page) (off : Nat) (v : Word) :
    (setReg s p off v).pending = s.pending ∧ (setReg s p off v).free = s.free ∧ (setReg s p off v).part = s.part ∧
    (setReg s p off v).extTemp = s.extTemp ∧ (setReg s p off v).inForce = s.inForce ∧ (setReg s p off v).evPend = s.evPend ∧
    (setReg s p off v).evRaw = s.evRaw ∧ (setReg s p off v).captures = s.captures ∧
    (setReg s p off v).lastRead = s.lastRead ∧ (setReg s p off v).lastReadHi = s.lastReadHi ∧
    (setReg s p off v).isl = s.isl ∧ (setReg s p off v).pwrQueue = s.pwrQueue ∧ (setReg s p off v).weirs = s.weirs ∧
    (setReg s p off v).commits = s.commits ∧ (setReg s p off v).unnoticed = s.unnoticed ∧ (setReg s p off v).msix = s.msix ∧
    (setReg s p off v).netMode4 = s.netMode4 ∧ (setReg s p off v).mem = s.mem ∧ (setReg s p off v).ecc = s.ecc ∧
    (setReg s p off v).time = s.time ∧ (setReg s p off v).trackers = s.trackers ∧ (setReg s p off v).slots = s.slots ∧
    (setReg s p off v).gpio = s.gpio ∧ (setReg s p off v).tgen = s.tgen ∧ (setReg s p off v).shutPulses = s.shutPulses ∧
    (setReg s p off v).layr = s.layr ∧ (setReg s p off v).scal = s.scal ∧ (setReg s p off v).geom = s.geom ∧
    (setReg s p off v).trim = s.trim ∧ (setReg s p off v).fade = s.fade ∧ (setReg s p off v).eng = s.eng ∧
    (setReg s p off v).codec = s.codec ∧ (setReg s p off v).ring = s.ring ∧ (setReg s p off v).bgrp = s.bgrp ∧
    (setReg s p off v).diag = s.diag ∧ (setReg s p off v).modu = s.modu ∧ (setReg s p off v).ens = s.ens ∧
    (setReg s p off v).hbm = s.hbm ∧ (setReg s p off v).bar2 = s.bar2 ∧ (setReg s p off v).host = s.host ∧
    (setReg s p off v).store = s.store ∧ (setReg s p off v).recov = s.recov ∧ (setReg s p off v).cpm = s.cpm ∧
    (setReg s p off v).last = s.last ∧ (setReg s p off v).net = s.net ∧ (setReg s p off v).cam = s.cam ∧
    (setReg s p off v).camPulses = s.camPulses ∧ (setReg s p off v).aud = s.aud ∧ (setReg s p off v).blit = s.blit ∧
    (setReg s p off v).therm = s.therm ∧ (setReg s p off v).cal = s.cal ∧ (setReg s p off v).pins = s.pins ∧
    (setReg s p off v).calDone = s.calDone :=
  ⟨rfl, rfl, rfl, rfl, rfl, rfl, rfl, rfl, rfl, rfl, rfl, rfl, rfl, rfl, rfl, rfl, rfl, rfl, rfl, rfl, rfl, rfl, rfl, rfl, rfl, rfl, rfl, rfl, rfl, rfl, rfl, rfl, rfl, rfl, rfl, rfl, rfl, rfl, rfl, rfl, rfl, rfl, rfl, rfl, rfl, rfl, rfl, rfl, rfl, rfl, rfl, rfl, rfl⟩

/-- `setRegBank` writes `regs` alone. -/
@[simp] theorem setRegBank_frame (p : Page) (b off : Nat) (v : Word) :
    (setRegBank s p b off v).pending = s.pending ∧ (setRegBank s p b off v).free = s.free ∧
    (setRegBank s p b off v).part = s.part ∧ (setRegBank s p b off v).extTemp = s.extTemp ∧
    (setRegBank s p b off v).inForce = s.inForce ∧ (setRegBank s p b off v).evPend = s.evPend ∧
    (setRegBank s p b off v).evRaw = s.evRaw ∧ (setRegBank s p b off v).captures = s.captures ∧
    (setRegBank s p b off v).lastRead = s.lastRead ∧ (setRegBank s p b off v).lastReadHi = s.lastReadHi ∧
    (setRegBank s p b off v).isl = s.isl ∧ (setRegBank s p b off v).pwrQueue = s.pwrQueue ∧
    (setRegBank s p b off v).weirs = s.weirs ∧ (setRegBank s p b off v).commits = s.commits ∧
    (setRegBank s p b off v).unnoticed = s.unnoticed ∧ (setRegBank s p b off v).msix = s.msix ∧
    (setRegBank s p b off v).netMode4 = s.netMode4 ∧ (setRegBank s p b off v).mem = s.mem ∧
    (setRegBank s p b off v).ecc = s.ecc ∧ (setRegBank s p b off v).time = s.time ∧
    (setRegBank s p b off v).trackers = s.trackers ∧ (setRegBank s p b off v).slots = s.slots ∧
    (setRegBank s p b off v).gpio = s.gpio ∧ (setRegBank s p b off v).tgen = s.tgen ∧
    (setRegBank s p b off v).shutPulses = s.shutPulses ∧ (setRegBank s p b off v).layr = s.layr ∧
    (setRegBank s p b off v).scal = s.scal ∧ (setRegBank s p b off v).geom = s.geom ∧
    (setRegBank s p b off v).trim = s.trim ∧ (setRegBank s p b off v).fade = s.fade ∧ (setRegBank s p b off v).eng = s.eng ∧
    (setRegBank s p b off v).codec = s.codec ∧ (setRegBank s p b off v).ring = s.ring ∧
    (setRegBank s p b off v).bgrp = s.bgrp ∧ (setRegBank s p b off v).diag = s.diag ∧
    (setRegBank s p b off v).modu = s.modu ∧ (setRegBank s p b off v).ens = s.ens ∧ (setRegBank s p b off v).hbm = s.hbm ∧
    (setRegBank s p b off v).bar2 = s.bar2 ∧ (setRegBank s p b off v).host = s.host ∧
    (setRegBank s p b off v).store = s.store ∧ (setRegBank s p b off v).recov = s.recov ∧
    (setRegBank s p b off v).cpm = s.cpm ∧ (setRegBank s p b off v).last = s.last ∧ (setRegBank s p b off v).net = s.net ∧
    (setRegBank s p b off v).cam = s.cam ∧ (setRegBank s p b off v).camPulses = s.camPulses ∧
    (setRegBank s p b off v).aud = s.aud ∧ (setRegBank s p b off v).blit = s.blit ∧
    (setRegBank s p b off v).therm = s.therm ∧ (setRegBank s p b off v).cal = s.cal ∧
    (setRegBank s p b off v).pins = s.pins ∧ (setRegBank s p b off v).calDone = s.calDone :=
  ⟨rfl, rfl, rfl, rfl, rfl, rfl, rfl, rfl, rfl, rfl, rfl, rfl, rfl, rfl, rfl, rfl, rfl, rfl, rfl, rfl, rfl, rfl, rfl, rfl, rfl, rfl, rfl, rfl, rfl, rfl, rfl, rfl, rfl, rfl, rfl, rfl, rfl, rfl, rfl, rfl, rfl, rfl, rfl, rfl, rfl, rfl, rfl, rfl, rfl, rfl, rfl, rfl, rfl⟩

/-- `setRegF` writes `regs` alone. -/
@[simp] theorem setRegF_frame (p : Page) (off lo len v : Nat) :
    (setRegF s p off lo len v).pending = s.pending ∧ (setRegF s p off lo len v).free = s.free ∧
    (setRegF s p off lo len v).part = s.part ∧ (setRegF s p off lo len v).extTemp = s.extTemp ∧
    (setRegF s p off lo len v).inForce = s.inForce ∧ (setRegF s p off lo len v).evPend = s.evPend ∧
    (setRegF s p off lo len v).evRaw = s.evRaw ∧ (setRegF s p off lo len v).captures = s.captures ∧
    (setRegF s p off lo len v).lastRead = s.lastRead ∧ (setRegF s p off lo len v).lastReadHi = s.lastReadHi ∧
    (setRegF s p off lo len v).isl = s.isl ∧ (setRegF s p off lo len v).pwrQueue = s.pwrQueue ∧
    (setRegF s p off lo len v).weirs = s.weirs ∧ (setRegF s p off lo len v).commits = s.commits ∧
    (setRegF s p off lo len v).unnoticed = s.unnoticed ∧ (setRegF s p off lo len v).msix = s.msix ∧
    (setRegF s p off lo len v).netMode4 = s.netMode4 ∧ (setRegF s p off lo len v).mem = s.mem ∧
    (setRegF s p off lo len v).ecc = s.ecc ∧ (setRegF s p off lo len v).time = s.time ∧
    (setRegF s p off lo len v).trackers = s.trackers ∧ (setRegF s p off lo len v).slots = s.slots ∧
    (setRegF s p off lo len v).gpio = s.gpio ∧ (setRegF s p off lo len v).tgen = s.tgen ∧
    (setRegF s p off lo len v).shutPulses = s.shutPulses ∧ (setRegF s p off lo len v).layr = s.layr ∧
    (setRegF s p off lo len v).scal = s.scal ∧ (setRegF s p off lo len v).geom = s.geom ∧
    (setRegF s p off lo len v).trim = s.trim ∧ (setRegF s p off lo len v).fade = s.fade ∧
    (setRegF s p off lo len v).eng = s.eng ∧ (setRegF s p off lo len v).codec = s.codec ∧
    (setRegF s p off lo len v).ring = s.ring ∧ (setRegF s p off lo len v).bgrp = s.bgrp ∧
    (setRegF s p off lo len v).diag = s.diag ∧ (setRegF s p off lo len v).modu = s.modu ∧
    (setRegF s p off lo len v).ens = s.ens ∧ (setRegF s p off lo len v).hbm = s.hbm ∧
    (setRegF s p off lo len v).bar2 = s.bar2 ∧ (setRegF s p off lo len v).host = s.host ∧
    (setRegF s p off lo len v).store = s.store ∧ (setRegF s p off lo len v).recov = s.recov ∧
    (setRegF s p off lo len v).cpm = s.cpm ∧ (setRegF s p off lo len v).last = s.last ∧
    (setRegF s p off lo len v).net = s.net ∧ (setRegF s p off lo len v).cam = s.cam ∧
    (setRegF s p off lo len v).camPulses = s.camPulses ∧ (setRegF s p off lo len v).aud = s.aud ∧
    (setRegF s p off lo len v).blit = s.blit ∧ (setRegF s p off lo len v).therm = s.therm ∧
    (setRegF s p off lo len v).cal = s.cal ∧ (setRegF s p off lo len v).pins = s.pins ∧
    (setRegF s p off lo len v).calDone = s.calDone :=
  ⟨rfl, rfl, rfl, rfl, rfl, rfl, rfl, rfl, rfl, rfl, rfl, rfl, rfl, rfl, rfl, rfl, rfl, rfl, rfl, rfl, rfl, rfl, rfl, rfl, rfl, rfl, rfl, rfl, rfl, rfl, rfl, rfl, rfl, rfl, rfl, rfl, rfl, rfl, rfl, rfl, rfl, rfl, rfl, rfl, rfl, rfl, rfl, rfl, rfl, rfl, rfl, rfl, rfl⟩

/-- `setIsland` writes `isl` alone. -/
@[simp] theorem setIsland_frame (k : Nat) (v : Island) :
    (setIsland s k v).pending = s.pending ∧ (setIsland s k v).free = s.free ∧ (setIsland s k v).part = s.part ∧
    (setIsland s k v).extTemp = s.extTemp ∧ (setIsland s k v).regs = s.regs ∧ (setIsland s k v).inForce = s.inForce ∧
    (setIsland s k v).evPend = s.evPend ∧ (setIsland s k v).evRaw = s.evRaw ∧ (setIsland s k v).captures = s.captures ∧
    (setIsland s k v).lastRead = s.lastRead ∧ (setIsland s k v).lastReadHi = s.lastReadHi ∧
    (setIsland s k v).pwrQueue = s.pwrQueue ∧ (setIsland s k v).weirs = s.weirs ∧ (setIsland s k v).commits = s.commits ∧
    (setIsland s k v).unnoticed = s.unnoticed ∧ (setIsland s k v).msix = s.msix ∧ (setIsland s k v).netMode4 = s.netMode4 ∧
    (setIsland s k v).mem = s.mem ∧ (setIsland s k v).ecc = s.ecc ∧ (setIsland s k v).time = s.time ∧
    (setIsland s k v).trackers = s.trackers ∧ (setIsland s k v).slots = s.slots ∧ (setIsland s k v).gpio = s.gpio ∧
    (setIsland s k v).tgen = s.tgen ∧ (setIsland s k v).shutPulses = s.shutPulses ∧ (setIsland s k v).layr = s.layr ∧
    (setIsland s k v).scal = s.scal ∧ (setIsland s k v).geom = s.geom ∧ (setIsland s k v).trim = s.trim ∧
    (setIsland s k v).fade = s.fade ∧ (setIsland s k v).eng = s.eng ∧ (setIsland s k v).codec = s.codec ∧
    (setIsland s k v).ring = s.ring ∧ (setIsland s k v).bgrp = s.bgrp ∧ (setIsland s k v).diag = s.diag ∧
    (setIsland s k v).modu = s.modu ∧ (setIsland s k v).ens = s.ens ∧ (setIsland s k v).hbm = s.hbm ∧
    (setIsland s k v).bar2 = s.bar2 ∧ (setIsland s k v).host = s.host ∧ (setIsland s k v).store = s.store ∧
    (setIsland s k v).recov = s.recov ∧ (setIsland s k v).cpm = s.cpm ∧ (setIsland s k v).last = s.last ∧
    (setIsland s k v).net = s.net ∧ (setIsland s k v).cam = s.cam ∧ (setIsland s k v).camPulses = s.camPulses ∧
    (setIsland s k v).aud = s.aud ∧ (setIsland s k v).blit = s.blit ∧ (setIsland s k v).therm = s.therm ∧
    (setIsland s k v).cal = s.cal ∧ (setIsland s k v).pins = s.pins ∧ (setIsland s k v).calDone = s.calDone :=
  ⟨rfl, rfl, rfl, rfl, rfl, rfl, rfl, rfl, rfl, rfl, rfl, rfl, rfl, rfl, rfl, rfl, rfl, rfl, rfl, rfl, rfl, rfl, rfl, rfl, rfl, rfl, rfl, rfl, rfl, rfl, rfl, rfl, rfl, rfl, rfl, rfl, rfl, rfl, rfl, rfl, rfl, rfl, rfl, rfl, rfl, rfl, rfl, rfl, rfl, rfl, rfl, rfl, rfl⟩

/-- `setHlp` writes `cpm` alone. -/
@[simp] theorem setHlp_frame (h : Nat) (v : Helper) :
    (setHlp s h v).pending = s.pending ∧ (setHlp s h v).free = s.free ∧ (setHlp s h v).part = s.part ∧
    (setHlp s h v).extTemp = s.extTemp ∧ (setHlp s h v).regs = s.regs ∧ (setHlp s h v).inForce = s.inForce ∧
    (setHlp s h v).evPend = s.evPend ∧ (setHlp s h v).evRaw = s.evRaw ∧ (setHlp s h v).captures = s.captures ∧
    (setHlp s h v).lastRead = s.lastRead ∧ (setHlp s h v).lastReadHi = s.lastReadHi ∧ (setHlp s h v).isl = s.isl ∧
    (setHlp s h v).pwrQueue = s.pwrQueue ∧ (setHlp s h v).weirs = s.weirs ∧ (setHlp s h v).commits = s.commits ∧
    (setHlp s h v).unnoticed = s.unnoticed ∧ (setHlp s h v).msix = s.msix ∧ (setHlp s h v).netMode4 = s.netMode4 ∧
    (setHlp s h v).mem = s.mem ∧ (setHlp s h v).ecc = s.ecc ∧ (setHlp s h v).time = s.time ∧
    (setHlp s h v).trackers = s.trackers ∧ (setHlp s h v).slots = s.slots ∧ (setHlp s h v).gpio = s.gpio ∧
    (setHlp s h v).tgen = s.tgen ∧ (setHlp s h v).shutPulses = s.shutPulses ∧ (setHlp s h v).layr = s.layr ∧
    (setHlp s h v).scal = s.scal ∧ (setHlp s h v).geom = s.geom ∧ (setHlp s h v).trim = s.trim ∧
    (setHlp s h v).fade = s.fade ∧ (setHlp s h v).eng = s.eng ∧ (setHlp s h v).codec = s.codec ∧
    (setHlp s h v).ring = s.ring ∧ (setHlp s h v).bgrp = s.bgrp ∧ (setHlp s h v).diag = s.diag ∧
    (setHlp s h v).modu = s.modu ∧ (setHlp s h v).ens = s.ens ∧ (setHlp s h v).hbm = s.hbm ∧ (setHlp s h v).bar2 = s.bar2 ∧
    (setHlp s h v).host = s.host ∧ (setHlp s h v).store = s.store ∧ (setHlp s h v).recov = s.recov ∧
    (setHlp s h v).last = s.last ∧ (setHlp s h v).net = s.net ∧ (setHlp s h v).cam = s.cam ∧
    (setHlp s h v).camPulses = s.camPulses ∧ (setHlp s h v).aud = s.aud ∧ (setHlp s h v).blit = s.blit ∧
    (setHlp s h v).therm = s.therm ∧ (setHlp s h v).cal = s.cal ∧ (setHlp s h v).pins = s.pins ∧
    (setHlp s h v).calDone = s.calDone :=
  ⟨rfl, rfl, rfl, rfl, rfl, rfl, rfl, rfl, rfl, rfl, rfl, rfl, rfl, rfl, rfl, rfl, rfl, rfl, rfl, rfl, rfl, rfl, rfl, rfl, rfl, rfl, rfl, rfl, rfl, rfl, rfl, rfl, rfl, rfl, rfl, rfl, rfl, rfl, rfl, rfl, rfl, rfl, rfl, rfl, rfl, rfl, rfl, rfl, rfl, rfl, rfl, rfl, rfl⟩

/-- `setPend` writes `evPend` alone. -/
@[simp] theorem setPend_frame (p : Page) (w : Word) :
    (setPend s p w).pending = s.pending ∧ (setPend s p w).free = s.free ∧ (setPend s p w).part = s.part ∧
    (setPend s p w).extTemp = s.extTemp ∧ (setPend s p w).regs = s.regs ∧ (setPend s p w).inForce = s.inForce ∧
    (setPend s p w).evRaw = s.evRaw ∧ (setPend s p w).captures = s.captures ∧ (setPend s p w).lastRead = s.lastRead ∧
    (setPend s p w).lastReadHi = s.lastReadHi ∧ (setPend s p w).isl = s.isl ∧ (setPend s p w).pwrQueue = s.pwrQueue ∧
    (setPend s p w).weirs = s.weirs ∧ (setPend s p w).commits = s.commits ∧ (setPend s p w).unnoticed = s.unnoticed ∧
    (setPend s p w).msix = s.msix ∧ (setPend s p w).netMode4 = s.netMode4 ∧ (setPend s p w).mem = s.mem ∧
    (setPend s p w).ecc = s.ecc ∧ (setPend s p w).time = s.time ∧ (setPend s p w).trackers = s.trackers ∧
    (setPend s p w).slots = s.slots ∧ (setPend s p w).gpio = s.gpio ∧ (setPend s p w).tgen = s.tgen ∧
    (setPend s p w).shutPulses = s.shutPulses ∧ (setPend s p w).layr = s.layr ∧ (setPend s p w).scal = s.scal ∧
    (setPend s p w).geom = s.geom ∧ (setPend s p w).trim = s.trim ∧ (setPend s p w).fade = s.fade ∧
    (setPend s p w).eng = s.eng ∧ (setPend s p w).codec = s.codec ∧ (setPend s p w).ring = s.ring ∧
    (setPend s p w).bgrp = s.bgrp ∧ (setPend s p w).diag = s.diag ∧ (setPend s p w).modu = s.modu ∧
    (setPend s p w).ens = s.ens ∧ (setPend s p w).hbm = s.hbm ∧ (setPend s p w).bar2 = s.bar2 ∧
    (setPend s p w).host = s.host ∧ (setPend s p w).store = s.store ∧ (setPend s p w).recov = s.recov ∧
    (setPend s p w).cpm = s.cpm ∧ (setPend s p w).last = s.last ∧ (setPend s p w).net = s.net ∧ (setPend s p w).cam = s.cam ∧
    (setPend s p w).camPulses = s.camPulses ∧ (setPend s p w).aud = s.aud ∧ (setPend s p w).blit = s.blit ∧
    (setPend s p w).therm = s.therm ∧ (setPend s p w).cal = s.cal ∧ (setPend s p w).pins = s.pins ∧
    (setPend s p w).calDone = s.calDone :=
  ⟨rfl, rfl, rfl, rfl, rfl, rfl, rfl, rfl, rfl, rfl, rfl, rfl, rfl, rfl, rfl, rfl, rfl, rfl, rfl, rfl, rfl, rfl, rfl, rfl, rfl, rfl, rfl, rfl, rfl, rfl, rfl, rfl, rfl, rfl, rfl, rfl, rfl, rfl, rfl, rfl, rfl, rfl, rfl, rfl, rfl, rfl, rfl, rfl, rfl, rfl, rfl, rfl, rfl⟩

/-- `setRaw` writes `evRaw` alone. -/
@[simp] theorem setRaw_frame (p : Page) (w : Word) :
    (setRaw s p w).pending = s.pending ∧ (setRaw s p w).free = s.free ∧ (setRaw s p w).part = s.part ∧
    (setRaw s p w).extTemp = s.extTemp ∧ (setRaw s p w).regs = s.regs ∧ (setRaw s p w).inForce = s.inForce ∧
    (setRaw s p w).evPend = s.evPend ∧ (setRaw s p w).captures = s.captures ∧ (setRaw s p w).lastRead = s.lastRead ∧
    (setRaw s p w).lastReadHi = s.lastReadHi ∧ (setRaw s p w).isl = s.isl ∧ (setRaw s p w).pwrQueue = s.pwrQueue ∧
    (setRaw s p w).weirs = s.weirs ∧ (setRaw s p w).commits = s.commits ∧ (setRaw s p w).unnoticed = s.unnoticed ∧
    (setRaw s p w).msix = s.msix ∧ (setRaw s p w).netMode4 = s.netMode4 ∧ (setRaw s p w).mem = s.mem ∧
    (setRaw s p w).ecc = s.ecc ∧ (setRaw s p w).time = s.time ∧ (setRaw s p w).trackers = s.trackers ∧
    (setRaw s p w).slots = s.slots ∧ (setRaw s p w).gpio = s.gpio ∧ (setRaw s p w).tgen = s.tgen ∧
    (setRaw s p w).shutPulses = s.shutPulses ∧ (setRaw s p w).layr = s.layr ∧ (setRaw s p w).scal = s.scal ∧
    (setRaw s p w).geom = s.geom ∧ (setRaw s p w).trim = s.trim ∧ (setRaw s p w).fade = s.fade ∧ (setRaw s p w).eng = s.eng ∧
    (setRaw s p w).codec = s.codec ∧ (setRaw s p w).ring = s.ring ∧ (setRaw s p w).bgrp = s.bgrp ∧
    (setRaw s p w).diag = s.diag ∧ (setRaw s p w).modu = s.modu ∧ (setRaw s p w).ens = s.ens ∧ (setRaw s p w).hbm = s.hbm ∧
    (setRaw s p w).bar2 = s.bar2 ∧ (setRaw s p w).host = s.host ∧ (setRaw s p w).store = s.store ∧
    (setRaw s p w).recov = s.recov ∧ (setRaw s p w).cpm = s.cpm ∧ (setRaw s p w).last = s.last ∧ (setRaw s p w).net = s.net ∧
    (setRaw s p w).cam = s.cam ∧ (setRaw s p w).camPulses = s.camPulses ∧ (setRaw s p w).aud = s.aud ∧
    (setRaw s p w).blit = s.blit ∧ (setRaw s p w).therm = s.therm ∧ (setRaw s p w).cal = s.cal ∧
    (setRaw s p w).pins = s.pins ∧ (setRaw s p w).calDone = s.calDone :=
  ⟨rfl, rfl, rfl, rfl, rfl, rfl, rfl, rfl, rfl, rfl, rfl, rfl, rfl, rfl, rfl, rfl, rfl, rfl, rfl, rfl, rfl, rfl, rfl, rfl, rfl, rfl, rfl, rfl, rfl, rfl, rfl, rfl, rfl, rfl, rfl, rfl, rfl, rfl, rfl, rfl, rfl, rfl, rfl, rfl, rfl, rfl, rfl, rfl, rfl, rfl, rfl, rfl, rfl⟩

/-- `setTracker` writes `trackers` alone. -/
@[simp] theorem setTracker_frame (k : Nat) (v : Tracker) :
    (setTracker s k v).pending = s.pending ∧ (setTracker s k v).free = s.free ∧ (setTracker s k v).part = s.part ∧
    (setTracker s k v).extTemp = s.extTemp ∧ (setTracker s k v).regs = s.regs ∧ (setTracker s k v).inForce = s.inForce ∧
    (setTracker s k v).evPend = s.evPend ∧ (setTracker s k v).evRaw = s.evRaw ∧ (setTracker s k v).captures = s.captures ∧
    (setTracker s k v).lastRead = s.lastRead ∧ (setTracker s k v).lastReadHi = s.lastReadHi ∧
    (setTracker s k v).isl = s.isl ∧ (setTracker s k v).pwrQueue = s.pwrQueue ∧ (setTracker s k v).weirs = s.weirs ∧
    (setTracker s k v).commits = s.commits ∧ (setTracker s k v).unnoticed = s.unnoticed ∧ (setTracker s k v).msix = s.msix ∧
    (setTracker s k v).netMode4 = s.netMode4 ∧ (setTracker s k v).mem = s.mem ∧ (setTracker s k v).ecc = s.ecc ∧
    (setTracker s k v).time = s.time ∧ (setTracker s k v).slots = s.slots ∧ (setTracker s k v).gpio = s.gpio ∧
    (setTracker s k v).tgen = s.tgen ∧ (setTracker s k v).shutPulses = s.shutPulses ∧ (setTracker s k v).layr = s.layr ∧
    (setTracker s k v).scal = s.scal ∧ (setTracker s k v).geom = s.geom ∧ (setTracker s k v).trim = s.trim ∧
    (setTracker s k v).fade = s.fade ∧ (setTracker s k v).eng = s.eng ∧ (setTracker s k v).codec = s.codec ∧
    (setTracker s k v).ring = s.ring ∧ (setTracker s k v).bgrp = s.bgrp ∧ (setTracker s k v).diag = s.diag ∧
    (setTracker s k v).modu = s.modu ∧ (setTracker s k v).ens = s.ens ∧ (setTracker s k v).hbm = s.hbm ∧
    (setTracker s k v).bar2 = s.bar2 ∧ (setTracker s k v).host = s.host ∧ (setTracker s k v).store = s.store ∧
    (setTracker s k v).recov = s.recov ∧ (setTracker s k v).cpm = s.cpm ∧ (setTracker s k v).last = s.last ∧
    (setTracker s k v).net = s.net ∧ (setTracker s k v).cam = s.cam ∧ (setTracker s k v).camPulses = s.camPulses ∧
    (setTracker s k v).aud = s.aud ∧ (setTracker s k v).blit = s.blit ∧ (setTracker s k v).therm = s.therm ∧
    (setTracker s k v).cal = s.cal ∧ (setTracker s k v).pins = s.pins ∧ (setTracker s k v).calDone = s.calDone :=
  ⟨rfl, rfl, rfl, rfl, rfl, rfl, rfl, rfl, rfl, rfl, rfl, rfl, rfl, rfl, rfl, rfl, rfl, rfl, rfl, rfl, rfl, rfl, rfl, rfl, rfl, rfl, rfl, rfl, rfl, rfl, rfl, rfl, rfl, rfl, rfl, rfl, rfl, rfl, rfl, rfl, rfl, rfl, rfl, rfl, rfl, rfl, rfl, rfl, rfl, rfl, rfl, rfl, rfl⟩

/-- `setSlot` writes `slots` alone. -/
@[simp] theorem setSlot_frame (k : Nat) (v : Slot) :
    (setSlot s k v).pending = s.pending ∧ (setSlot s k v).free = s.free ∧ (setSlot s k v).part = s.part ∧
    (setSlot s k v).extTemp = s.extTemp ∧ (setSlot s k v).regs = s.regs ∧ (setSlot s k v).inForce = s.inForce ∧
    (setSlot s k v).evPend = s.evPend ∧ (setSlot s k v).evRaw = s.evRaw ∧ (setSlot s k v).captures = s.captures ∧
    (setSlot s k v).lastRead = s.lastRead ∧ (setSlot s k v).lastReadHi = s.lastReadHi ∧ (setSlot s k v).isl = s.isl ∧
    (setSlot s k v).pwrQueue = s.pwrQueue ∧ (setSlot s k v).weirs = s.weirs ∧ (setSlot s k v).commits = s.commits ∧
    (setSlot s k v).unnoticed = s.unnoticed ∧ (setSlot s k v).msix = s.msix ∧ (setSlot s k v).netMode4 = s.netMode4 ∧
    (setSlot s k v).mem = s.mem ∧ (setSlot s k v).ecc = s.ecc ∧ (setSlot s k v).time = s.time ∧
    (setSlot s k v).trackers = s.trackers ∧ (setSlot s k v).gpio = s.gpio ∧ (setSlot s k v).tgen = s.tgen ∧
    (setSlot s k v).shutPulses = s.shutPulses ∧ (setSlot s k v).layr = s.layr ∧ (setSlot s k v).scal = s.scal ∧
    (setSlot s k v).geom = s.geom ∧ (setSlot s k v).trim = s.trim ∧ (setSlot s k v).fade = s.fade ∧
    (setSlot s k v).eng = s.eng ∧ (setSlot s k v).codec = s.codec ∧ (setSlot s k v).ring = s.ring ∧
    (setSlot s k v).bgrp = s.bgrp ∧ (setSlot s k v).diag = s.diag ∧ (setSlot s k v).modu = s.modu ∧
    (setSlot s k v).ens = s.ens ∧ (setSlot s k v).hbm = s.hbm ∧ (setSlot s k v).bar2 = s.bar2 ∧
    (setSlot s k v).host = s.host ∧ (setSlot s k v).store = s.store ∧ (setSlot s k v).recov = s.recov ∧
    (setSlot s k v).cpm = s.cpm ∧ (setSlot s k v).last = s.last ∧ (setSlot s k v).net = s.net ∧ (setSlot s k v).cam = s.cam ∧
    (setSlot s k v).camPulses = s.camPulses ∧ (setSlot s k v).aud = s.aud ∧ (setSlot s k v).blit = s.blit ∧
    (setSlot s k v).therm = s.therm ∧ (setSlot s k v).cal = s.cal ∧ (setSlot s k v).pins = s.pins ∧
    (setSlot s k v).calDone = s.calDone :=
  ⟨rfl, rfl, rfl, rfl, rfl, rfl, rfl, rfl, rfl, rfl, rfl, rfl, rfl, rfl, rfl, rfl, rfl, rfl, rfl, rfl, rfl, rfl, rfl, rfl, rfl, rfl, rfl, rfl, rfl, rfl, rfl, rfl, rfl, rfl, rfl, rfl, rfl, rfl, rfl, rfl, rfl, rfl, rfl, rfl, rfl, rfl, rfl, rfl, rfl, rfl, rfl, rfl, rfl⟩

/-- `setGpio` writes `gpio` alone. -/
@[simp] theorem setGpio_frame (k : Nat) (v : Gpio) :
    (setGpio s k v).pending = s.pending ∧ (setGpio s k v).free = s.free ∧ (setGpio s k v).part = s.part ∧
    (setGpio s k v).extTemp = s.extTemp ∧ (setGpio s k v).regs = s.regs ∧ (setGpio s k v).inForce = s.inForce ∧
    (setGpio s k v).evPend = s.evPend ∧ (setGpio s k v).evRaw = s.evRaw ∧ (setGpio s k v).captures = s.captures ∧
    (setGpio s k v).lastRead = s.lastRead ∧ (setGpio s k v).lastReadHi = s.lastReadHi ∧ (setGpio s k v).isl = s.isl ∧
    (setGpio s k v).pwrQueue = s.pwrQueue ∧ (setGpio s k v).weirs = s.weirs ∧ (setGpio s k v).commits = s.commits ∧
    (setGpio s k v).unnoticed = s.unnoticed ∧ (setGpio s k v).msix = s.msix ∧ (setGpio s k v).netMode4 = s.netMode4 ∧
    (setGpio s k v).mem = s.mem ∧ (setGpio s k v).ecc = s.ecc ∧ (setGpio s k v).time = s.time ∧
    (setGpio s k v).trackers = s.trackers ∧ (setGpio s k v).slots = s.slots ∧ (setGpio s k v).tgen = s.tgen ∧
    (setGpio s k v).shutPulses = s.shutPulses ∧ (setGpio s k v).layr = s.layr ∧ (setGpio s k v).scal = s.scal ∧
    (setGpio s k v).geom = s.geom ∧ (setGpio s k v).trim = s.trim ∧ (setGpio s k v).fade = s.fade ∧
    (setGpio s k v).eng = s.eng ∧ (setGpio s k v).codec = s.codec ∧ (setGpio s k v).ring = s.ring ∧
    (setGpio s k v).bgrp = s.bgrp ∧ (setGpio s k v).diag = s.diag ∧ (setGpio s k v).modu = s.modu ∧
    (setGpio s k v).ens = s.ens ∧ (setGpio s k v).hbm = s.hbm ∧ (setGpio s k v).bar2 = s.bar2 ∧
    (setGpio s k v).host = s.host ∧ (setGpio s k v).store = s.store ∧ (setGpio s k v).recov = s.recov ∧
    (setGpio s k v).cpm = s.cpm ∧ (setGpio s k v).last = s.last ∧ (setGpio s k v).net = s.net ∧ (setGpio s k v).cam = s.cam ∧
    (setGpio s k v).camPulses = s.camPulses ∧ (setGpio s k v).aud = s.aud ∧ (setGpio s k v).blit = s.blit ∧
    (setGpio s k v).therm = s.therm ∧ (setGpio s k v).cal = s.cal ∧ (setGpio s k v).pins = s.pins ∧
    (setGpio s k v).calDone = s.calDone :=
  ⟨rfl, rfl, rfl, rfl, rfl, rfl, rfl, rfl, rfl, rfl, rfl, rfl, rfl, rfl, rfl, rfl, rfl, rfl, rfl, rfl, rfl, rfl, rfl, rfl, rfl, rfl, rfl, rfl, rfl, rfl, rfl, rfl, rfl, rfl, rfl, rfl, rfl, rfl, rfl, rfl, rfl, rfl, rfl, rfl, rfl, rfl, rfl, rfl, rfl, rfl, rfl, rfl, rfl⟩

/-- `setPtp` writes `time` alone. -/
@[simp] theorem setPtp_frame (v : PtpState) :
    (setPtp s v).pending = s.pending ∧ (setPtp s v).free = s.free ∧ (setPtp s v).part = s.part ∧
    (setPtp s v).extTemp = s.extTemp ∧ (setPtp s v).regs = s.regs ∧ (setPtp s v).inForce = s.inForce ∧
    (setPtp s v).evPend = s.evPend ∧ (setPtp s v).evRaw = s.evRaw ∧ (setPtp s v).captures = s.captures ∧
    (setPtp s v).lastRead = s.lastRead ∧ (setPtp s v).lastReadHi = s.lastReadHi ∧ (setPtp s v).isl = s.isl ∧
    (setPtp s v).pwrQueue = s.pwrQueue ∧ (setPtp s v).weirs = s.weirs ∧ (setPtp s v).commits = s.commits ∧
    (setPtp s v).unnoticed = s.unnoticed ∧ (setPtp s v).msix = s.msix ∧ (setPtp s v).netMode4 = s.netMode4 ∧
    (setPtp s v).mem = s.mem ∧ (setPtp s v).ecc = s.ecc ∧ (setPtp s v).trackers = s.trackers ∧ (setPtp s v).slots = s.slots ∧
    (setPtp s v).gpio = s.gpio ∧ (setPtp s v).tgen = s.tgen ∧ (setPtp s v).shutPulses = s.shutPulses ∧
    (setPtp s v).layr = s.layr ∧ (setPtp s v).scal = s.scal ∧ (setPtp s v).geom = s.geom ∧ (setPtp s v).trim = s.trim ∧
    (setPtp s v).fade = s.fade ∧ (setPtp s v).eng = s.eng ∧ (setPtp s v).codec = s.codec ∧ (setPtp s v).ring = s.ring ∧
    (setPtp s v).bgrp = s.bgrp ∧ (setPtp s v).diag = s.diag ∧ (setPtp s v).modu = s.modu ∧ (setPtp s v).ens = s.ens ∧
    (setPtp s v).hbm = s.hbm ∧ (setPtp s v).bar2 = s.bar2 ∧ (setPtp s v).host = s.host ∧ (setPtp s v).store = s.store ∧
    (setPtp s v).recov = s.recov ∧ (setPtp s v).cpm = s.cpm ∧ (setPtp s v).last = s.last ∧ (setPtp s v).net = s.net ∧
    (setPtp s v).cam = s.cam ∧ (setPtp s v).camPulses = s.camPulses ∧ (setPtp s v).aud = s.aud ∧ (setPtp s v).blit = s.blit ∧
    (setPtp s v).therm = s.therm ∧ (setPtp s v).cal = s.cal ∧ (setPtp s v).pins = s.pins ∧ (setPtp s v).calDone = s.calDone :=
  ⟨rfl, rfl, rfl, rfl, rfl, rfl, rfl, rfl, rfl, rfl, rfl, rfl, rfl, rfl, rfl, rfl, rfl, rfl, rfl, rfl, rfl, rfl, rfl, rfl, rfl, rfl, rfl, rfl, rfl, rfl, rfl, rfl, rfl, rfl, rfl, rfl, rfl, rfl, rfl, rfl, rfl, rfl, rfl, rfl, rfl, rfl, rfl, rfl, rfl, rfl, rfl, rfl, rfl⟩

/-- `setTgen` writes `tgen` alone. -/
@[simp] theorem setTgen_frame (g : Nat) (v : Tgen) :
    (setTgen s g v).pending = s.pending ∧ (setTgen s g v).free = s.free ∧ (setTgen s g v).part = s.part ∧
    (setTgen s g v).extTemp = s.extTemp ∧ (setTgen s g v).regs = s.regs ∧ (setTgen s g v).inForce = s.inForce ∧
    (setTgen s g v).evPend = s.evPend ∧ (setTgen s g v).evRaw = s.evRaw ∧ (setTgen s g v).captures = s.captures ∧
    (setTgen s g v).lastRead = s.lastRead ∧ (setTgen s g v).lastReadHi = s.lastReadHi ∧ (setTgen s g v).isl = s.isl ∧
    (setTgen s g v).pwrQueue = s.pwrQueue ∧ (setTgen s g v).weirs = s.weirs ∧ (setTgen s g v).commits = s.commits ∧
    (setTgen s g v).unnoticed = s.unnoticed ∧ (setTgen s g v).msix = s.msix ∧ (setTgen s g v).netMode4 = s.netMode4 ∧
    (setTgen s g v).mem = s.mem ∧ (setTgen s g v).ecc = s.ecc ∧ (setTgen s g v).time = s.time ∧
    (setTgen s g v).trackers = s.trackers ∧ (setTgen s g v).slots = s.slots ∧ (setTgen s g v).gpio = s.gpio ∧
    (setTgen s g v).shutPulses = s.shutPulses ∧ (setTgen s g v).layr = s.layr ∧ (setTgen s g v).scal = s.scal ∧
    (setTgen s g v).geom = s.geom ∧ (setTgen s g v).trim = s.trim ∧ (setTgen s g v).fade = s.fade ∧
    (setTgen s g v).eng = s.eng ∧ (setTgen s g v).codec = s.codec ∧ (setTgen s g v).ring = s.ring ∧
    (setTgen s g v).bgrp = s.bgrp ∧ (setTgen s g v).diag = s.diag ∧ (setTgen s g v).modu = s.modu ∧
    (setTgen s g v).ens = s.ens ∧ (setTgen s g v).hbm = s.hbm ∧ (setTgen s g v).bar2 = s.bar2 ∧
    (setTgen s g v).host = s.host ∧ (setTgen s g v).store = s.store ∧ (setTgen s g v).recov = s.recov ∧
    (setTgen s g v).cpm = s.cpm ∧ (setTgen s g v).last = s.last ∧ (setTgen s g v).net = s.net ∧ (setTgen s g v).cam = s.cam ∧
    (setTgen s g v).camPulses = s.camPulses ∧ (setTgen s g v).aud = s.aud ∧ (setTgen s g v).blit = s.blit ∧
    (setTgen s g v).therm = s.therm ∧ (setTgen s g v).cal = s.cal ∧ (setTgen s g v).pins = s.pins ∧
    (setTgen s g v).calDone = s.calDone :=
  ⟨rfl, rfl, rfl, rfl, rfl, rfl, rfl, rfl, rfl, rfl, rfl, rfl, rfl, rfl, rfl, rfl, rfl, rfl, rfl, rfl, rfl, rfl, rfl, rfl, rfl, rfl, rfl, rfl, rfl, rfl, rfl, rfl, rfl, rfl, rfl, rfl, rfl, rfl, rfl, rfl, rfl, rfl, rfl, rfl, rfl, rfl, rfl, rfl, rfl, rfl, rfl, rfl, rfl⟩

/-- `setBuf` writes `layr` alone. -/
@[simp] theorem setBuf_frame (b : Nat) (v : Buf) :
    (setBuf s b v).pending = s.pending ∧ (setBuf s b v).free = s.free ∧ (setBuf s b v).part = s.part ∧
    (setBuf s b v).extTemp = s.extTemp ∧ (setBuf s b v).regs = s.regs ∧ (setBuf s b v).inForce = s.inForce ∧
    (setBuf s b v).evPend = s.evPend ∧ (setBuf s b v).evRaw = s.evRaw ∧ (setBuf s b v).captures = s.captures ∧
    (setBuf s b v).lastRead = s.lastRead ∧ (setBuf s b v).lastReadHi = s.lastReadHi ∧ (setBuf s b v).isl = s.isl ∧
    (setBuf s b v).pwrQueue = s.pwrQueue ∧ (setBuf s b v).weirs = s.weirs ∧ (setBuf s b v).commits = s.commits ∧
    (setBuf s b v).unnoticed = s.unnoticed ∧ (setBuf s b v).msix = s.msix ∧ (setBuf s b v).netMode4 = s.netMode4 ∧
    (setBuf s b v).mem = s.mem ∧ (setBuf s b v).ecc = s.ecc ∧ (setBuf s b v).time = s.time ∧
    (setBuf s b v).trackers = s.trackers ∧ (setBuf s b v).slots = s.slots ∧ (setBuf s b v).gpio = s.gpio ∧
    (setBuf s b v).tgen = s.tgen ∧ (setBuf s b v).shutPulses = s.shutPulses ∧ (setBuf s b v).scal = s.scal ∧
    (setBuf s b v).geom = s.geom ∧ (setBuf s b v).trim = s.trim ∧ (setBuf s b v).fade = s.fade ∧ (setBuf s b v).eng = s.eng ∧
    (setBuf s b v).codec = s.codec ∧ (setBuf s b v).ring = s.ring ∧ (setBuf s b v).bgrp = s.bgrp ∧
    (setBuf s b v).diag = s.diag ∧ (setBuf s b v).modu = s.modu ∧ (setBuf s b v).ens = s.ens ∧ (setBuf s b v).hbm = s.hbm ∧
    (setBuf s b v).bar2 = s.bar2 ∧ (setBuf s b v).host = s.host ∧ (setBuf s b v).store = s.store ∧
    (setBuf s b v).recov = s.recov ∧ (setBuf s b v).cpm = s.cpm ∧ (setBuf s b v).last = s.last ∧ (setBuf s b v).net = s.net ∧
    (setBuf s b v).cam = s.cam ∧ (setBuf s b v).camPulses = s.camPulses ∧ (setBuf s b v).aud = s.aud ∧
    (setBuf s b v).blit = s.blit ∧ (setBuf s b v).therm = s.therm ∧ (setBuf s b v).cal = s.cal ∧
    (setBuf s b v).pins = s.pins ∧ (setBuf s b v).calDone = s.calDone :=
  ⟨rfl, rfl, rfl, rfl, rfl, rfl, rfl, rfl, rfl, rfl, rfl, rfl, rfl, rfl, rfl, rfl, rfl, rfl, rfl, rfl, rfl, rfl, rfl, rfl, rfl, rfl, rfl, rfl, rfl, rfl, rfl, rfl, rfl, rfl, rfl, rfl, rfl, rfl, rfl, rfl, rfl, rfl, rfl, rfl, rfl, rfl, rfl, rfl, rfl, rfl, rfl, rfl, rfl⟩

/-- `setLayrBank` writes `layr` alone. -/
@[simp] theorem setLayrBank_frame (g : Nat) (v : LayrBank) :
    (setLayrBank s g v).pending = s.pending ∧ (setLayrBank s g v).free = s.free ∧ (setLayrBank s g v).part = s.part ∧
    (setLayrBank s g v).extTemp = s.extTemp ∧ (setLayrBank s g v).regs = s.regs ∧ (setLayrBank s g v).inForce = s.inForce ∧
    (setLayrBank s g v).evPend = s.evPend ∧ (setLayrBank s g v).evRaw = s.evRaw ∧ (setLayrBank s g v).captures = s.captures ∧
    (setLayrBank s g v).lastRead = s.lastRead ∧ (setLayrBank s g v).lastReadHi = s.lastReadHi ∧
    (setLayrBank s g v).isl = s.isl ∧ (setLayrBank s g v).pwrQueue = s.pwrQueue ∧ (setLayrBank s g v).weirs = s.weirs ∧
    (setLayrBank s g v).commits = s.commits ∧ (setLayrBank s g v).unnoticed = s.unnoticed ∧
    (setLayrBank s g v).msix = s.msix ∧ (setLayrBank s g v).netMode4 = s.netMode4 ∧ (setLayrBank s g v).mem = s.mem ∧
    (setLayrBank s g v).ecc = s.ecc ∧ (setLayrBank s g v).time = s.time ∧ (setLayrBank s g v).trackers = s.trackers ∧
    (setLayrBank s g v).slots = s.slots ∧ (setLayrBank s g v).gpio = s.gpio ∧ (setLayrBank s g v).tgen = s.tgen ∧
    (setLayrBank s g v).shutPulses = s.shutPulses ∧ (setLayrBank s g v).scal = s.scal ∧ (setLayrBank s g v).geom = s.geom ∧
    (setLayrBank s g v).trim = s.trim ∧ (setLayrBank s g v).fade = s.fade ∧ (setLayrBank s g v).eng = s.eng ∧
    (setLayrBank s g v).codec = s.codec ∧ (setLayrBank s g v).ring = s.ring ∧ (setLayrBank s g v).bgrp = s.bgrp ∧
    (setLayrBank s g v).diag = s.diag ∧ (setLayrBank s g v).modu = s.modu ∧ (setLayrBank s g v).ens = s.ens ∧
    (setLayrBank s g v).hbm = s.hbm ∧ (setLayrBank s g v).bar2 = s.bar2 ∧ (setLayrBank s g v).host = s.host ∧
    (setLayrBank s g v).store = s.store ∧ (setLayrBank s g v).recov = s.recov ∧ (setLayrBank s g v).cpm = s.cpm ∧
    (setLayrBank s g v).last = s.last ∧ (setLayrBank s g v).net = s.net ∧ (setLayrBank s g v).cam = s.cam ∧
    (setLayrBank s g v).camPulses = s.camPulses ∧ (setLayrBank s g v).aud = s.aud ∧ (setLayrBank s g v).blit = s.blit ∧
    (setLayrBank s g v).therm = s.therm ∧ (setLayrBank s g v).cal = s.cal ∧ (setLayrBank s g v).pins = s.pins ∧
    (setLayrBank s g v).calDone = s.calDone :=
  ⟨rfl, rfl, rfl, rfl, rfl, rfl, rfl, rfl, rfl, rfl, rfl, rfl, rfl, rfl, rfl, rfl, rfl, rfl, rfl, rfl, rfl, rfl, rfl, rfl, rfl, rfl, rfl, rfl, rfl, rfl, rfl, rfl, rfl, rfl, rfl, rfl, rfl, rfl, rfl, rfl, rfl, rfl, rfl, rfl, rfl, rfl, rfl, rfl, rfl, rfl, rfl, rfl, rfl⟩

/-- `setCslot` writes `commits` alone. -/
@[simp] theorem setCslot_frame (p : Page) (b : Nat) (v : CommitSlot) :
    (setCslot s p b v).pending = s.pending ∧ (setCslot s p b v).free = s.free ∧ (setCslot s p b v).part = s.part ∧
    (setCslot s p b v).extTemp = s.extTemp ∧ (setCslot s p b v).regs = s.regs ∧ (setCslot s p b v).inForce = s.inForce ∧
    (setCslot s p b v).evPend = s.evPend ∧ (setCslot s p b v).evRaw = s.evRaw ∧ (setCslot s p b v).captures = s.captures ∧
    (setCslot s p b v).lastRead = s.lastRead ∧ (setCslot s p b v).lastReadHi = s.lastReadHi ∧
    (setCslot s p b v).isl = s.isl ∧ (setCslot s p b v).pwrQueue = s.pwrQueue ∧ (setCslot s p b v).weirs = s.weirs ∧
    (setCslot s p b v).unnoticed = s.unnoticed ∧ (setCslot s p b v).msix = s.msix ∧
    (setCslot s p b v).netMode4 = s.netMode4 ∧ (setCslot s p b v).mem = s.mem ∧ (setCslot s p b v).ecc = s.ecc ∧
    (setCslot s p b v).time = s.time ∧ (setCslot s p b v).trackers = s.trackers ∧ (setCslot s p b v).slots = s.slots ∧
    (setCslot s p b v).gpio = s.gpio ∧ (setCslot s p b v).tgen = s.tgen ∧ (setCslot s p b v).shutPulses = s.shutPulses ∧
    (setCslot s p b v).layr = s.layr ∧ (setCslot s p b v).scal = s.scal ∧ (setCslot s p b v).geom = s.geom ∧
    (setCslot s p b v).trim = s.trim ∧ (setCslot s p b v).fade = s.fade ∧ (setCslot s p b v).eng = s.eng ∧
    (setCslot s p b v).codec = s.codec ∧ (setCslot s p b v).ring = s.ring ∧ (setCslot s p b v).bgrp = s.bgrp ∧
    (setCslot s p b v).diag = s.diag ∧ (setCslot s p b v).modu = s.modu ∧ (setCslot s p b v).ens = s.ens ∧
    (setCslot s p b v).hbm = s.hbm ∧ (setCslot s p b v).bar2 = s.bar2 ∧ (setCslot s p b v).host = s.host ∧
    (setCslot s p b v).store = s.store ∧ (setCslot s p b v).recov = s.recov ∧ (setCslot s p b v).cpm = s.cpm ∧
    (setCslot s p b v).last = s.last ∧ (setCslot s p b v).net = s.net ∧ (setCslot s p b v).cam = s.cam ∧
    (setCslot s p b v).camPulses = s.camPulses ∧ (setCslot s p b v).aud = s.aud ∧ (setCslot s p b v).blit = s.blit ∧
    (setCslot s p b v).therm = s.therm ∧ (setCslot s p b v).cal = s.cal ∧ (setCslot s p b v).pins = s.pins ∧
    (setCslot s p b v).calDone = s.calDone :=
  ⟨rfl, rfl, rfl, rfl, rfl, rfl, rfl, rfl, rfl, rfl, rfl, rfl, rfl, rfl, rfl, rfl, rfl, rfl, rfl, rfl, rfl, rfl, rfl, rfl, rfl, rfl, rfl, rfl, rfl, rfl, rfl, rfl, rfl, rfl, rfl, rfl, rfl, rfl, rfl, rfl, rfl, rfl, rfl, rfl, rfl, rfl, rfl, rfl, rfl, rfl, rfl, rfl, rfl⟩

/-- `setLutCurve` writes `layr` alone. -/
@[simp] theorem setLutCurve_frame (k c : Nat) (v : LutCurve) :
    (setLutCurve s k c v).pending = s.pending ∧ (setLutCurve s k c v).free = s.free ∧ (setLutCurve s k c v).part = s.part ∧
    (setLutCurve s k c v).extTemp = s.extTemp ∧ (setLutCurve s k c v).regs = s.regs ∧
    (setLutCurve s k c v).inForce = s.inForce ∧ (setLutCurve s k c v).evPend = s.evPend ∧
    (setLutCurve s k c v).evRaw = s.evRaw ∧ (setLutCurve s k c v).captures = s.captures ∧
    (setLutCurve s k c v).lastRead = s.lastRead ∧ (setLutCurve s k c v).lastReadHi = s.lastReadHi ∧
    (setLutCurve s k c v).isl = s.isl ∧ (setLutCurve s k c v).pwrQueue = s.pwrQueue ∧ (setLutCurve s k c v).weirs = s.weirs ∧
    (setLutCurve s k c v).commits = s.commits ∧ (setLutCurve s k c v).unnoticed = s.unnoticed ∧
    (setLutCurve s k c v).msix = s.msix ∧ (setLutCurve s k c v).netMode4 = s.netMode4 ∧ (setLutCurve s k c v).mem = s.mem ∧
    (setLutCurve s k c v).ecc = s.ecc ∧ (setLutCurve s k c v).time = s.time ∧ (setLutCurve s k c v).trackers = s.trackers ∧
    (setLutCurve s k c v).slots = s.slots ∧ (setLutCurve s k c v).gpio = s.gpio ∧ (setLutCurve s k c v).tgen = s.tgen ∧
    (setLutCurve s k c v).shutPulses = s.shutPulses ∧ (setLutCurve s k c v).scal = s.scal ∧
    (setLutCurve s k c v).geom = s.geom ∧ (setLutCurve s k c v).trim = s.trim ∧ (setLutCurve s k c v).fade = s.fade ∧
    (setLutCurve s k c v).eng = s.eng ∧ (setLutCurve s k c v).codec = s.codec ∧ (setLutCurve s k c v).ring = s.ring ∧
    (setLutCurve s k c v).bgrp = s.bgrp ∧ (setLutCurve s k c v).diag = s.diag ∧ (setLutCurve s k c v).modu = s.modu ∧
    (setLutCurve s k c v).ens = s.ens ∧ (setLutCurve s k c v).hbm = s.hbm ∧ (setLutCurve s k c v).bar2 = s.bar2 ∧
    (setLutCurve s k c v).host = s.host ∧ (setLutCurve s k c v).store = s.store ∧ (setLutCurve s k c v).recov = s.recov ∧
    (setLutCurve s k c v).cpm = s.cpm ∧ (setLutCurve s k c v).last = s.last ∧ (setLutCurve s k c v).net = s.net ∧
    (setLutCurve s k c v).cam = s.cam ∧ (setLutCurve s k c v).camPulses = s.camPulses ∧ (setLutCurve s k c v).aud = s.aud ∧
    (setLutCurve s k c v).blit = s.blit ∧ (setLutCurve s k c v).therm = s.therm ∧ (setLutCurve s k c v).cal = s.cal ∧
    (setLutCurve s k c v).pins = s.pins ∧ (setLutCurve s k c v).calDone = s.calDone :=
  ⟨rfl, rfl, rfl, rfl, rfl, rfl, rfl, rfl, rfl, rfl, rfl, rfl, rfl, rfl, rfl, rfl, rfl, rfl, rfl, rfl, rfl, rfl, rfl, rfl, rfl, rfl, rfl, rfl, rfl, rfl, rfl, rfl, rfl, rfl, rfl, rfl, rfl, rfl, rfl, rfl, rfl, rfl, rfl, rfl, rfl, rfl, rfl, rfl, rfl, rfl, rfl, rfl, rfl⟩

/-- `setScal` writes `scal` alone. -/
@[simp] theorem setScal_frame (v : ScalUnit) :
    (setScal s v).pending = s.pending ∧ (setScal s v).free = s.free ∧ (setScal s v).part = s.part ∧
    (setScal s v).extTemp = s.extTemp ∧ (setScal s v).regs = s.regs ∧ (setScal s v).inForce = s.inForce ∧
    (setScal s v).evPend = s.evPend ∧ (setScal s v).evRaw = s.evRaw ∧ (setScal s v).captures = s.captures ∧
    (setScal s v).lastRead = s.lastRead ∧ (setScal s v).lastReadHi = s.lastReadHi ∧ (setScal s v).isl = s.isl ∧
    (setScal s v).pwrQueue = s.pwrQueue ∧ (setScal s v).weirs = s.weirs ∧ (setScal s v).commits = s.commits ∧
    (setScal s v).unnoticed = s.unnoticed ∧ (setScal s v).msix = s.msix ∧ (setScal s v).netMode4 = s.netMode4 ∧
    (setScal s v).mem = s.mem ∧ (setScal s v).ecc = s.ecc ∧ (setScal s v).time = s.time ∧
    (setScal s v).trackers = s.trackers ∧ (setScal s v).slots = s.slots ∧ (setScal s v).gpio = s.gpio ∧
    (setScal s v).tgen = s.tgen ∧ (setScal s v).shutPulses = s.shutPulses ∧ (setScal s v).layr = s.layr ∧
    (setScal s v).geom = s.geom ∧ (setScal s v).trim = s.trim ∧ (setScal s v).fade = s.fade ∧ (setScal s v).eng = s.eng ∧
    (setScal s v).codec = s.codec ∧ (setScal s v).ring = s.ring ∧ (setScal s v).bgrp = s.bgrp ∧ (setScal s v).diag = s.diag ∧
    (setScal s v).modu = s.modu ∧ (setScal s v).ens = s.ens ∧ (setScal s v).hbm = s.hbm ∧ (setScal s v).bar2 = s.bar2 ∧
    (setScal s v).host = s.host ∧ (setScal s v).store = s.store ∧ (setScal s v).recov = s.recov ∧ (setScal s v).cpm = s.cpm ∧
    (setScal s v).last = s.last ∧ (setScal s v).net = s.net ∧ (setScal s v).cam = s.cam ∧
    (setScal s v).camPulses = s.camPulses ∧ (setScal s v).aud = s.aud ∧ (setScal s v).blit = s.blit ∧
    (setScal s v).therm = s.therm ∧ (setScal s v).cal = s.cal ∧ (setScal s v).pins = s.pins ∧
    (setScal s v).calDone = s.calDone :=
  ⟨rfl, rfl, rfl, rfl, rfl, rfl, rfl, rfl, rfl, rfl, rfl, rfl, rfl, rfl, rfl, rfl, rfl, rfl, rfl, rfl, rfl, rfl, rfl, rfl, rfl, rfl, rfl, rfl, rfl, rfl, rfl, rfl, rfl, rfl, rfl, rfl, rfl, rfl, rfl, rfl, rfl, rfl, rfl, rfl, rfl, rfl, rfl, rfl, rfl, rfl, rfl, rfl, rfl⟩

/-- `setCtx` writes `geom` alone. -/
@[simp] theorem setCtx_frame (c w : Nat) (v : Word) :
    (setCtx s c w v).pending = s.pending ∧ (setCtx s c w v).free = s.free ∧ (setCtx s c w v).part = s.part ∧
    (setCtx s c w v).extTemp = s.extTemp ∧ (setCtx s c w v).regs = s.regs ∧ (setCtx s c w v).inForce = s.inForce ∧
    (setCtx s c w v).evPend = s.evPend ∧ (setCtx s c w v).evRaw = s.evRaw ∧ (setCtx s c w v).captures = s.captures ∧
    (setCtx s c w v).lastRead = s.lastRead ∧ (setCtx s c w v).lastReadHi = s.lastReadHi ∧ (setCtx s c w v).isl = s.isl ∧
    (setCtx s c w v).pwrQueue = s.pwrQueue ∧ (setCtx s c w v).weirs = s.weirs ∧ (setCtx s c w v).commits = s.commits ∧
    (setCtx s c w v).unnoticed = s.unnoticed ∧ (setCtx s c w v).msix = s.msix ∧ (setCtx s c w v).netMode4 = s.netMode4 ∧
    (setCtx s c w v).mem = s.mem ∧ (setCtx s c w v).ecc = s.ecc ∧ (setCtx s c w v).time = s.time ∧
    (setCtx s c w v).trackers = s.trackers ∧ (setCtx s c w v).slots = s.slots ∧ (setCtx s c w v).gpio = s.gpio ∧
    (setCtx s c w v).tgen = s.tgen ∧ (setCtx s c w v).shutPulses = s.shutPulses ∧ (setCtx s c w v).layr = s.layr ∧
    (setCtx s c w v).scal = s.scal ∧ (setCtx s c w v).trim = s.trim ∧ (setCtx s c w v).fade = s.fade ∧
    (setCtx s c w v).eng = s.eng ∧ (setCtx s c w v).codec = s.codec ∧ (setCtx s c w v).ring = s.ring ∧
    (setCtx s c w v).bgrp = s.bgrp ∧ (setCtx s c w v).diag = s.diag ∧ (setCtx s c w v).modu = s.modu ∧
    (setCtx s c w v).ens = s.ens ∧ (setCtx s c w v).hbm = s.hbm ∧ (setCtx s c w v).bar2 = s.bar2 ∧
    (setCtx s c w v).host = s.host ∧ (setCtx s c w v).store = s.store ∧ (setCtx s c w v).recov = s.recov ∧
    (setCtx s c w v).cpm = s.cpm ∧ (setCtx s c w v).last = s.last ∧ (setCtx s c w v).net = s.net ∧
    (setCtx s c w v).cam = s.cam ∧ (setCtx s c w v).camPulses = s.camPulses ∧ (setCtx s c w v).aud = s.aud ∧
    (setCtx s c w v).blit = s.blit ∧ (setCtx s c w v).therm = s.therm ∧ (setCtx s c w v).cal = s.cal ∧
    (setCtx s c w v).pins = s.pins ∧ (setCtx s c w v).calDone = s.calDone :=
  ⟨rfl, rfl, rfl, rfl, rfl, rfl, rfl, rfl, rfl, rfl, rfl, rfl, rfl, rfl, rfl, rfl, rfl, rfl, rfl, rfl, rfl, rfl, rfl, rfl, rfl, rfl, rfl, rfl, rfl, rfl, rfl, rfl, rfl, rfl, rfl, rfl, rfl, rfl, rfl, rfl, rfl, rfl, rfl, rfl, rfl, rfl, rfl, rfl, rfl, rfl, rfl, rfl, rfl⟩

/-- `setTrim` writes `trim` alone. -/
@[simp] theorem setTrim_frame (v : TrimUnit) :
    (setTrim s v).pending = s.pending ∧ (setTrim s v).free = s.free ∧ (setTrim s v).part = s.part ∧
    (setTrim s v).extTemp = s.extTemp ∧ (setTrim s v).regs = s.regs ∧ (setTrim s v).inForce = s.inForce ∧
    (setTrim s v).evPend = s.evPend ∧ (setTrim s v).evRaw = s.evRaw ∧ (setTrim s v).captures = s.captures ∧
    (setTrim s v).lastRead = s.lastRead ∧ (setTrim s v).lastReadHi = s.lastReadHi ∧ (setTrim s v).isl = s.isl ∧
    (setTrim s v).pwrQueue = s.pwrQueue ∧ (setTrim s v).weirs = s.weirs ∧ (setTrim s v).commits = s.commits ∧
    (setTrim s v).unnoticed = s.unnoticed ∧ (setTrim s v).msix = s.msix ∧ (setTrim s v).netMode4 = s.netMode4 ∧
    (setTrim s v).mem = s.mem ∧ (setTrim s v).ecc = s.ecc ∧ (setTrim s v).time = s.time ∧
    (setTrim s v).trackers = s.trackers ∧ (setTrim s v).slots = s.slots ∧ (setTrim s v).gpio = s.gpio ∧
    (setTrim s v).tgen = s.tgen ∧ (setTrim s v).shutPulses = s.shutPulses ∧ (setTrim s v).layr = s.layr ∧
    (setTrim s v).scal = s.scal ∧ (setTrim s v).geom = s.geom ∧ (setTrim s v).fade = s.fade ∧ (setTrim s v).eng = s.eng ∧
    (setTrim s v).codec = s.codec ∧ (setTrim s v).ring = s.ring ∧ (setTrim s v).bgrp = s.bgrp ∧ (setTrim s v).diag = s.diag ∧
    (setTrim s v).modu = s.modu ∧ (setTrim s v).ens = s.ens ∧ (setTrim s v).hbm = s.hbm ∧ (setTrim s v).bar2 = s.bar2 ∧
    (setTrim s v).host = s.host ∧ (setTrim s v).store = s.store ∧ (setTrim s v).recov = s.recov ∧ (setTrim s v).cpm = s.cpm ∧
    (setTrim s v).last = s.last ∧ (setTrim s v).net = s.net ∧ (setTrim s v).cam = s.cam ∧
    (setTrim s v).camPulses = s.camPulses ∧ (setTrim s v).aud = s.aud ∧ (setTrim s v).blit = s.blit ∧
    (setTrim s v).therm = s.therm ∧ (setTrim s v).cal = s.cal ∧ (setTrim s v).pins = s.pins ∧
    (setTrim s v).calDone = s.calDone :=
  ⟨rfl, rfl, rfl, rfl, rfl, rfl, rfl, rfl, rfl, rfl, rfl, rfl, rfl, rfl, rfl, rfl, rfl, rfl, rfl, rfl, rfl, rfl, rfl, rfl, rfl, rfl, rfl, rfl, rfl, rfl, rfl, rfl, rfl, rfl, rfl, rfl, rfl, rfl, rfl, rfl, rfl, rfl, rfl, rfl, rfl, rfl, rfl, rfl, rfl, rfl, rfl, rfl, rfl⟩

/-- `setRgn` writes `trim` alone. -/
@[simp] theorem setRgn_frame (r : Nat) (v : Rgn) :
    (setRgn s r v).pending = s.pending ∧ (setRgn s r v).free = s.free ∧ (setRgn s r v).part = s.part ∧
    (setRgn s r v).extTemp = s.extTemp ∧ (setRgn s r v).regs = s.regs ∧ (setRgn s r v).inForce = s.inForce ∧
    (setRgn s r v).evPend = s.evPend ∧ (setRgn s r v).evRaw = s.evRaw ∧ (setRgn s r v).captures = s.captures ∧
    (setRgn s r v).lastRead = s.lastRead ∧ (setRgn s r v).lastReadHi = s.lastReadHi ∧ (setRgn s r v).isl = s.isl ∧
    (setRgn s r v).pwrQueue = s.pwrQueue ∧ (setRgn s r v).weirs = s.weirs ∧ (setRgn s r v).commits = s.commits ∧
    (setRgn s r v).unnoticed = s.unnoticed ∧ (setRgn s r v).msix = s.msix ∧ (setRgn s r v).netMode4 = s.netMode4 ∧
    (setRgn s r v).mem = s.mem ∧ (setRgn s r v).ecc = s.ecc ∧ (setRgn s r v).time = s.time ∧
    (setRgn s r v).trackers = s.trackers ∧ (setRgn s r v).slots = s.slots ∧ (setRgn s r v).gpio = s.gpio ∧
    (setRgn s r v).tgen = s.tgen ∧ (setRgn s r v).shutPulses = s.shutPulses ∧ (setRgn s r v).layr = s.layr ∧
    (setRgn s r v).scal = s.scal ∧ (setRgn s r v).geom = s.geom ∧ (setRgn s r v).fade = s.fade ∧ (setRgn s r v).eng = s.eng ∧
    (setRgn s r v).codec = s.codec ∧ (setRgn s r v).ring = s.ring ∧ (setRgn s r v).bgrp = s.bgrp ∧
    (setRgn s r v).diag = s.diag ∧ (setRgn s r v).modu = s.modu ∧ (setRgn s r v).ens = s.ens ∧ (setRgn s r v).hbm = s.hbm ∧
    (setRgn s r v).bar2 = s.bar2 ∧ (setRgn s r v).host = s.host ∧ (setRgn s r v).store = s.store ∧
    (setRgn s r v).recov = s.recov ∧ (setRgn s r v).cpm = s.cpm ∧ (setRgn s r v).last = s.last ∧ (setRgn s r v).net = s.net ∧
    (setRgn s r v).cam = s.cam ∧ (setRgn s r v).camPulses = s.camPulses ∧ (setRgn s r v).aud = s.aud ∧
    (setRgn s r v).blit = s.blit ∧ (setRgn s r v).therm = s.therm ∧ (setRgn s r v).cal = s.cal ∧
    (setRgn s r v).pins = s.pins ∧ (setRgn s r v).calDone = s.calDone :=
  ⟨rfl, rfl, rfl, rfl, rfl, rfl, rfl, rfl, rfl, rfl, rfl, rfl, rfl, rfl, rfl, rfl, rfl, rfl, rfl, rfl, rfl, rfl, rfl, rfl, rfl, rfl, rfl, rfl, rfl, rfl, rfl, rfl, rfl, rfl, rfl, rfl, rfl, rfl, rfl, rfl, rfl, rfl, rfl, rfl, rfl, rfl, rfl, rfl, rfl, rfl, rfl, rfl, rfl⟩

/-- `setFade` writes `fade` alone. -/
@[simp] theorem setFade_frame (v : FadeUnit) :
    (setFade s v).pending = s.pending ∧ (setFade s v).free = s.free ∧ (setFade s v).part = s.part ∧
    (setFade s v).extTemp = s.extTemp ∧ (setFade s v).regs = s.regs ∧ (setFade s v).inForce = s.inForce ∧
    (setFade s v).evPend = s.evPend ∧ (setFade s v).evRaw = s.evRaw ∧ (setFade s v).captures = s.captures ∧
    (setFade s v).lastRead = s.lastRead ∧ (setFade s v).lastReadHi = s.lastReadHi ∧ (setFade s v).isl = s.isl ∧
    (setFade s v).pwrQueue = s.pwrQueue ∧ (setFade s v).weirs = s.weirs ∧ (setFade s v).commits = s.commits ∧
    (setFade s v).unnoticed = s.unnoticed ∧ (setFade s v).msix = s.msix ∧ (setFade s v).netMode4 = s.netMode4 ∧
    (setFade s v).mem = s.mem ∧ (setFade s v).ecc = s.ecc ∧ (setFade s v).time = s.time ∧
    (setFade s v).trackers = s.trackers ∧ (setFade s v).slots = s.slots ∧ (setFade s v).gpio = s.gpio ∧
    (setFade s v).tgen = s.tgen ∧ (setFade s v).shutPulses = s.shutPulses ∧ (setFade s v).layr = s.layr ∧
    (setFade s v).scal = s.scal ∧ (setFade s v).geom = s.geom ∧ (setFade s v).trim = s.trim ∧ (setFade s v).eng = s.eng ∧
    (setFade s v).codec = s.codec ∧ (setFade s v).ring = s.ring ∧ (setFade s v).bgrp = s.bgrp ∧ (setFade s v).diag = s.diag ∧
    (setFade s v).modu = s.modu ∧ (setFade s v).ens = s.ens ∧ (setFade s v).hbm = s.hbm ∧ (setFade s v).bar2 = s.bar2 ∧
    (setFade s v).host = s.host ∧ (setFade s v).store = s.store ∧ (setFade s v).recov = s.recov ∧ (setFade s v).cpm = s.cpm ∧
    (setFade s v).last = s.last ∧ (setFade s v).net = s.net ∧ (setFade s v).cam = s.cam ∧
    (setFade s v).camPulses = s.camPulses ∧ (setFade s v).aud = s.aud ∧ (setFade s v).blit = s.blit ∧
    (setFade s v).therm = s.therm ∧ (setFade s v).cal = s.cal ∧ (setFade s v).pins = s.pins ∧
    (setFade s v).calDone = s.calDone :=
  ⟨rfl, rfl, rfl, rfl, rfl, rfl, rfl, rfl, rfl, rfl, rfl, rfl, rfl, rfl, rfl, rfl, rfl, rfl, rfl, rfl, rfl, rfl, rfl, rfl, rfl, rfl, rfl, rfl, rfl, rfl, rfl, rfl, rfl, rfl, rfl, rfl, rfl, rfl, rfl, rfl, rfl, rfl, rfl, rfl, rfl, rfl, rfl, rfl, rfl, rfl, rfl, rfl, rfl⟩

/-- `setEng` writes `eng` alone. -/
@[simp] theorem setEng_frame (e : Nat) (v : Engine) :
    (setEng s e v).pending = s.pending ∧ (setEng s e v).free = s.free ∧ (setEng s e v).part = s.part ∧
    (setEng s e v).extTemp = s.extTemp ∧ (setEng s e v).regs = s.regs ∧ (setEng s e v).inForce = s.inForce ∧
    (setEng s e v).evPend = s.evPend ∧ (setEng s e v).evRaw = s.evRaw ∧ (setEng s e v).captures = s.captures ∧
    (setEng s e v).lastRead = s.lastRead ∧ (setEng s e v).lastReadHi = s.lastReadHi ∧ (setEng s e v).isl = s.isl ∧
    (setEng s e v).pwrQueue = s.pwrQueue ∧ (setEng s e v).weirs = s.weirs ∧ (setEng s e v).commits = s.commits ∧
    (setEng s e v).unnoticed = s.unnoticed ∧ (setEng s e v).msix = s.msix ∧ (setEng s e v).netMode4 = s.netMode4 ∧
    (setEng s e v).mem = s.mem ∧ (setEng s e v).ecc = s.ecc ∧ (setEng s e v).time = s.time ∧
    (setEng s e v).trackers = s.trackers ∧ (setEng s e v).slots = s.slots ∧ (setEng s e v).gpio = s.gpio ∧
    (setEng s e v).tgen = s.tgen ∧ (setEng s e v).shutPulses = s.shutPulses ∧ (setEng s e v).layr = s.layr ∧
    (setEng s e v).scal = s.scal ∧ (setEng s e v).geom = s.geom ∧ (setEng s e v).trim = s.trim ∧
    (setEng s e v).fade = s.fade ∧ (setEng s e v).codec = s.codec ∧ (setEng s e v).ring = s.ring ∧
    (setEng s e v).bgrp = s.bgrp ∧ (setEng s e v).diag = s.diag ∧ (setEng s e v).modu = s.modu ∧ (setEng s e v).ens = s.ens ∧
    (setEng s e v).hbm = s.hbm ∧ (setEng s e v).bar2 = s.bar2 ∧ (setEng s e v).host = s.host ∧
    (setEng s e v).store = s.store ∧ (setEng s e v).recov = s.recov ∧ (setEng s e v).cpm = s.cpm ∧
    (setEng s e v).last = s.last ∧ (setEng s e v).net = s.net ∧ (setEng s e v).cam = s.cam ∧
    (setEng s e v).camPulses = s.camPulses ∧ (setEng s e v).aud = s.aud ∧ (setEng s e v).blit = s.blit ∧
    (setEng s e v).therm = s.therm ∧ (setEng s e v).cal = s.cal ∧ (setEng s e v).pins = s.pins ∧
    (setEng s e v).calDone = s.calDone :=
  ⟨rfl, rfl, rfl, rfl, rfl, rfl, rfl, rfl, rfl, rfl, rfl, rfl, rfl, rfl, rfl, rfl, rfl, rfl, rfl, rfl, rfl, rfl, rfl, rfl, rfl, rfl, rfl, rfl, rfl, rfl, rfl, rfl, rfl, rfl, rfl, rfl, rfl, rfl, rfl, rfl, rfl, rfl, rfl, rfl, rfl, rfl, rfl, rfl, rfl, rfl, rfl, rfl, rfl⟩

/-- `setCodec` writes `codec` alone. -/
@[simp] theorem setCodec_frame (v : CodecUnit) :
    (setCodec s v).pending = s.pending ∧ (setCodec s v).free = s.free ∧ (setCodec s v).part = s.part ∧
    (setCodec s v).extTemp = s.extTemp ∧ (setCodec s v).regs = s.regs ∧ (setCodec s v).inForce = s.inForce ∧
    (setCodec s v).evPend = s.evPend ∧ (setCodec s v).evRaw = s.evRaw ∧ (setCodec s v).captures = s.captures ∧
    (setCodec s v).lastRead = s.lastRead ∧ (setCodec s v).lastReadHi = s.lastReadHi ∧ (setCodec s v).isl = s.isl ∧
    (setCodec s v).pwrQueue = s.pwrQueue ∧ (setCodec s v).weirs = s.weirs ∧ (setCodec s v).commits = s.commits ∧
    (setCodec s v).unnoticed = s.unnoticed ∧ (setCodec s v).msix = s.msix ∧ (setCodec s v).netMode4 = s.netMode4 ∧
    (setCodec s v).mem = s.mem ∧ (setCodec s v).ecc = s.ecc ∧ (setCodec s v).time = s.time ∧
    (setCodec s v).trackers = s.trackers ∧ (setCodec s v).slots = s.slots ∧ (setCodec s v).gpio = s.gpio ∧
    (setCodec s v).tgen = s.tgen ∧ (setCodec s v).shutPulses = s.shutPulses ∧ (setCodec s v).layr = s.layr ∧
    (setCodec s v).scal = s.scal ∧ (setCodec s v).geom = s.geom ∧ (setCodec s v).trim = s.trim ∧
    (setCodec s v).fade = s.fade ∧ (setCodec s v).eng = s.eng ∧ (setCodec s v).ring = s.ring ∧ (setCodec s v).bgrp = s.bgrp ∧
    (setCodec s v).diag = s.diag ∧ (setCodec s v).modu = s.modu ∧ (setCodec s v).ens = s.ens ∧ (setCodec s v).hbm = s.hbm ∧
    (setCodec s v).bar2 = s.bar2 ∧ (setCodec s v).host = s.host ∧ (setCodec s v).store = s.store ∧
    (setCodec s v).recov = s.recov ∧ (setCodec s v).cpm = s.cpm ∧ (setCodec s v).last = s.last ∧ (setCodec s v).net = s.net ∧
    (setCodec s v).cam = s.cam ∧ (setCodec s v).camPulses = s.camPulses ∧ (setCodec s v).aud = s.aud ∧
    (setCodec s v).blit = s.blit ∧ (setCodec s v).therm = s.therm ∧ (setCodec s v).cal = s.cal ∧
    (setCodec s v).pins = s.pins ∧ (setCodec s v).calDone = s.calDone :=
  ⟨rfl, rfl, rfl, rfl, rfl, rfl, rfl, rfl, rfl, rfl, rfl, rfl, rfl, rfl, rfl, rfl, rfl, rfl, rfl, rfl, rfl, rfl, rfl, rfl, rfl, rfl, rfl, rfl, rfl, rfl, rfl, rfl, rfl, rfl, rfl, rfl, rfl, rfl, rfl, rfl, rfl, rfl, rfl, rfl, rfl, rfl, rfl, rfl, rfl, rfl, rfl, rfl, rfl⟩

/-- `setRing` writes `ring` alone. -/
@[simp] theorem setRing_frame (p : Nat) (v : Ring) :
    (setRing s p v).pending = s.pending ∧ (setRing s p v).free = s.free ∧ (setRing s p v).part = s.part ∧
    (setRing s p v).extTemp = s.extTemp ∧ (setRing s p v).regs = s.regs ∧ (setRing s p v).inForce = s.inForce ∧
    (setRing s p v).evPend = s.evPend ∧ (setRing s p v).evRaw = s.evRaw ∧ (setRing s p v).captures = s.captures ∧
    (setRing s p v).lastRead = s.lastRead ∧ (setRing s p v).lastReadHi = s.lastReadHi ∧ (setRing s p v).isl = s.isl ∧
    (setRing s p v).pwrQueue = s.pwrQueue ∧ (setRing s p v).weirs = s.weirs ∧ (setRing s p v).commits = s.commits ∧
    (setRing s p v).unnoticed = s.unnoticed ∧ (setRing s p v).msix = s.msix ∧ (setRing s p v).netMode4 = s.netMode4 ∧
    (setRing s p v).mem = s.mem ∧ (setRing s p v).ecc = s.ecc ∧ (setRing s p v).time = s.time ∧
    (setRing s p v).trackers = s.trackers ∧ (setRing s p v).slots = s.slots ∧ (setRing s p v).gpio = s.gpio ∧
    (setRing s p v).tgen = s.tgen ∧ (setRing s p v).shutPulses = s.shutPulses ∧ (setRing s p v).layr = s.layr ∧
    (setRing s p v).scal = s.scal ∧ (setRing s p v).geom = s.geom ∧ (setRing s p v).trim = s.trim ∧
    (setRing s p v).fade = s.fade ∧ (setRing s p v).eng = s.eng ∧ (setRing s p v).codec = s.codec ∧
    (setRing s p v).bgrp = s.bgrp ∧ (setRing s p v).diag = s.diag ∧ (setRing s p v).modu = s.modu ∧
    (setRing s p v).ens = s.ens ∧ (setRing s p v).hbm = s.hbm ∧ (setRing s p v).bar2 = s.bar2 ∧
    (setRing s p v).host = s.host ∧ (setRing s p v).store = s.store ∧ (setRing s p v).recov = s.recov ∧
    (setRing s p v).cpm = s.cpm ∧ (setRing s p v).last = s.last ∧ (setRing s p v).net = s.net ∧ (setRing s p v).cam = s.cam ∧
    (setRing s p v).camPulses = s.camPulses ∧ (setRing s p v).aud = s.aud ∧ (setRing s p v).blit = s.blit ∧
    (setRing s p v).therm = s.therm ∧ (setRing s p v).cal = s.cal ∧ (setRing s p v).pins = s.pins ∧
    (setRing s p v).calDone = s.calDone :=
  ⟨rfl, rfl, rfl, rfl, rfl, rfl, rfl, rfl, rfl, rfl, rfl, rfl, rfl, rfl, rfl, rfl, rfl, rfl, rfl, rfl, rfl, rfl, rfl, rfl, rfl, rfl, rfl, rfl, rfl, rfl, rfl, rfl, rfl, rfl, rfl, rfl, rfl, rfl, rfl, rfl, rfl, rfl, rfl, rfl, rfl, rfl, rfl, rfl, rfl, rfl, rfl, rfl, rfl⟩

/-- `setBgrp` writes `bgrp` alone. -/
@[simp] theorem setBgrp_frame (g : Nat) (v : Bgrp) :
    (setBgrp s g v).pending = s.pending ∧ (setBgrp s g v).free = s.free ∧ (setBgrp s g v).part = s.part ∧
    (setBgrp s g v).extTemp = s.extTemp ∧ (setBgrp s g v).regs = s.regs ∧ (setBgrp s g v).inForce = s.inForce ∧
    (setBgrp s g v).evPend = s.evPend ∧ (setBgrp s g v).evRaw = s.evRaw ∧ (setBgrp s g v).captures = s.captures ∧
    (setBgrp s g v).lastRead = s.lastRead ∧ (setBgrp s g v).lastReadHi = s.lastReadHi ∧ (setBgrp s g v).isl = s.isl ∧
    (setBgrp s g v).pwrQueue = s.pwrQueue ∧ (setBgrp s g v).weirs = s.weirs ∧ (setBgrp s g v).commits = s.commits ∧
    (setBgrp s g v).unnoticed = s.unnoticed ∧ (setBgrp s g v).msix = s.msix ∧ (setBgrp s g v).netMode4 = s.netMode4 ∧
    (setBgrp s g v).mem = s.mem ∧ (setBgrp s g v).ecc = s.ecc ∧ (setBgrp s g v).time = s.time ∧
    (setBgrp s g v).trackers = s.trackers ∧ (setBgrp s g v).slots = s.slots ∧ (setBgrp s g v).gpio = s.gpio ∧
    (setBgrp s g v).tgen = s.tgen ∧ (setBgrp s g v).shutPulses = s.shutPulses ∧ (setBgrp s g v).layr = s.layr ∧
    (setBgrp s g v).scal = s.scal ∧ (setBgrp s g v).geom = s.geom ∧ (setBgrp s g v).trim = s.trim ∧
    (setBgrp s g v).fade = s.fade ∧ (setBgrp s g v).eng = s.eng ∧ (setBgrp s g v).codec = s.codec ∧
    (setBgrp s g v).ring = s.ring ∧ (setBgrp s g v).diag = s.diag ∧ (setBgrp s g v).modu = s.modu ∧
    (setBgrp s g v).ens = s.ens ∧ (setBgrp s g v).hbm = s.hbm ∧ (setBgrp s g v).bar2 = s.bar2 ∧
    (setBgrp s g v).host = s.host ∧ (setBgrp s g v).store = s.store ∧ (setBgrp s g v).recov = s.recov ∧
    (setBgrp s g v).cpm = s.cpm ∧ (setBgrp s g v).last = s.last ∧ (setBgrp s g v).net = s.net ∧ (setBgrp s g v).cam = s.cam ∧
    (setBgrp s g v).camPulses = s.camPulses ∧ (setBgrp s g v).aud = s.aud ∧ (setBgrp s g v).blit = s.blit ∧
    (setBgrp s g v).therm = s.therm ∧ (setBgrp s g v).cal = s.cal ∧ (setBgrp s g v).pins = s.pins ∧
    (setBgrp s g v).calDone = s.calDone :=
  ⟨rfl, rfl, rfl, rfl, rfl, rfl, rfl, rfl, rfl, rfl, rfl, rfl, rfl, rfl, rfl, rfl, rfl, rfl, rfl, rfl, rfl, rfl, rfl, rfl, rfl, rfl, rfl, rfl, rfl, rfl, rfl, rfl, rfl, rfl, rfl, rfl, rfl, rfl, rfl, rfl, rfl, rfl, rfl, rfl, rfl, rfl, rfl, rfl, rfl, rfl, rfl, rfl, rfl⟩

/-- `setDiag` writes `diag` alone. -/
@[simp] theorem setDiag_frame (v : DiagUnit) :
    (setDiag s v).pending = s.pending ∧ (setDiag s v).free = s.free ∧ (setDiag s v).part = s.part ∧
    (setDiag s v).extTemp = s.extTemp ∧ (setDiag s v).regs = s.regs ∧ (setDiag s v).inForce = s.inForce ∧
    (setDiag s v).evPend = s.evPend ∧ (setDiag s v).evRaw = s.evRaw ∧ (setDiag s v).captures = s.captures ∧
    (setDiag s v).lastRead = s.lastRead ∧ (setDiag s v).lastReadHi = s.lastReadHi ∧ (setDiag s v).isl = s.isl ∧
    (setDiag s v).pwrQueue = s.pwrQueue ∧ (setDiag s v).weirs = s.weirs ∧ (setDiag s v).commits = s.commits ∧
    (setDiag s v).unnoticed = s.unnoticed ∧ (setDiag s v).msix = s.msix ∧ (setDiag s v).netMode4 = s.netMode4 ∧
    (setDiag s v).mem = s.mem ∧ (setDiag s v).ecc = s.ecc ∧ (setDiag s v).time = s.time ∧
    (setDiag s v).trackers = s.trackers ∧ (setDiag s v).slots = s.slots ∧ (setDiag s v).gpio = s.gpio ∧
    (setDiag s v).tgen = s.tgen ∧ (setDiag s v).shutPulses = s.shutPulses ∧ (setDiag s v).layr = s.layr ∧
    (setDiag s v).scal = s.scal ∧ (setDiag s v).geom = s.geom ∧ (setDiag s v).trim = s.trim ∧ (setDiag s v).fade = s.fade ∧
    (setDiag s v).eng = s.eng ∧ (setDiag s v).codec = s.codec ∧ (setDiag s v).ring = s.ring ∧ (setDiag s v).bgrp = s.bgrp ∧
    (setDiag s v).modu = s.modu ∧ (setDiag s v).ens = s.ens ∧ (setDiag s v).hbm = s.hbm ∧ (setDiag s v).bar2 = s.bar2 ∧
    (setDiag s v).host = s.host ∧ (setDiag s v).store = s.store ∧ (setDiag s v).recov = s.recov ∧ (setDiag s v).cpm = s.cpm ∧
    (setDiag s v).last = s.last ∧ (setDiag s v).net = s.net ∧ (setDiag s v).cam = s.cam ∧
    (setDiag s v).camPulses = s.camPulses ∧ (setDiag s v).aud = s.aud ∧ (setDiag s v).blit = s.blit ∧
    (setDiag s v).therm = s.therm ∧ (setDiag s v).cal = s.cal ∧ (setDiag s v).pins = s.pins ∧
    (setDiag s v).calDone = s.calDone :=
  ⟨rfl, rfl, rfl, rfl, rfl, rfl, rfl, rfl, rfl, rfl, rfl, rfl, rfl, rfl, rfl, rfl, rfl, rfl, rfl, rfl, rfl, rfl, rfl, rfl, rfl, rfl, rfl, rfl, rfl, rfl, rfl, rfl, rfl, rfl, rfl, rfl, rfl, rfl, rfl, rfl, rfl, rfl, rfl, rfl, rfl, rfl, rfl, rfl, rfl, rfl, rfl, rfl, rfl⟩

/-- `setModu` writes `modu` alone. -/
@[simp] theorem setModu_frame (p k : Nat) (v : Modu) :
    (setModu s p k v).pending = s.pending ∧ (setModu s p k v).free = s.free ∧ (setModu s p k v).part = s.part ∧
    (setModu s p k v).extTemp = s.extTemp ∧ (setModu s p k v).regs = s.regs ∧ (setModu s p k v).inForce = s.inForce ∧
    (setModu s p k v).evPend = s.evPend ∧ (setModu s p k v).evRaw = s.evRaw ∧ (setModu s p k v).captures = s.captures ∧
    (setModu s p k v).lastRead = s.lastRead ∧ (setModu s p k v).lastReadHi = s.lastReadHi ∧ (setModu s p k v).isl = s.isl ∧
    (setModu s p k v).pwrQueue = s.pwrQueue ∧ (setModu s p k v).weirs = s.weirs ∧ (setModu s p k v).commits = s.commits ∧
    (setModu s p k v).unnoticed = s.unnoticed ∧ (setModu s p k v).msix = s.msix ∧ (setModu s p k v).netMode4 = s.netMode4 ∧
    (setModu s p k v).mem = s.mem ∧ (setModu s p k v).ecc = s.ecc ∧ (setModu s p k v).time = s.time ∧
    (setModu s p k v).trackers = s.trackers ∧ (setModu s p k v).slots = s.slots ∧ (setModu s p k v).gpio = s.gpio ∧
    (setModu s p k v).tgen = s.tgen ∧ (setModu s p k v).shutPulses = s.shutPulses ∧ (setModu s p k v).layr = s.layr ∧
    (setModu s p k v).scal = s.scal ∧ (setModu s p k v).geom = s.geom ∧ (setModu s p k v).trim = s.trim ∧
    (setModu s p k v).fade = s.fade ∧ (setModu s p k v).eng = s.eng ∧ (setModu s p k v).codec = s.codec ∧
    (setModu s p k v).ring = s.ring ∧ (setModu s p k v).bgrp = s.bgrp ∧ (setModu s p k v).diag = s.diag ∧
    (setModu s p k v).ens = s.ens ∧ (setModu s p k v).hbm = s.hbm ∧ (setModu s p k v).bar2 = s.bar2 ∧
    (setModu s p k v).host = s.host ∧ (setModu s p k v).store = s.store ∧ (setModu s p k v).recov = s.recov ∧
    (setModu s p k v).cpm = s.cpm ∧ (setModu s p k v).last = s.last ∧ (setModu s p k v).net = s.net ∧
    (setModu s p k v).cam = s.cam ∧ (setModu s p k v).camPulses = s.camPulses ∧ (setModu s p k v).aud = s.aud ∧
    (setModu s p k v).blit = s.blit ∧ (setModu s p k v).therm = s.therm ∧ (setModu s p k v).cal = s.cal ∧
    (setModu s p k v).pins = s.pins ∧ (setModu s p k v).calDone = s.calDone :=
  ⟨rfl, rfl, rfl, rfl, rfl, rfl, rfl, rfl, rfl, rfl, rfl, rfl, rfl, rfl, rfl, rfl, rfl, rfl, rfl, rfl, rfl, rfl, rfl, rfl, rfl, rfl, rfl, rfl, rfl, rfl, rfl, rfl, rfl, rfl, rfl, rfl, rfl, rfl, rfl, rfl, rfl, rfl, rfl, rfl, rfl, rfl, rfl, rfl, rfl, rfl, rfl, rfl, rfl⟩

/-- `setHbm` writes `hbm` alone. -/
@[simp] theorem setHbm_frame (v : HbmUnit) :
    (setHbm s v).pending = s.pending ∧ (setHbm s v).free = s.free ∧ (setHbm s v).part = s.part ∧
    (setHbm s v).extTemp = s.extTemp ∧ (setHbm s v).regs = s.regs ∧ (setHbm s v).inForce = s.inForce ∧
    (setHbm s v).evPend = s.evPend ∧ (setHbm s v).evRaw = s.evRaw ∧ (setHbm s v).captures = s.captures ∧
    (setHbm s v).lastRead = s.lastRead ∧ (setHbm s v).lastReadHi = s.lastReadHi ∧ (setHbm s v).isl = s.isl ∧
    (setHbm s v).pwrQueue = s.pwrQueue ∧ (setHbm s v).weirs = s.weirs ∧ (setHbm s v).commits = s.commits ∧
    (setHbm s v).unnoticed = s.unnoticed ∧ (setHbm s v).msix = s.msix ∧ (setHbm s v).netMode4 = s.netMode4 ∧
    (setHbm s v).mem = s.mem ∧ (setHbm s v).ecc = s.ecc ∧ (setHbm s v).time = s.time ∧ (setHbm s v).trackers = s.trackers ∧
    (setHbm s v).slots = s.slots ∧ (setHbm s v).gpio = s.gpio ∧ (setHbm s v).tgen = s.tgen ∧
    (setHbm s v).shutPulses = s.shutPulses ∧ (setHbm s v).layr = s.layr ∧ (setHbm s v).scal = s.scal ∧
    (setHbm s v).geom = s.geom ∧ (setHbm s v).trim = s.trim ∧ (setHbm s v).fade = s.fade ∧ (setHbm s v).eng = s.eng ∧
    (setHbm s v).codec = s.codec ∧ (setHbm s v).ring = s.ring ∧ (setHbm s v).bgrp = s.bgrp ∧ (setHbm s v).diag = s.diag ∧
    (setHbm s v).modu = s.modu ∧ (setHbm s v).ens = s.ens ∧ (setHbm s v).bar2 = s.bar2 ∧ (setHbm s v).host = s.host ∧
    (setHbm s v).store = s.store ∧ (setHbm s v).recov = s.recov ∧ (setHbm s v).cpm = s.cpm ∧ (setHbm s v).last = s.last ∧
    (setHbm s v).net = s.net ∧ (setHbm s v).cam = s.cam ∧ (setHbm s v).camPulses = s.camPulses ∧ (setHbm s v).aud = s.aud ∧
    (setHbm s v).blit = s.blit ∧ (setHbm s v).therm = s.therm ∧ (setHbm s v).cal = s.cal ∧ (setHbm s v).pins = s.pins ∧
    (setHbm s v).calDone = s.calDone :=
  ⟨rfl, rfl, rfl, rfl, rfl, rfl, rfl, rfl, rfl, rfl, rfl, rfl, rfl, rfl, rfl, rfl, rfl, rfl, rfl, rfl, rfl, rfl, rfl, rfl, rfl, rfl, rfl, rfl, rfl, rfl, rfl, rfl, rfl, rfl, rfl, rfl, rfl, rfl, rfl, rfl, rfl, rfl, rfl, rfl, rfl, rfl, rfl, rfl, rfl, rfl, rfl, rfl, rfl⟩

/-- `setPc` writes `hbm` alone. -/
@[simp] theorem setPc_frame (n : Nat) (v : PcUnit) :
    (setPc s n v).pending = s.pending ∧ (setPc s n v).free = s.free ∧ (setPc s n v).part = s.part ∧
    (setPc s n v).extTemp = s.extTemp ∧ (setPc s n v).regs = s.regs ∧ (setPc s n v).inForce = s.inForce ∧
    (setPc s n v).evPend = s.evPend ∧ (setPc s n v).evRaw = s.evRaw ∧ (setPc s n v).captures = s.captures ∧
    (setPc s n v).lastRead = s.lastRead ∧ (setPc s n v).lastReadHi = s.lastReadHi ∧ (setPc s n v).isl = s.isl ∧
    (setPc s n v).pwrQueue = s.pwrQueue ∧ (setPc s n v).weirs = s.weirs ∧ (setPc s n v).commits = s.commits ∧
    (setPc s n v).unnoticed = s.unnoticed ∧ (setPc s n v).msix = s.msix ∧ (setPc s n v).netMode4 = s.netMode4 ∧
    (setPc s n v).mem = s.mem ∧ (setPc s n v).ecc = s.ecc ∧ (setPc s n v).time = s.time ∧
    (setPc s n v).trackers = s.trackers ∧ (setPc s n v).slots = s.slots ∧ (setPc s n v).gpio = s.gpio ∧
    (setPc s n v).tgen = s.tgen ∧ (setPc s n v).shutPulses = s.shutPulses ∧ (setPc s n v).layr = s.layr ∧
    (setPc s n v).scal = s.scal ∧ (setPc s n v).geom = s.geom ∧ (setPc s n v).trim = s.trim ∧ (setPc s n v).fade = s.fade ∧
    (setPc s n v).eng = s.eng ∧ (setPc s n v).codec = s.codec ∧ (setPc s n v).ring = s.ring ∧ (setPc s n v).bgrp = s.bgrp ∧
    (setPc s n v).diag = s.diag ∧ (setPc s n v).modu = s.modu ∧ (setPc s n v).ens = s.ens ∧ (setPc s n v).bar2 = s.bar2 ∧
    (setPc s n v).host = s.host ∧ (setPc s n v).store = s.store ∧ (setPc s n v).recov = s.recov ∧ (setPc s n v).cpm = s.cpm ∧
    (setPc s n v).last = s.last ∧ (setPc s n v).net = s.net ∧ (setPc s n v).cam = s.cam ∧
    (setPc s n v).camPulses = s.camPulses ∧ (setPc s n v).aud = s.aud ∧ (setPc s n v).blit = s.blit ∧
    (setPc s n v).therm = s.therm ∧ (setPc s n v).cal = s.cal ∧ (setPc s n v).pins = s.pins ∧
    (setPc s n v).calDone = s.calDone :=
  ⟨rfl, rfl, rfl, rfl, rfl, rfl, rfl, rfl, rfl, rfl, rfl, rfl, rfl, rfl, rfl, rfl, rfl, rfl, rfl, rfl, rfl, rfl, rfl, rfl, rfl, rfl, rfl, rfl, rfl, rfl, rfl, rfl, rfl, rfl, rfl, rfl, rfl, rfl, rfl, rfl, rfl, rfl, rfl, rfl, rfl, rfl, rfl, rfl, rfl, rfl, rfl, rfl, rfl⟩

/-- `setChan` writes `hbm` alone. -/
@[simp] theorem setChan_frame (c : Nat) (v : HbmChan) :
    (setChan s c v).pending = s.pending ∧ (setChan s c v).free = s.free ∧ (setChan s c v).part = s.part ∧
    (setChan s c v).extTemp = s.extTemp ∧ (setChan s c v).regs = s.regs ∧ (setChan s c v).inForce = s.inForce ∧
    (setChan s c v).evPend = s.evPend ∧ (setChan s c v).evRaw = s.evRaw ∧ (setChan s c v).captures = s.captures ∧
    (setChan s c v).lastRead = s.lastRead ∧ (setChan s c v).lastReadHi = s.lastReadHi ∧ (setChan s c v).isl = s.isl ∧
    (setChan s c v).pwrQueue = s.pwrQueue ∧ (setChan s c v).weirs = s.weirs ∧ (setChan s c v).commits = s.commits ∧
    (setChan s c v).unnoticed = s.unnoticed ∧ (setChan s c v).msix = s.msix ∧ (setChan s c v).netMode4 = s.netMode4 ∧
    (setChan s c v).mem = s.mem ∧ (setChan s c v).ecc = s.ecc ∧ (setChan s c v).time = s.time ∧
    (setChan s c v).trackers = s.trackers ∧ (setChan s c v).slots = s.slots ∧ (setChan s c v).gpio = s.gpio ∧
    (setChan s c v).tgen = s.tgen ∧ (setChan s c v).shutPulses = s.shutPulses ∧ (setChan s c v).layr = s.layr ∧
    (setChan s c v).scal = s.scal ∧ (setChan s c v).geom = s.geom ∧ (setChan s c v).trim = s.trim ∧
    (setChan s c v).fade = s.fade ∧ (setChan s c v).eng = s.eng ∧ (setChan s c v).codec = s.codec ∧
    (setChan s c v).ring = s.ring ∧ (setChan s c v).bgrp = s.bgrp ∧ (setChan s c v).diag = s.diag ∧
    (setChan s c v).modu = s.modu ∧ (setChan s c v).ens = s.ens ∧ (setChan s c v).bar2 = s.bar2 ∧
    (setChan s c v).host = s.host ∧ (setChan s c v).store = s.store ∧ (setChan s c v).recov = s.recov ∧
    (setChan s c v).cpm = s.cpm ∧ (setChan s c v).last = s.last ∧ (setChan s c v).net = s.net ∧ (setChan s c v).cam = s.cam ∧
    (setChan s c v).camPulses = s.camPulses ∧ (setChan s c v).aud = s.aud ∧ (setChan s c v).blit = s.blit ∧
    (setChan s c v).therm = s.therm ∧ (setChan s c v).cal = s.cal ∧ (setChan s c v).pins = s.pins ∧
    (setChan s c v).calDone = s.calDone :=
  ⟨rfl, rfl, rfl, rfl, rfl, rfl, rfl, rfl, rfl, rfl, rfl, rfl, rfl, rfl, rfl, rfl, rfl, rfl, rfl, rfl, rfl, rfl, rfl, rfl, rfl, rfl, rfl, rfl, rfl, rfl, rfl, rfl, rfl, rfl, rfl, rfl, rfl, rfl, rfl, rfl, rfl, rfl, rfl, rfl, rfl, rfl, rfl, rfl, rfl, rfl, rfl, rfl, rfl⟩

/-- `setWeir` writes `weirs` alone. -/
@[simp] theorem setWeir_frame (w : Nat) (v : Weir) :
    (setWeir s w v).pending = s.pending ∧ (setWeir s w v).free = s.free ∧ (setWeir s w v).part = s.part ∧
    (setWeir s w v).extTemp = s.extTemp ∧ (setWeir s w v).regs = s.regs ∧ (setWeir s w v).inForce = s.inForce ∧
    (setWeir s w v).evPend = s.evPend ∧ (setWeir s w v).evRaw = s.evRaw ∧ (setWeir s w v).captures = s.captures ∧
    (setWeir s w v).lastRead = s.lastRead ∧ (setWeir s w v).lastReadHi = s.lastReadHi ∧ (setWeir s w v).isl = s.isl ∧
    (setWeir s w v).pwrQueue = s.pwrQueue ∧ (setWeir s w v).commits = s.commits ∧ (setWeir s w v).unnoticed = s.unnoticed ∧
    (setWeir s w v).msix = s.msix ∧ (setWeir s w v).netMode4 = s.netMode4 ∧ (setWeir s w v).mem = s.mem ∧
    (setWeir s w v).ecc = s.ecc ∧ (setWeir s w v).time = s.time ∧ (setWeir s w v).trackers = s.trackers ∧
    (setWeir s w v).slots = s.slots ∧ (setWeir s w v).gpio = s.gpio ∧ (setWeir s w v).tgen = s.tgen ∧
    (setWeir s w v).shutPulses = s.shutPulses ∧ (setWeir s w v).layr = s.layr ∧ (setWeir s w v).scal = s.scal ∧
    (setWeir s w v).geom = s.geom ∧ (setWeir s w v).trim = s.trim ∧ (setWeir s w v).fade = s.fade ∧
    (setWeir s w v).eng = s.eng ∧ (setWeir s w v).codec = s.codec ∧ (setWeir s w v).ring = s.ring ∧
    (setWeir s w v).bgrp = s.bgrp ∧ (setWeir s w v).diag = s.diag ∧ (setWeir s w v).modu = s.modu ∧
    (setWeir s w v).ens = s.ens ∧ (setWeir s w v).hbm = s.hbm ∧ (setWeir s w v).bar2 = s.bar2 ∧
    (setWeir s w v).host = s.host ∧ (setWeir s w v).store = s.store ∧ (setWeir s w v).recov = s.recov ∧
    (setWeir s w v).cpm = s.cpm ∧ (setWeir s w v).last = s.last ∧ (setWeir s w v).net = s.net ∧ (setWeir s w v).cam = s.cam ∧
    (setWeir s w v).camPulses = s.camPulses ∧ (setWeir s w v).aud = s.aud ∧ (setWeir s w v).blit = s.blit ∧
    (setWeir s w v).therm = s.therm ∧ (setWeir s w v).cal = s.cal ∧ (setWeir s w v).pins = s.pins ∧
    (setWeir s w v).calDone = s.calDone :=
  ⟨rfl, rfl, rfl, rfl, rfl, rfl, rfl, rfl, rfl, rfl, rfl, rfl, rfl, rfl, rfl, rfl, rfl, rfl, rfl, rfl, rfl, rfl, rfl, rfl, rfl, rfl, rfl, rfl, rfl, rfl, rfl, rfl, rfl, rfl, rfl, rfl, rfl, rfl, rfl, rfl, rfl, rfl, rfl, rfl, rfl, rfl, rfl, rfl, rfl, rfl, rfl, rfl, rfl⟩

/-- `setHost` writes `host` alone. -/
@[simp] theorem setHost_frame (v : HostUnit) :
    (setHost s v).pending = s.pending ∧ (setHost s v).free = s.free ∧ (setHost s v).part = s.part ∧
    (setHost s v).extTemp = s.extTemp ∧ (setHost s v).regs = s.regs ∧ (setHost s v).inForce = s.inForce ∧
    (setHost s v).evPend = s.evPend ∧ (setHost s v).evRaw = s.evRaw ∧ (setHost s v).captures = s.captures ∧
    (setHost s v).lastRead = s.lastRead ∧ (setHost s v).lastReadHi = s.lastReadHi ∧ (setHost s v).isl = s.isl ∧
    (setHost s v).pwrQueue = s.pwrQueue ∧ (setHost s v).weirs = s.weirs ∧ (setHost s v).commits = s.commits ∧
    (setHost s v).unnoticed = s.unnoticed ∧ (setHost s v).msix = s.msix ∧ (setHost s v).netMode4 = s.netMode4 ∧
    (setHost s v).mem = s.mem ∧ (setHost s v).ecc = s.ecc ∧ (setHost s v).time = s.time ∧
    (setHost s v).trackers = s.trackers ∧ (setHost s v).slots = s.slots ∧ (setHost s v).gpio = s.gpio ∧
    (setHost s v).tgen = s.tgen ∧ (setHost s v).shutPulses = s.shutPulses ∧ (setHost s v).layr = s.layr ∧
    (setHost s v).scal = s.scal ∧ (setHost s v).geom = s.geom ∧ (setHost s v).trim = s.trim ∧ (setHost s v).fade = s.fade ∧
    (setHost s v).eng = s.eng ∧ (setHost s v).codec = s.codec ∧ (setHost s v).ring = s.ring ∧ (setHost s v).bgrp = s.bgrp ∧
    (setHost s v).diag = s.diag ∧ (setHost s v).modu = s.modu ∧ (setHost s v).ens = s.ens ∧ (setHost s v).hbm = s.hbm ∧
    (setHost s v).bar2 = s.bar2 ∧ (setHost s v).store = s.store ∧ (setHost s v).recov = s.recov ∧ (setHost s v).cpm = s.cpm ∧
    (setHost s v).last = s.last ∧ (setHost s v).net = s.net ∧ (setHost s v).cam = s.cam ∧
    (setHost s v).camPulses = s.camPulses ∧ (setHost s v).aud = s.aud ∧ (setHost s v).blit = s.blit ∧
    (setHost s v).therm = s.therm ∧ (setHost s v).cal = s.cal ∧ (setHost s v).pins = s.pins ∧
    (setHost s v).calDone = s.calDone :=
  ⟨rfl, rfl, rfl, rfl, rfl, rfl, rfl, rfl, rfl, rfl, rfl, rfl, rfl, rfl, rfl, rfl, rfl, rfl, rfl, rfl, rfl, rfl, rfl, rfl, rfl, rfl, rfl, rfl, rfl, rfl, rfl, rfl, rfl, rfl, rfl, rfl, rfl, rfl, rfl, rfl, rfl, rfl, rfl, rfl, rfl, rfl, rfl, rfl, rfl, rfl, rfl, rfl, rfl⟩

/-- `setDma` writes `host` alone. -/
@[simp] theorem setDma_frame (c : Nat) (j : Option DmaJob) :
    (setDma s c j).pending = s.pending ∧ (setDma s c j).free = s.free ∧ (setDma s c j).part = s.part ∧
    (setDma s c j).extTemp = s.extTemp ∧ (setDma s c j).regs = s.regs ∧ (setDma s c j).inForce = s.inForce ∧
    (setDma s c j).evPend = s.evPend ∧ (setDma s c j).evRaw = s.evRaw ∧ (setDma s c j).captures = s.captures ∧
    (setDma s c j).lastRead = s.lastRead ∧ (setDma s c j).lastReadHi = s.lastReadHi ∧ (setDma s c j).isl = s.isl ∧
    (setDma s c j).pwrQueue = s.pwrQueue ∧ (setDma s c j).weirs = s.weirs ∧ (setDma s c j).commits = s.commits ∧
    (setDma s c j).unnoticed = s.unnoticed ∧ (setDma s c j).msix = s.msix ∧ (setDma s c j).netMode4 = s.netMode4 ∧
    (setDma s c j).mem = s.mem ∧ (setDma s c j).ecc = s.ecc ∧ (setDma s c j).time = s.time ∧
    (setDma s c j).trackers = s.trackers ∧ (setDma s c j).slots = s.slots ∧ (setDma s c j).gpio = s.gpio ∧
    (setDma s c j).tgen = s.tgen ∧ (setDma s c j).shutPulses = s.shutPulses ∧ (setDma s c j).layr = s.layr ∧
    (setDma s c j).scal = s.scal ∧ (setDma s c j).geom = s.geom ∧ (setDma s c j).trim = s.trim ∧
    (setDma s c j).fade = s.fade ∧ (setDma s c j).eng = s.eng ∧ (setDma s c j).codec = s.codec ∧
    (setDma s c j).ring = s.ring ∧ (setDma s c j).bgrp = s.bgrp ∧ (setDma s c j).diag = s.diag ∧
    (setDma s c j).modu = s.modu ∧ (setDma s c j).ens = s.ens ∧ (setDma s c j).hbm = s.hbm ∧ (setDma s c j).bar2 = s.bar2 ∧
    (setDma s c j).store = s.store ∧ (setDma s c j).recov = s.recov ∧ (setDma s c j).cpm = s.cpm ∧
    (setDma s c j).last = s.last ∧ (setDma s c j).net = s.net ∧ (setDma s c j).cam = s.cam ∧
    (setDma s c j).camPulses = s.camPulses ∧ (setDma s c j).aud = s.aud ∧ (setDma s c j).blit = s.blit ∧
    (setDma s c j).therm = s.therm ∧ (setDma s c j).cal = s.cal ∧ (setDma s c j).pins = s.pins ∧
    (setDma s c j).calDone = s.calDone :=
  ⟨rfl, rfl, rfl, rfl, rfl, rfl, rfl, rfl, rfl, rfl, rfl, rfl, rfl, rfl, rfl, rfl, rfl, rfl, rfl, rfl, rfl, rfl, rfl, rfl, rfl, rfl, rfl, rfl, rfl, rfl, rfl, rfl, rfl, rfl, rfl, rfl, rfl, rfl, rfl, rfl, rfl, rfl, rfl, rfl, rfl, rfl, rfl, rfl, rfl, rfl, rfl, rfl, rfl⟩

/-- `setStore` writes `store` alone. -/
@[simp] theorem setStore_frame (v : StoreUnit) :
    (setStore s v).pending = s.pending ∧ (setStore s v).free = s.free ∧ (setStore s v).part = s.part ∧
    (setStore s v).extTemp = s.extTemp ∧ (setStore s v).regs = s.regs ∧ (setStore s v).inForce = s.inForce ∧
    (setStore s v).evPend = s.evPend ∧ (setStore s v).evRaw = s.evRaw ∧ (setStore s v).captures = s.captures ∧
    (setStore s v).lastRead = s.lastRead ∧ (setStore s v).lastReadHi = s.lastReadHi ∧ (setStore s v).isl = s.isl ∧
    (setStore s v).pwrQueue = s.pwrQueue ∧ (setStore s v).weirs = s.weirs ∧ (setStore s v).commits = s.commits ∧
    (setStore s v).unnoticed = s.unnoticed ∧ (setStore s v).msix = s.msix ∧ (setStore s v).netMode4 = s.netMode4 ∧
    (setStore s v).mem = s.mem ∧ (setStore s v).ecc = s.ecc ∧ (setStore s v).time = s.time ∧
    (setStore s v).trackers = s.trackers ∧ (setStore s v).slots = s.slots ∧ (setStore s v).gpio = s.gpio ∧
    (setStore s v).tgen = s.tgen ∧ (setStore s v).shutPulses = s.shutPulses ∧ (setStore s v).layr = s.layr ∧
    (setStore s v).scal = s.scal ∧ (setStore s v).geom = s.geom ∧ (setStore s v).trim = s.trim ∧
    (setStore s v).fade = s.fade ∧ (setStore s v).eng = s.eng ∧ (setStore s v).codec = s.codec ∧
    (setStore s v).ring = s.ring ∧ (setStore s v).bgrp = s.bgrp ∧ (setStore s v).diag = s.diag ∧
    (setStore s v).modu = s.modu ∧ (setStore s v).ens = s.ens ∧ (setStore s v).hbm = s.hbm ∧ (setStore s v).bar2 = s.bar2 ∧
    (setStore s v).host = s.host ∧ (setStore s v).recov = s.recov ∧ (setStore s v).cpm = s.cpm ∧
    (setStore s v).last = s.last ∧ (setStore s v).net = s.net ∧ (setStore s v).cam = s.cam ∧
    (setStore s v).camPulses = s.camPulses ∧ (setStore s v).aud = s.aud ∧ (setStore s v).blit = s.blit ∧
    (setStore s v).therm = s.therm ∧ (setStore s v).cal = s.cal ∧ (setStore s v).pins = s.pins ∧
    (setStore s v).calDone = s.calDone :=
  ⟨rfl, rfl, rfl, rfl, rfl, rfl, rfl, rfl, rfl, rfl, rfl, rfl, rfl, rfl, rfl, rfl, rfl, rfl, rfl, rfl, rfl, rfl, rfl, rfl, rfl, rfl, rfl, rfl, rfl, rfl, rfl, rfl, rfl, rfl, rfl, rfl, rfl, rfl, rfl, rfl, rfl, rfl, rfl, rfl, rfl, rfl, rfl, rfl, rfl, rfl, rfl, rfl, rfl⟩

/-- `setDrv` writes `store` alone. -/
@[simp] theorem setDrv_frame (d : Nat) (v : Drive) :
    (setDrv s d v).pending = s.pending ∧ (setDrv s d v).free = s.free ∧ (setDrv s d v).part = s.part ∧
    (setDrv s d v).extTemp = s.extTemp ∧ (setDrv s d v).regs = s.regs ∧ (setDrv s d v).inForce = s.inForce ∧
    (setDrv s d v).evPend = s.evPend ∧ (setDrv s d v).evRaw = s.evRaw ∧ (setDrv s d v).captures = s.captures ∧
    (setDrv s d v).lastRead = s.lastRead ∧ (setDrv s d v).lastReadHi = s.lastReadHi ∧ (setDrv s d v).isl = s.isl ∧
    (setDrv s d v).pwrQueue = s.pwrQueue ∧ (setDrv s d v).weirs = s.weirs ∧ (setDrv s d v).commits = s.commits ∧
    (setDrv s d v).unnoticed = s.unnoticed ∧ (setDrv s d v).msix = s.msix ∧ (setDrv s d v).netMode4 = s.netMode4 ∧
    (setDrv s d v).mem = s.mem ∧ (setDrv s d v).ecc = s.ecc ∧ (setDrv s d v).time = s.time ∧
    (setDrv s d v).trackers = s.trackers ∧ (setDrv s d v).slots = s.slots ∧ (setDrv s d v).gpio = s.gpio ∧
    (setDrv s d v).tgen = s.tgen ∧ (setDrv s d v).shutPulses = s.shutPulses ∧ (setDrv s d v).layr = s.layr ∧
    (setDrv s d v).scal = s.scal ∧ (setDrv s d v).geom = s.geom ∧ (setDrv s d v).trim = s.trim ∧
    (setDrv s d v).fade = s.fade ∧ (setDrv s d v).eng = s.eng ∧ (setDrv s d v).codec = s.codec ∧
    (setDrv s d v).ring = s.ring ∧ (setDrv s d v).bgrp = s.bgrp ∧ (setDrv s d v).diag = s.diag ∧
    (setDrv s d v).modu = s.modu ∧ (setDrv s d v).ens = s.ens ∧ (setDrv s d v).hbm = s.hbm ∧ (setDrv s d v).bar2 = s.bar2 ∧
    (setDrv s d v).host = s.host ∧ (setDrv s d v).recov = s.recov ∧ (setDrv s d v).cpm = s.cpm ∧
    (setDrv s d v).last = s.last ∧ (setDrv s d v).net = s.net ∧ (setDrv s d v).cam = s.cam ∧
    (setDrv s d v).camPulses = s.camPulses ∧ (setDrv s d v).aud = s.aud ∧ (setDrv s d v).blit = s.blit ∧
    (setDrv s d v).therm = s.therm ∧ (setDrv s d v).cal = s.cal ∧ (setDrv s d v).pins = s.pins ∧
    (setDrv s d v).calDone = s.calDone :=
  ⟨rfl, rfl, rfl, rfl, rfl, rfl, rfl, rfl, rfl, rfl, rfl, rfl, rfl, rfl, rfl, rfl, rfl, rfl, rfl, rfl, rfl, rfl, rfl, rfl, rfl, rfl, rfl, rfl, rfl, rfl, rfl, rfl, rfl, rfl, rfl, rfl, rfl, rfl, rfl, rfl, rfl, rfl, rfl, rfl, rfl, rfl, rfl, rfl, rfl, rfl, rfl, rfl, rfl⟩

/-- `setStr` writes `store` alone. -/
@[simp] theorem setStr_frame (i : Nat) (v : Stream) :
    (setStr s i v).pending = s.pending ∧ (setStr s i v).free = s.free ∧ (setStr s i v).part = s.part ∧
    (setStr s i v).extTemp = s.extTemp ∧ (setStr s i v).regs = s.regs ∧ (setStr s i v).inForce = s.inForce ∧
    (setStr s i v).evPend = s.evPend ∧ (setStr s i v).evRaw = s.evRaw ∧ (setStr s i v).captures = s.captures ∧
    (setStr s i v).lastRead = s.lastRead ∧ (setStr s i v).lastReadHi = s.lastReadHi ∧ (setStr s i v).isl = s.isl ∧
    (setStr s i v).pwrQueue = s.pwrQueue ∧ (setStr s i v).weirs = s.weirs ∧ (setStr s i v).commits = s.commits ∧
    (setStr s i v).unnoticed = s.unnoticed ∧ (setStr s i v).msix = s.msix ∧ (setStr s i v).netMode4 = s.netMode4 ∧
    (setStr s i v).mem = s.mem ∧ (setStr s i v).ecc = s.ecc ∧ (setStr s i v).time = s.time ∧
    (setStr s i v).trackers = s.trackers ∧ (setStr s i v).slots = s.slots ∧ (setStr s i v).gpio = s.gpio ∧
    (setStr s i v).tgen = s.tgen ∧ (setStr s i v).shutPulses = s.shutPulses ∧ (setStr s i v).layr = s.layr ∧
    (setStr s i v).scal = s.scal ∧ (setStr s i v).geom = s.geom ∧ (setStr s i v).trim = s.trim ∧
    (setStr s i v).fade = s.fade ∧ (setStr s i v).eng = s.eng ∧ (setStr s i v).codec = s.codec ∧
    (setStr s i v).ring = s.ring ∧ (setStr s i v).bgrp = s.bgrp ∧ (setStr s i v).diag = s.diag ∧
    (setStr s i v).modu = s.modu ∧ (setStr s i v).ens = s.ens ∧ (setStr s i v).hbm = s.hbm ∧ (setStr s i v).bar2 = s.bar2 ∧
    (setStr s i v).host = s.host ∧ (setStr s i v).recov = s.recov ∧ (setStr s i v).cpm = s.cpm ∧
    (setStr s i v).last = s.last ∧ (setStr s i v).net = s.net ∧ (setStr s i v).cam = s.cam ∧
    (setStr s i v).camPulses = s.camPulses ∧ (setStr s i v).aud = s.aud ∧ (setStr s i v).blit = s.blit ∧
    (setStr s i v).therm = s.therm ∧ (setStr s i v).cal = s.cal ∧ (setStr s i v).pins = s.pins ∧
    (setStr s i v).calDone = s.calDone :=
  ⟨rfl, rfl, rfl, rfl, rfl, rfl, rfl, rfl, rfl, rfl, rfl, rfl, rfl, rfl, rfl, rfl, rfl, rfl, rfl, rfl, rfl, rfl, rfl, rfl, rfl, rfl, rfl, rfl, rfl, rfl, rfl, rfl, rfl, rfl, rfl, rfl, rfl, rfl, rfl, rfl, rfl, rfl, rfl, rfl, rfl, rfl, rfl, rfl, rfl, rfl, rfl, rfl, rfl⟩

/-- `setCmd` writes `store` alone. -/
@[simp] theorem setCmd_frame (k : Nat) (v : Option NvmeCmd) :
    (setCmd s k v).pending = s.pending ∧ (setCmd s k v).free = s.free ∧ (setCmd s k v).part = s.part ∧
    (setCmd s k v).extTemp = s.extTemp ∧ (setCmd s k v).regs = s.regs ∧ (setCmd s k v).inForce = s.inForce ∧
    (setCmd s k v).evPend = s.evPend ∧ (setCmd s k v).evRaw = s.evRaw ∧ (setCmd s k v).captures = s.captures ∧
    (setCmd s k v).lastRead = s.lastRead ∧ (setCmd s k v).lastReadHi = s.lastReadHi ∧ (setCmd s k v).isl = s.isl ∧
    (setCmd s k v).pwrQueue = s.pwrQueue ∧ (setCmd s k v).weirs = s.weirs ∧ (setCmd s k v).commits = s.commits ∧
    (setCmd s k v).unnoticed = s.unnoticed ∧ (setCmd s k v).msix = s.msix ∧ (setCmd s k v).netMode4 = s.netMode4 ∧
    (setCmd s k v).mem = s.mem ∧ (setCmd s k v).ecc = s.ecc ∧ (setCmd s k v).time = s.time ∧
    (setCmd s k v).trackers = s.trackers ∧ (setCmd s k v).slots = s.slots ∧ (setCmd s k v).gpio = s.gpio ∧
    (setCmd s k v).tgen = s.tgen ∧ (setCmd s k v).shutPulses = s.shutPulses ∧ (setCmd s k v).layr = s.layr ∧
    (setCmd s k v).scal = s.scal ∧ (setCmd s k v).geom = s.geom ∧ (setCmd s k v).trim = s.trim ∧
    (setCmd s k v).fade = s.fade ∧ (setCmd s k v).eng = s.eng ∧ (setCmd s k v).codec = s.codec ∧
    (setCmd s k v).ring = s.ring ∧ (setCmd s k v).bgrp = s.bgrp ∧ (setCmd s k v).diag = s.diag ∧
    (setCmd s k v).modu = s.modu ∧ (setCmd s k v).ens = s.ens ∧ (setCmd s k v).hbm = s.hbm ∧ (setCmd s k v).bar2 = s.bar2 ∧
    (setCmd s k v).host = s.host ∧ (setCmd s k v).recov = s.recov ∧ (setCmd s k v).cpm = s.cpm ∧
    (setCmd s k v).last = s.last ∧ (setCmd s k v).net = s.net ∧ (setCmd s k v).cam = s.cam ∧
    (setCmd s k v).camPulses = s.camPulses ∧ (setCmd s k v).aud = s.aud ∧ (setCmd s k v).blit = s.blit ∧
    (setCmd s k v).therm = s.therm ∧ (setCmd s k v).cal = s.cal ∧ (setCmd s k v).pins = s.pins ∧
    (setCmd s k v).calDone = s.calDone :=
  ⟨rfl, rfl, rfl, rfl, rfl, rfl, rfl, rfl, rfl, rfl, rfl, rfl, rfl, rfl, rfl, rfl, rfl, rfl, rfl, rfl, rfl, rfl, rfl, rfl, rfl, rfl, rfl, rfl, rfl, rfl, rfl, rfl, rfl, rfl, rfl, rfl, rfl, rfl, rfl, rfl, rfl, rfl, rfl, rfl, rfl, rfl, rfl, rfl, rfl, rfl, rfl, rfl, rfl⟩

/-- `setCpm` writes `cpm` alone. -/
@[simp] theorem setCpm_frame (v : Cpm) :
    (setCpm s v).pending = s.pending ∧ (setCpm s v).free = s.free ∧ (setCpm s v).part = s.part ∧
    (setCpm s v).extTemp = s.extTemp ∧ (setCpm s v).regs = s.regs ∧ (setCpm s v).inForce = s.inForce ∧
    (setCpm s v).evPend = s.evPend ∧ (setCpm s v).evRaw = s.evRaw ∧ (setCpm s v).captures = s.captures ∧
    (setCpm s v).lastRead = s.lastRead ∧ (setCpm s v).lastReadHi = s.lastReadHi ∧ (setCpm s v).isl = s.isl ∧
    (setCpm s v).pwrQueue = s.pwrQueue ∧ (setCpm s v).weirs = s.weirs ∧ (setCpm s v).commits = s.commits ∧
    (setCpm s v).unnoticed = s.unnoticed ∧ (setCpm s v).msix = s.msix ∧ (setCpm s v).netMode4 = s.netMode4 ∧
    (setCpm s v).mem = s.mem ∧ (setCpm s v).ecc = s.ecc ∧ (setCpm s v).time = s.time ∧ (setCpm s v).trackers = s.trackers ∧
    (setCpm s v).slots = s.slots ∧ (setCpm s v).gpio = s.gpio ∧ (setCpm s v).tgen = s.tgen ∧
    (setCpm s v).shutPulses = s.shutPulses ∧ (setCpm s v).layr = s.layr ∧ (setCpm s v).scal = s.scal ∧
    (setCpm s v).geom = s.geom ∧ (setCpm s v).trim = s.trim ∧ (setCpm s v).fade = s.fade ∧ (setCpm s v).eng = s.eng ∧
    (setCpm s v).codec = s.codec ∧ (setCpm s v).ring = s.ring ∧ (setCpm s v).bgrp = s.bgrp ∧ (setCpm s v).diag = s.diag ∧
    (setCpm s v).modu = s.modu ∧ (setCpm s v).ens = s.ens ∧ (setCpm s v).hbm = s.hbm ∧ (setCpm s v).bar2 = s.bar2 ∧
    (setCpm s v).host = s.host ∧ (setCpm s v).store = s.store ∧ (setCpm s v).recov = s.recov ∧ (setCpm s v).last = s.last ∧
    (setCpm s v).net = s.net ∧ (setCpm s v).cam = s.cam ∧ (setCpm s v).camPulses = s.camPulses ∧ (setCpm s v).aud = s.aud ∧
    (setCpm s v).blit = s.blit ∧ (setCpm s v).therm = s.therm ∧ (setCpm s v).cal = s.cal ∧ (setCpm s v).pins = s.pins ∧
    (setCpm s v).calDone = s.calDone :=
  ⟨rfl, rfl, rfl, rfl, rfl, rfl, rfl, rfl, rfl, rfl, rfl, rfl, rfl, rfl, rfl, rfl, rfl, rfl, rfl, rfl, rfl, rfl, rfl, rfl, rfl, rfl, rfl, rfl, rfl, rfl, rfl, rfl, rfl, rfl, rfl, rfl, rfl, rfl, rfl, rfl, rfl, rfl, rfl, rfl, rfl, rfl, rfl, rfl, rfl, rfl, rfl, rfl, rfl⟩

/-- `setLast` writes `last` alone. -/
@[simp] theorem setLast_frame (v : Lasting) :
    (setLast s v).pending = s.pending ∧ (setLast s v).free = s.free ∧ (setLast s v).part = s.part ∧
    (setLast s v).extTemp = s.extTemp ∧ (setLast s v).regs = s.regs ∧ (setLast s v).inForce = s.inForce ∧
    (setLast s v).evPend = s.evPend ∧ (setLast s v).evRaw = s.evRaw ∧ (setLast s v).captures = s.captures ∧
    (setLast s v).lastRead = s.lastRead ∧ (setLast s v).lastReadHi = s.lastReadHi ∧ (setLast s v).isl = s.isl ∧
    (setLast s v).pwrQueue = s.pwrQueue ∧ (setLast s v).weirs = s.weirs ∧ (setLast s v).commits = s.commits ∧
    (setLast s v).unnoticed = s.unnoticed ∧ (setLast s v).msix = s.msix ∧ (setLast s v).netMode4 = s.netMode4 ∧
    (setLast s v).mem = s.mem ∧ (setLast s v).ecc = s.ecc ∧ (setLast s v).time = s.time ∧
    (setLast s v).trackers = s.trackers ∧ (setLast s v).slots = s.slots ∧ (setLast s v).gpio = s.gpio ∧
    (setLast s v).tgen = s.tgen ∧ (setLast s v).shutPulses = s.shutPulses ∧ (setLast s v).layr = s.layr ∧
    (setLast s v).scal = s.scal ∧ (setLast s v).geom = s.geom ∧ (setLast s v).trim = s.trim ∧ (setLast s v).fade = s.fade ∧
    (setLast s v).eng = s.eng ∧ (setLast s v).codec = s.codec ∧ (setLast s v).ring = s.ring ∧ (setLast s v).bgrp = s.bgrp ∧
    (setLast s v).diag = s.diag ∧ (setLast s v).modu = s.modu ∧ (setLast s v).ens = s.ens ∧ (setLast s v).hbm = s.hbm ∧
    (setLast s v).bar2 = s.bar2 ∧ (setLast s v).host = s.host ∧ (setLast s v).store = s.store ∧
    (setLast s v).recov = s.recov ∧ (setLast s v).cpm = s.cpm ∧ (setLast s v).net = s.net ∧ (setLast s v).cam = s.cam ∧
    (setLast s v).camPulses = s.camPulses ∧ (setLast s v).aud = s.aud ∧ (setLast s v).blit = s.blit ∧
    (setLast s v).therm = s.therm ∧ (setLast s v).cal = s.cal ∧ (setLast s v).pins = s.pins ∧
    (setLast s v).calDone = s.calDone :=
  ⟨rfl, rfl, rfl, rfl, rfl, rfl, rfl, rfl, rfl, rfl, rfl, rfl, rfl, rfl, rfl, rfl, rfl, rfl, rfl, rfl, rfl, rfl, rfl, rfl, rfl, rfl, rfl, rfl, rfl, rfl, rfl, rfl, rfl, rfl, rfl, rfl, rfl, rfl, rfl, rfl, rfl, rfl, rfl, rfl, rfl, rfl, rfl, rfl, rfl, rfl, rfl, rfl, rfl⟩

/-- `setNet` writes `net` alone. -/
@[simp] theorem setNet_frame (v : NetUnit) :
    (setNet s v).pending = s.pending ∧ (setNet s v).free = s.free ∧ (setNet s v).part = s.part ∧
    (setNet s v).extTemp = s.extTemp ∧ (setNet s v).regs = s.regs ∧ (setNet s v).inForce = s.inForce ∧
    (setNet s v).evPend = s.evPend ∧ (setNet s v).evRaw = s.evRaw ∧ (setNet s v).captures = s.captures ∧
    (setNet s v).lastRead = s.lastRead ∧ (setNet s v).lastReadHi = s.lastReadHi ∧ (setNet s v).isl = s.isl ∧
    (setNet s v).pwrQueue = s.pwrQueue ∧ (setNet s v).weirs = s.weirs ∧ (setNet s v).commits = s.commits ∧
    (setNet s v).unnoticed = s.unnoticed ∧ (setNet s v).msix = s.msix ∧ (setNet s v).netMode4 = s.netMode4 ∧
    (setNet s v).mem = s.mem ∧ (setNet s v).ecc = s.ecc ∧ (setNet s v).time = s.time ∧ (setNet s v).trackers = s.trackers ∧
    (setNet s v).slots = s.slots ∧ (setNet s v).gpio = s.gpio ∧ (setNet s v).tgen = s.tgen ∧
    (setNet s v).shutPulses = s.shutPulses ∧ (setNet s v).layr = s.layr ∧ (setNet s v).scal = s.scal ∧
    (setNet s v).geom = s.geom ∧ (setNet s v).trim = s.trim ∧ (setNet s v).fade = s.fade ∧ (setNet s v).eng = s.eng ∧
    (setNet s v).codec = s.codec ∧ (setNet s v).ring = s.ring ∧ (setNet s v).bgrp = s.bgrp ∧ (setNet s v).diag = s.diag ∧
    (setNet s v).modu = s.modu ∧ (setNet s v).ens = s.ens ∧ (setNet s v).hbm = s.hbm ∧ (setNet s v).bar2 = s.bar2 ∧
    (setNet s v).host = s.host ∧ (setNet s v).store = s.store ∧ (setNet s v).recov = s.recov ∧ (setNet s v).cpm = s.cpm ∧
    (setNet s v).last = s.last ∧ (setNet s v).cam = s.cam ∧ (setNet s v).camPulses = s.camPulses ∧ (setNet s v).aud = s.aud ∧
    (setNet s v).blit = s.blit ∧ (setNet s v).therm = s.therm ∧ (setNet s v).cal = s.cal ∧ (setNet s v).pins = s.pins ∧
    (setNet s v).calDone = s.calDone :=
  ⟨rfl, rfl, rfl, rfl, rfl, rfl, rfl, rfl, rfl, rfl, rfl, rfl, rfl, rfl, rfl, rfl, rfl, rfl, rfl, rfl, rfl, rfl, rfl, rfl, rfl, rfl, rfl, rfl, rfl, rfl, rfl, rfl, rfl, rfl, rfl, rfl, rfl, rfl, rfl, rfl, rfl, rfl, rfl, rfl, rfl, rfl, rfl, rfl, rfl, rfl, rfl, rfl, rfl⟩

/-- `setPort` writes `net` alone. -/
@[simp] theorem setPort_frame (n : Nat) (v : NetPort) :
    (setPort s n v).pending = s.pending ∧ (setPort s n v).free = s.free ∧ (setPort s n v).part = s.part ∧
    (setPort s n v).extTemp = s.extTemp ∧ (setPort s n v).regs = s.regs ∧ (setPort s n v).inForce = s.inForce ∧
    (setPort s n v).evPend = s.evPend ∧ (setPort s n v).evRaw = s.evRaw ∧ (setPort s n v).captures = s.captures ∧
    (setPort s n v).lastRead = s.lastRead ∧ (setPort s n v).lastReadHi = s.lastReadHi ∧ (setPort s n v).isl = s.isl ∧
    (setPort s n v).pwrQueue = s.pwrQueue ∧ (setPort s n v).weirs = s.weirs ∧ (setPort s n v).commits = s.commits ∧
    (setPort s n v).unnoticed = s.unnoticed ∧ (setPort s n v).msix = s.msix ∧ (setPort s n v).netMode4 = s.netMode4 ∧
    (setPort s n v).mem = s.mem ∧ (setPort s n v).ecc = s.ecc ∧ (setPort s n v).time = s.time ∧
    (setPort s n v).trackers = s.trackers ∧ (setPort s n v).slots = s.slots ∧ (setPort s n v).gpio = s.gpio ∧
    (setPort s n v).tgen = s.tgen ∧ (setPort s n v).shutPulses = s.shutPulses ∧ (setPort s n v).layr = s.layr ∧
    (setPort s n v).scal = s.scal ∧ (setPort s n v).geom = s.geom ∧ (setPort s n v).trim = s.trim ∧
    (setPort s n v).fade = s.fade ∧ (setPort s n v).eng = s.eng ∧ (setPort s n v).codec = s.codec ∧
    (setPort s n v).ring = s.ring ∧ (setPort s n v).bgrp = s.bgrp ∧ (setPort s n v).diag = s.diag ∧
    (setPort s n v).modu = s.modu ∧ (setPort s n v).ens = s.ens ∧ (setPort s n v).hbm = s.hbm ∧
    (setPort s n v).bar2 = s.bar2 ∧ (setPort s n v).host = s.host ∧ (setPort s n v).store = s.store ∧
    (setPort s n v).recov = s.recov ∧ (setPort s n v).cpm = s.cpm ∧ (setPort s n v).last = s.last ∧
    (setPort s n v).cam = s.cam ∧ (setPort s n v).camPulses = s.camPulses ∧ (setPort s n v).aud = s.aud ∧
    (setPort s n v).blit = s.blit ∧ (setPort s n v).therm = s.therm ∧ (setPort s n v).cal = s.cal ∧
    (setPort s n v).pins = s.pins ∧ (setPort s n v).calDone = s.calDone :=
  ⟨rfl, rfl, rfl, rfl, rfl, rfl, rfl, rfl, rfl, rfl, rfl, rfl, rfl, rfl, rfl, rfl, rfl, rfl, rfl, rfl, rfl, rfl, rfl, rfl, rfl, rfl, rfl, rfl, rfl, rfl, rfl, rfl, rfl, rfl, rfl, rfl, rfl, rfl, rfl, rfl, rfl, rfl, rfl, rfl, rfl, rfl, rfl, rfl, rfl, rfl, rfl, rfl, rfl⟩

/-- `setFlow` writes `net` alone. -/
@[simp] theorem setFlow_frame (f : Nat) (v : Flow) :
    (setFlow s f v).pending = s.pending ∧ (setFlow s f v).free = s.free ∧ (setFlow s f v).part = s.part ∧
    (setFlow s f v).extTemp = s.extTemp ∧ (setFlow s f v).regs = s.regs ∧ (setFlow s f v).inForce = s.inForce ∧
    (setFlow s f v).evPend = s.evPend ∧ (setFlow s f v).evRaw = s.evRaw ∧ (setFlow s f v).captures = s.captures ∧
    (setFlow s f v).lastRead = s.lastRead ∧ (setFlow s f v).lastReadHi = s.lastReadHi ∧ (setFlow s f v).isl = s.isl ∧
    (setFlow s f v).pwrQueue = s.pwrQueue ∧ (setFlow s f v).weirs = s.weirs ∧ (setFlow s f v).commits = s.commits ∧
    (setFlow s f v).unnoticed = s.unnoticed ∧ (setFlow s f v).msix = s.msix ∧ (setFlow s f v).netMode4 = s.netMode4 ∧
    (setFlow s f v).mem = s.mem ∧ (setFlow s f v).ecc = s.ecc ∧ (setFlow s f v).time = s.time ∧
    (setFlow s f v).trackers = s.trackers ∧ (setFlow s f v).slots = s.slots ∧ (setFlow s f v).gpio = s.gpio ∧
    (setFlow s f v).tgen = s.tgen ∧ (setFlow s f v).shutPulses = s.shutPulses ∧ (setFlow s f v).layr = s.layr ∧
    (setFlow s f v).scal = s.scal ∧ (setFlow s f v).geom = s.geom ∧ (setFlow s f v).trim = s.trim ∧
    (setFlow s f v).fade = s.fade ∧ (setFlow s f v).eng = s.eng ∧ (setFlow s f v).codec = s.codec ∧
    (setFlow s f v).ring = s.ring ∧ (setFlow s f v).bgrp = s.bgrp ∧ (setFlow s f v).diag = s.diag ∧
    (setFlow s f v).modu = s.modu ∧ (setFlow s f v).ens = s.ens ∧ (setFlow s f v).hbm = s.hbm ∧
    (setFlow s f v).bar2 = s.bar2 ∧ (setFlow s f v).host = s.host ∧ (setFlow s f v).store = s.store ∧
    (setFlow s f v).recov = s.recov ∧ (setFlow s f v).cpm = s.cpm ∧ (setFlow s f v).last = s.last ∧
    (setFlow s f v).cam = s.cam ∧ (setFlow s f v).camPulses = s.camPulses ∧ (setFlow s f v).aud = s.aud ∧
    (setFlow s f v).blit = s.blit ∧ (setFlow s f v).therm = s.therm ∧ (setFlow s f v).cal = s.cal ∧
    (setFlow s f v).pins = s.pins ∧ (setFlow s f v).calDone = s.calDone :=
  ⟨rfl, rfl, rfl, rfl, rfl, rfl, rfl, rfl, rfl, rfl, rfl, rfl, rfl, rfl, rfl, rfl, rfl, rfl, rfl, rfl, rfl, rfl, rfl, rfl, rfl, rfl, rfl, rfl, rfl, rfl, rfl, rfl, rfl, rfl, rfl, rfl, rfl, rfl, rfl, rfl, rfl, rfl, rfl, rfl, rfl, rfl, rfl, rfl, rfl, rfl, rfl, rfl, rfl⟩

/-- `setCam` writes `cam` alone. -/
@[simp] theorem setCam_frame (c : Nat) (v : Cam) :
    (setCam s c v).pending = s.pending ∧ (setCam s c v).free = s.free ∧ (setCam s c v).part = s.part ∧
    (setCam s c v).extTemp = s.extTemp ∧ (setCam s c v).regs = s.regs ∧ (setCam s c v).inForce = s.inForce ∧
    (setCam s c v).evPend = s.evPend ∧ (setCam s c v).evRaw = s.evRaw ∧ (setCam s c v).captures = s.captures ∧
    (setCam s c v).lastRead = s.lastRead ∧ (setCam s c v).lastReadHi = s.lastReadHi ∧ (setCam s c v).isl = s.isl ∧
    (setCam s c v).pwrQueue = s.pwrQueue ∧ (setCam s c v).weirs = s.weirs ∧ (setCam s c v).commits = s.commits ∧
    (setCam s c v).unnoticed = s.unnoticed ∧ (setCam s c v).msix = s.msix ∧ (setCam s c v).netMode4 = s.netMode4 ∧
    (setCam s c v).mem = s.mem ∧ (setCam s c v).ecc = s.ecc ∧ (setCam s c v).time = s.time ∧
    (setCam s c v).trackers = s.trackers ∧ (setCam s c v).slots = s.slots ∧ (setCam s c v).gpio = s.gpio ∧
    (setCam s c v).tgen = s.tgen ∧ (setCam s c v).shutPulses = s.shutPulses ∧ (setCam s c v).layr = s.layr ∧
    (setCam s c v).scal = s.scal ∧ (setCam s c v).geom = s.geom ∧ (setCam s c v).trim = s.trim ∧
    (setCam s c v).fade = s.fade ∧ (setCam s c v).eng = s.eng ∧ (setCam s c v).codec = s.codec ∧
    (setCam s c v).ring = s.ring ∧ (setCam s c v).bgrp = s.bgrp ∧ (setCam s c v).diag = s.diag ∧
    (setCam s c v).modu = s.modu ∧ (setCam s c v).ens = s.ens ∧ (setCam s c v).hbm = s.hbm ∧ (setCam s c v).bar2 = s.bar2 ∧
    (setCam s c v).host = s.host ∧ (setCam s c v).store = s.store ∧ (setCam s c v).recov = s.recov ∧
    (setCam s c v).cpm = s.cpm ∧ (setCam s c v).last = s.last ∧ (setCam s c v).net = s.net ∧
    (setCam s c v).camPulses = s.camPulses ∧ (setCam s c v).aud = s.aud ∧ (setCam s c v).blit = s.blit ∧
    (setCam s c v).therm = s.therm ∧ (setCam s c v).cal = s.cal ∧ (setCam s c v).pins = s.pins ∧
    (setCam s c v).calDone = s.calDone :=
  ⟨rfl, rfl, rfl, rfl, rfl, rfl, rfl, rfl, rfl, rfl, rfl, rfl, rfl, rfl, rfl, rfl, rfl, rfl, rfl, rfl, rfl, rfl, rfl, rfl, rfl, rfl, rfl, rfl, rfl, rfl, rfl, rfl, rfl, rfl, rfl, rfl, rfl, rfl, rfl, rfl, rfl, rfl, rfl, rfl, rfl, rfl, rfl, rfl, rfl, rfl, rfl, rfl, rfl⟩

/-- `setAud` writes `aud` alone. -/
@[simp] theorem setAud_frame (a : Nat) (v : Aud) :
    (setAud s a v).pending = s.pending ∧ (setAud s a v).free = s.free ∧ (setAud s a v).part = s.part ∧
    (setAud s a v).extTemp = s.extTemp ∧ (setAud s a v).regs = s.regs ∧ (setAud s a v).inForce = s.inForce ∧
    (setAud s a v).evPend = s.evPend ∧ (setAud s a v).evRaw = s.evRaw ∧ (setAud s a v).captures = s.captures ∧
    (setAud s a v).lastRead = s.lastRead ∧ (setAud s a v).lastReadHi = s.lastReadHi ∧ (setAud s a v).isl = s.isl ∧
    (setAud s a v).pwrQueue = s.pwrQueue ∧ (setAud s a v).weirs = s.weirs ∧ (setAud s a v).commits = s.commits ∧
    (setAud s a v).unnoticed = s.unnoticed ∧ (setAud s a v).msix = s.msix ∧ (setAud s a v).netMode4 = s.netMode4 ∧
    (setAud s a v).mem = s.mem ∧ (setAud s a v).ecc = s.ecc ∧ (setAud s a v).time = s.time ∧
    (setAud s a v).trackers = s.trackers ∧ (setAud s a v).slots = s.slots ∧ (setAud s a v).gpio = s.gpio ∧
    (setAud s a v).tgen = s.tgen ∧ (setAud s a v).shutPulses = s.shutPulses ∧ (setAud s a v).layr = s.layr ∧
    (setAud s a v).scal = s.scal ∧ (setAud s a v).geom = s.geom ∧ (setAud s a v).trim = s.trim ∧
    (setAud s a v).fade = s.fade ∧ (setAud s a v).eng = s.eng ∧ (setAud s a v).codec = s.codec ∧
    (setAud s a v).ring = s.ring ∧ (setAud s a v).bgrp = s.bgrp ∧ (setAud s a v).diag = s.diag ∧
    (setAud s a v).modu = s.modu ∧ (setAud s a v).ens = s.ens ∧ (setAud s a v).hbm = s.hbm ∧ (setAud s a v).bar2 = s.bar2 ∧
    (setAud s a v).host = s.host ∧ (setAud s a v).store = s.store ∧ (setAud s a v).recov = s.recov ∧
    (setAud s a v).cpm = s.cpm ∧ (setAud s a v).last = s.last ∧ (setAud s a v).net = s.net ∧ (setAud s a v).cam = s.cam ∧
    (setAud s a v).camPulses = s.camPulses ∧ (setAud s a v).blit = s.blit ∧ (setAud s a v).therm = s.therm ∧
    (setAud s a v).cal = s.cal ∧ (setAud s a v).pins = s.pins ∧ (setAud s a v).calDone = s.calDone :=
  ⟨rfl, rfl, rfl, rfl, rfl, rfl, rfl, rfl, rfl, rfl, rfl, rfl, rfl, rfl, rfl, rfl, rfl, rfl, rfl, rfl, rfl, rfl, rfl, rfl, rfl, rfl, rfl, rfl, rfl, rfl, rfl, rfl, rfl, rfl, rfl, rfl, rfl, rfl, rfl, rfl, rfl, rfl, rfl, rfl, rfl, rfl, rfl, rfl, rfl, rfl, rfl, rfl, rfl⟩

/-- `setTherm` writes `therm` alone. -/
@[simp] theorem setTherm_frame (v : Therm) :
    (setTherm s v).pending = s.pending ∧ (setTherm s v).free = s.free ∧ (setTherm s v).part = s.part ∧
    (setTherm s v).extTemp = s.extTemp ∧ (setTherm s v).regs = s.regs ∧ (setTherm s v).inForce = s.inForce ∧
    (setTherm s v).evPend = s.evPend ∧ (setTherm s v).evRaw = s.evRaw ∧ (setTherm s v).captures = s.captures ∧
    (setTherm s v).lastRead = s.lastRead ∧ (setTherm s v).lastReadHi = s.lastReadHi ∧ (setTherm s v).isl = s.isl ∧
    (setTherm s v).pwrQueue = s.pwrQueue ∧ (setTherm s v).weirs = s.weirs ∧ (setTherm s v).commits = s.commits ∧
    (setTherm s v).unnoticed = s.unnoticed ∧ (setTherm s v).msix = s.msix ∧ (setTherm s v).netMode4 = s.netMode4 ∧
    (setTherm s v).mem = s.mem ∧ (setTherm s v).ecc = s.ecc ∧ (setTherm s v).time = s.time ∧
    (setTherm s v).trackers = s.trackers ∧ (setTherm s v).slots = s.slots ∧ (setTherm s v).gpio = s.gpio ∧
    (setTherm s v).tgen = s.tgen ∧ (setTherm s v).shutPulses = s.shutPulses ∧ (setTherm s v).layr = s.layr ∧
    (setTherm s v).scal = s.scal ∧ (setTherm s v).geom = s.geom ∧ (setTherm s v).trim = s.trim ∧
    (setTherm s v).fade = s.fade ∧ (setTherm s v).eng = s.eng ∧ (setTherm s v).codec = s.codec ∧
    (setTherm s v).ring = s.ring ∧ (setTherm s v).bgrp = s.bgrp ∧ (setTherm s v).diag = s.diag ∧
    (setTherm s v).modu = s.modu ∧ (setTherm s v).ens = s.ens ∧ (setTherm s v).hbm = s.hbm ∧ (setTherm s v).bar2 = s.bar2 ∧
    (setTherm s v).host = s.host ∧ (setTherm s v).store = s.store ∧ (setTherm s v).recov = s.recov ∧
    (setTherm s v).cpm = s.cpm ∧ (setTherm s v).last = s.last ∧ (setTherm s v).net = s.net ∧ (setTherm s v).cam = s.cam ∧
    (setTherm s v).camPulses = s.camPulses ∧ (setTherm s v).aud = s.aud ∧ (setTherm s v).blit = s.blit ∧
    (setTherm s v).cal = s.cal ∧ (setTherm s v).pins = s.pins ∧ (setTherm s v).calDone = s.calDone :=
  ⟨rfl, rfl, rfl, rfl, rfl, rfl, rfl, rfl, rfl, rfl, rfl, rfl, rfl, rfl, rfl, rfl, rfl, rfl, rfl, rfl, rfl, rfl, rfl, rfl, rfl, rfl, rfl, rfl, rfl, rfl, rfl, rfl, rfl, rfl, rfl, rfl, rfl, rfl, rfl, rfl, rfl, rfl, rfl, rfl, rfl, rfl, rfl, rfl, rfl, rfl, rfl, rfl, rfl⟩

/-- `setSensor` writes `therm` alone. -/
@[simp] theorem setSensor_frame (i : Nat) (v : Sensor) :
    (setSensor s i v).pending = s.pending ∧ (setSensor s i v).free = s.free ∧ (setSensor s i v).part = s.part ∧
    (setSensor s i v).extTemp = s.extTemp ∧ (setSensor s i v).regs = s.regs ∧ (setSensor s i v).inForce = s.inForce ∧
    (setSensor s i v).evPend = s.evPend ∧ (setSensor s i v).evRaw = s.evRaw ∧ (setSensor s i v).captures = s.captures ∧
    (setSensor s i v).lastRead = s.lastRead ∧ (setSensor s i v).lastReadHi = s.lastReadHi ∧ (setSensor s i v).isl = s.isl ∧
    (setSensor s i v).pwrQueue = s.pwrQueue ∧ (setSensor s i v).weirs = s.weirs ∧ (setSensor s i v).commits = s.commits ∧
    (setSensor s i v).unnoticed = s.unnoticed ∧ (setSensor s i v).msix = s.msix ∧ (setSensor s i v).netMode4 = s.netMode4 ∧
    (setSensor s i v).mem = s.mem ∧ (setSensor s i v).ecc = s.ecc ∧ (setSensor s i v).time = s.time ∧
    (setSensor s i v).trackers = s.trackers ∧ (setSensor s i v).slots = s.slots ∧ (setSensor s i v).gpio = s.gpio ∧
    (setSensor s i v).tgen = s.tgen ∧ (setSensor s i v).shutPulses = s.shutPulses ∧ (setSensor s i v).layr = s.layr ∧
    (setSensor s i v).scal = s.scal ∧ (setSensor s i v).geom = s.geom ∧ (setSensor s i v).trim = s.trim ∧
    (setSensor s i v).fade = s.fade ∧ (setSensor s i v).eng = s.eng ∧ (setSensor s i v).codec = s.codec ∧
    (setSensor s i v).ring = s.ring ∧ (setSensor s i v).bgrp = s.bgrp ∧ (setSensor s i v).diag = s.diag ∧
    (setSensor s i v).modu = s.modu ∧ (setSensor s i v).ens = s.ens ∧ (setSensor s i v).hbm = s.hbm ∧
    (setSensor s i v).bar2 = s.bar2 ∧ (setSensor s i v).host = s.host ∧ (setSensor s i v).store = s.store ∧
    (setSensor s i v).recov = s.recov ∧ (setSensor s i v).cpm = s.cpm ∧ (setSensor s i v).last = s.last ∧
    (setSensor s i v).net = s.net ∧ (setSensor s i v).cam = s.cam ∧ (setSensor s i v).camPulses = s.camPulses ∧
    (setSensor s i v).aud = s.aud ∧ (setSensor s i v).blit = s.blit ∧ (setSensor s i v).cal = s.cal ∧
    (setSensor s i v).pins = s.pins ∧ (setSensor s i v).calDone = s.calDone :=
  ⟨rfl, rfl, rfl, rfl, rfl, rfl, rfl, rfl, rfl, rfl, rfl, rfl, rfl, rfl, rfl, rfl, rfl, rfl, rfl, rfl, rfl, rfl, rfl, rfl, rfl, rfl, rfl, rfl, rfl, rfl, rfl, rfl, rfl, rfl, rfl, rfl, rfl, rfl, rfl, rfl, rfl, rfl, rfl, rfl, rfl, rfl, rfl, rfl, rfl, rfl, rfl, rfl, rfl⟩

end Sys2Proof.Machine
end

