-- ==== Sys2Proof/Laws/Access.lean ====
section
/-!
SUPPORT. One read-after-write law per named pair of accessor and update.
-/
namespace Sys2Proof.Machine

variable (s : State)

@[simp] theorem island_setIsland (i j : Nat) (v : Island) : island (setIsland s i v) j = if j = i then v else island s j :=
  mapGet_mapSet _ _ _ _ _

@[simp] theorem hlpAt_setHlp (i j : Nat) (v : Helper) : hlpAt (setHlp s i v) j = if j = i then v else hlpAt s j :=
  mapGet_mapSet _ _ _ _ _

@[simp] theorem tracker_setTracker (i j : Nat) (v : Tracker) : tracker (setTracker s i v) j = if j = i then v else tracker s j :=
  mapGet_mapSet _ _ _ _ _

@[simp] theorem slot_setSlot (i j : Nat) (v : Slot) : slot (setSlot s i v) j = if j = i then v else slot s j :=
  mapGet_mapSet _ _ _ _ _

@[simp] theorem gpioAt_setGpio (i j : Nat) (v : Gpio) : gpioAt (setGpio s i v) j = if j = i then v else gpioAt s j :=
  mapGet_mapSet _ _ _ _ _

@[simp] theorem tgen_setTgen (i j : Nat) (v : Tgen) : tgen (setTgen s i v) j = if j = i then v else tgen s j :=
  mapGet_mapSet _ _ _ _ _

@[simp] theorem bufAt_setBuf (i j : Nat) (v : Buf) : bufAt (setBuf s i v) j = if j = i then v else bufAt s j :=
  mapGet_mapSet _ _ _ _ _

@[simp] theorem layrBank_setLayrBank (i j : Nat) (v : LayrBank) : layrBank (setLayrBank s i v) j = if j = i then v else layrBank s j :=
  mapGet_mapSet _ _ _ _ _

@[simp] theorem rgn_setRgn (i j : Nat) (v : Rgn) : rgn (setRgn s i v) j = if j = i then v else rgn s j :=
  mapGet_mapSet _ _ _ _ _

@[simp] theorem eng_setEng (i j : Nat) (v : Engine) : eng (setEng s i v) j = if j = i then v else eng s j :=
  mapGet_mapSet _ _ _ _ _

@[simp] theorem ringAt_setRing (i j : Nat) (v : Ring) : ringAt (setRing s i v) j = if j = i then v else ringAt s j :=
  mapGet_mapSet _ _ _ _ _

@[simp] theorem bgrpAt_setBgrp (i j : Nat) (v : Bgrp) : bgrpAt (setBgrp s i v) j = if j = i then v else bgrpAt s j :=
  mapGet_mapSet _ _ _ _ _

@[simp] theorem pcAt_setPc (i j : Nat) (v : PcUnit) : pcAt (setPc s i v) j = if j = i then v else pcAt s j :=
  mapGet_mapSet _ _ _ _ _

@[simp] theorem chanAt_setChan (i j : Nat) (v : HbmChan) : chanAt (setChan s i v) j = if j = i then v else chanAt s j :=
  mapGet_mapSet _ _ _ _ _

@[simp] theorem weirAt_setWeir (i j : Nat) (v : Weir) : weirAt (setWeir s i v) j = if j = i then v else weirAt s j :=
  mapGet_mapSet _ _ _ _ _

@[simp] theorem dmaRun_setDma (i j : Nat) (v : Option DmaJob) : dmaRun (setDma s i v) j = if j = i then v else dmaRun s j :=
  mapGet_mapSet _ _ _ _ _

@[simp] theorem drvAt_setDrv (i j : Nat) (v : Drive) : drvAt (setDrv s i v) j = if j = i then v else drvAt s j :=
  mapGet_mapSet _ _ _ _ _

@[simp] theorem strAt_setStr (i j : Nat) (v : Stream) : strAt (setStr s i v) j = if j = i then v else strAt s j :=
  mapGet_mapSet _ _ _ _ _

@[simp] theorem cmdAt_setCmd (i j : Nat) (v : Option NvmeCmd) : cmdAt (setCmd s i v) j = if j = i then v else cmdAt s j :=
  mapGet_mapSet _ _ _ _ _

@[simp] theorem portAt_setPort (i j : Nat) (v : NetPort) : portAt (setPort s i v) j = if j = i then v else portAt s j :=
  mapGet_mapSet _ _ _ _ _

@[simp] theorem flowAt_setFlow (i j : Nat) (v : Flow) : flowAt (setFlow s i v) j = if j = i then v else flowAt s j :=
  mapGet_mapSet _ _ _ _ _

@[simp] theorem camAt_setCam (i j : Nat) (v : Cam) : camAt (setCam s i v) j = if j = i then v else camAt s j :=
  mapGet_mapSet _ _ _ _ _

@[simp] theorem audAt_setAud (i j : Nat) (v : Aud) : audAt (setAud s i v) j = if j = i then v else audAt s j :=
  mapGet_mapSet _ _ _ _ _

@[simp] theorem sensor_setSensor (i j : Nat) (v : Sensor) : sensor (setSensor s i v) j = if j = i then v else sensor s j :=
  mapGet_mapSet _ _ _ _ _

@[simp] theorem stSlot_setStSlot (i j : Nat) (v : StSlot) : stSlot (setStSlot s i v) j = if j = i then v else stSlot s j :=
  mapGet_mapSet _ _ _ _ _

@[simp] theorem codecRun_setCodecRun (i j : Nat) (v : Option CodecJob) : codecRun (setCodecRun s i v) j = if j = i then v else codecRun s j :=
  mapGet_mapSet _ _ _ _ _

@[simp] theorem cslot_setCslot (p q : Page) (b c : Nat) (v : CommitSlot) :
    cslot (setCslot s p b v) q c = if slotKey q c = slotKey p b then v else cslot s q c :=
  mapGet_mapSet _ _ _ _ _

@[simp] theorem evPend_setPend (p q : Page) (w : Word) :
    evPend (setPend s p w) q = if pageBase q = pageBase p then w else evPend s q :=
  mapGet_mapSet _ _ _ _ _

@[simp] theorem evRaw_setRaw (p q : Page) (w : Word) :
    evRaw (setRaw s p w) q = if pageBase q = pageBase p then w else evRaw s q :=
  mapGet_mapSet _ _ _ _ _

@[simp] theorem reg_setReg (p q : Page) (o o' : Nat) (w : Word) :
    reg (setReg s p o w) q o' = if regKey q o' 0 = regKey p o 0 then w else reg s q o' :=
  mapGet_mapSet _ _ _ _ _

@[simp] theorem regBank_setRegBank (p q : Page) (b b' o o' : Nat) (w : Word) :
    regBank (setRegBank s p b o w) q b' o' = if regKey q o' b' = regKey p o b then w else regBank s q b' o' :=
  mapGet_mapSet _ _ _ _ _

theorem pageSlot_lt (p : Page) : pageSlot p < 4096 := by
  cases p <;> simp only [pageSlot] <;> omega

/-- No two pages share a slot of BAR0 (R37). -/
theorem pageSlot_inj {p q : Page} (h : pageSlot p = pageSlot q) : p = q := by
  cases p <;> cases q <;> simp only [pageSlot] at h <;>
    first
    | rfl
    | (exfalso; omega)
    | (congr 1; apply Fin.ext; omega)

/-- No two pages share a base (R37). -/
theorem pageBase_inj {p q : Page} (h : pageBase p = pageBase q) : p = q :=
  pageSlot_inj (by unfold pageBase at h; omega)

end Sys2Proof.Machine
end

