-- ==== Sys2Proof/Laws/Flags.lean ====
section
/-!
SUPPORT. What the shared operations over events and vectors can do, each said once.
-/
namespace Sys2Proof.Machine

/-- A pulse writes `evPend` alone. -/
theorem raise_eq (s : State) (p : Page) (b : Nat) : raise s p b = { s with evPend := (raise s p b).evPend } := by
  unfold raise; split <;> rfl

/-- A pulse of a page that answers sets its EV_PEND bit (R47). -/
theorem raise_up {s : State} {p : Page} (b : Nat) (h : pageUp s p = true) :
    raise s p b = setPend s p (putBit (evPend s p) b true) := by
  simp only [raise, h, if_true]

theorem raise_down {s : State} {p : Page} (b : Nat) (h : pageUp s p = false) : raise s p b = s := by
  simp [raise, h]

theorem raiseIf_eq (c : Bool) (p : Page) (b : Nat) (s : State) :
    raiseIf c p b s = { s with evPend := (raiseIf c p b s).evPend } := by
  unfold raiseIf
  split
  · exact raise_eq s p b
  · rfl

/-- A level event writes `evPend` and `evRaw` alone. -/
theorem setLevel_eq (s : State) (p : Page) (b : Nat) (on : Bool) :
    setLevel s p b on = { s with evPend := (setLevel s p b on).evPend, evRaw := (setLevel s p b on).evRaw } := by
  unfold setLevel
  split
  · dsimp only
    split
    · rw [raise_eq]; rfl
    · rfl
  · rfl

theorem sendMsg_eq (s : State) (v : Nat) : sendMsg s v = { s with msix := (sendMsg s v).msix } := by
  unfold sendMsg
  split
  · rfl
  · split <;> rfl

theorem sendMsgs_eq (l : List Nat) (s : State) : l.foldl sendMsg s = { s with msix := (l.foldl sendMsg s).msix } := by
  induction l generalizing s with
  | nil => rfl
  | cons v l ih =>
    rw [List.foldl_cons, ih (sendMsg s v)]
    rw [sendMsg_eq s v]

/-- Driving the vectors touches the MSI-X state alone. -/
theorem settle_eq (s : State) : settle s = { s with msix := (settle s).msix } := by
  unfold settle
  dsimp only
  rw [sendMsgs_eq]

/-- After `settle` the vector inputs are what the events drive. -/
theorem settle_inputs (s : State) : (settle s).msix.inputs = vecInputs s := rfl

/-- The vector inputs do not depend on the MSI-X state. -/
theorem vecInputs_msix (s : State) (m : Msix) : vecInputs { s with msix := m } = vecInputs s := rfl

/-- A plain write of a register touches the register file alone (R14). -/
theorem writePlain_eq (s : State) (p : Page) (off : Nat) (v : Word) :
    writePlain s p off v = { s with regs := (writePlain s p off v).regs } := by
  unfold writePlain
  split
  · rfl
  · split
    · rfl
    · dsimp only
      split <;> rfl

/-! ## Every field that these operations leave -/

@[simp] theorem settle_frame (s : State) :
    (settle s).pending = s.pending ∧ (settle s).free = s.free ∧ (settle s).part = s.part ∧ (settle s).extTemp = s.extTemp ∧
    (settle s).regs = s.regs ∧ (settle s).inForce = s.inForce ∧ (settle s).evPend = s.evPend ∧ (settle s).evRaw = s.evRaw ∧
    (settle s).captures = s.captures ∧ (settle s).lastRead = s.lastRead ∧ (settle s).lastReadHi = s.lastReadHi ∧
    (settle s).isl = s.isl ∧ (settle s).pwrQueue = s.pwrQueue ∧ (settle s).weirs = s.weirs ∧ (settle s).commits = s.commits ∧
    (settle s).unnoticed = s.unnoticed ∧ (settle s).netMode4 = s.netMode4 ∧ (settle s).mem = s.mem ∧ (settle s).ecc = s.ecc ∧
    (settle s).time = s.time ∧ (settle s).trackers = s.trackers ∧ (settle s).slots = s.slots ∧ (settle s).gpio = s.gpio ∧
    (settle s).tgen = s.tgen ∧ (settle s).shutPulses = s.shutPulses ∧ (settle s).layr = s.layr ∧ (settle s).scal = s.scal ∧
    (settle s).geom = s.geom ∧ (settle s).trim = s.trim ∧ (settle s).fade = s.fade ∧ (settle s).eng = s.eng ∧
    (settle s).codec = s.codec ∧ (settle s).ring = s.ring ∧ (settle s).bgrp = s.bgrp ∧ (settle s).diag = s.diag ∧
    (settle s).modu = s.modu ∧ (settle s).ens = s.ens ∧ (settle s).hbm = s.hbm ∧ (settle s).bar2 = s.bar2 ∧
    (settle s).host = s.host ∧ (settle s).store = s.store ∧ (settle s).recov = s.recov ∧ (settle s).cpm = s.cpm ∧
    (settle s).last = s.last ∧ (settle s).net = s.net ∧ (settle s).cam = s.cam ∧ (settle s).camPulses = s.camPulses ∧
    (settle s).aud = s.aud ∧ (settle s).blit = s.blit ∧ (settle s).therm = s.therm ∧ (settle s).cal = s.cal ∧
    (settle s).pins = s.pins ∧ (settle s).calDone = s.calDone := by
  have h := settle_eq s
  generalize settle s = t at h ⊢
  subst_eqs
  rw [h]
  exact ⟨rfl, rfl, rfl, rfl, rfl, rfl, rfl, rfl, rfl, rfl, rfl, rfl, rfl, rfl, rfl, rfl, rfl, rfl, rfl, rfl, rfl, rfl, rfl, rfl, rfl, rfl, rfl, rfl, rfl, rfl, rfl, rfl, rfl, rfl, rfl, rfl, rfl, rfl, rfl, rfl, rfl, rfl, rfl, rfl, rfl, rfl, rfl, rfl, rfl, rfl, rfl, rfl, rfl⟩

@[simp] theorem raise_frame (s : State) (p : Page) (b : Nat) :
    (raise s p b).pending = s.pending ∧ (raise s p b).free = s.free ∧ (raise s p b).part = s.part ∧
    (raise s p b).extTemp = s.extTemp ∧ (raise s p b).regs = s.regs ∧ (raise s p b).inForce = s.inForce ∧
    (raise s p b).evRaw = s.evRaw ∧ (raise s p b).captures = s.captures ∧ (raise s p b).lastRead = s.lastRead ∧
    (raise s p b).lastReadHi = s.lastReadHi ∧ (raise s p b).isl = s.isl ∧ (raise s p b).pwrQueue = s.pwrQueue ∧
    (raise s p b).weirs = s.weirs ∧ (raise s p b).commits = s.commits ∧ (raise s p b).unnoticed = s.unnoticed ∧
    (raise s p b).msix = s.msix ∧ (raise s p b).netMode4 = s.netMode4 ∧ (raise s p b).mem = s.mem ∧
    (raise s p b).ecc = s.ecc ∧ (raise s p b).time = s.time ∧ (raise s p b).trackers = s.trackers ∧
    (raise s p b).slots = s.slots ∧ (raise s p b).gpio = s.gpio ∧ (raise s p b).tgen = s.tgen ∧
    (raise s p b).shutPulses = s.shutPulses ∧ (raise s p b).layr = s.layr ∧ (raise s p b).scal = s.scal ∧
    (raise s p b).geom = s.geom ∧ (raise s p b).trim = s.trim ∧ (raise s p b).fade = s.fade ∧ (raise s p b).eng = s.eng ∧
    (raise s p b).codec = s.codec ∧ (raise s p b).ring = s.ring ∧ (raise s p b).bgrp = s.bgrp ∧ (raise s p b).diag = s.diag ∧
    (raise s p b).modu = s.modu ∧ (raise s p b).ens = s.ens ∧ (raise s p b).hbm = s.hbm ∧ (raise s p b).bar2 = s.bar2 ∧
    (raise s p b).host = s.host ∧ (raise s p b).store = s.store ∧ (raise s p b).recov = s.recov ∧ (raise s p b).cpm = s.cpm ∧
    (raise s p b).last = s.last ∧ (raise s p b).net = s.net ∧ (raise s p b).cam = s.cam ∧
    (raise s p b).camPulses = s.camPulses ∧ (raise s p b).aud = s.aud ∧ (raise s p b).blit = s.blit ∧
    (raise s p b).therm = s.therm ∧ (raise s p b).cal = s.cal ∧ (raise s p b).pins = s.pins ∧
    (raise s p b).calDone = s.calDone := by
  have h := raise_eq s p b
  generalize raise s p b = t at h ⊢
  subst_eqs
  rw [h]
  exact ⟨rfl, rfl, rfl, rfl, rfl, rfl, rfl, rfl, rfl, rfl, rfl, rfl, rfl, rfl, rfl, rfl, rfl, rfl, rfl, rfl, rfl, rfl, rfl, rfl, rfl, rfl, rfl, rfl, rfl, rfl, rfl, rfl, rfl, rfl, rfl, rfl, rfl, rfl, rfl, rfl, rfl, rfl, rfl, rfl, rfl, rfl, rfl, rfl, rfl, rfl, rfl, rfl, rfl⟩

@[simp] theorem raiseIf_frame (c : Bool) (p : Page) (b : Nat) (s : State) :
    (raiseIf c p b s).pending = s.pending ∧ (raiseIf c p b s).free = s.free ∧ (raiseIf c p b s).part = s.part ∧
    (raiseIf c p b s).extTemp = s.extTemp ∧ (raiseIf c p b s).regs = s.regs ∧ (raiseIf c p b s).inForce = s.inForce ∧
    (raiseIf c p b s).evRaw = s.evRaw ∧ (raiseIf c p b s).captures = s.captures ∧ (raiseIf c p b s).lastRead = s.lastRead ∧
    (raiseIf c p b s).lastReadHi = s.lastReadHi ∧ (raiseIf c p b s).isl = s.isl ∧ (raiseIf c p b s).pwrQueue = s.pwrQueue ∧
    (raiseIf c p b s).weirs = s.weirs ∧ (raiseIf c p b s).commits = s.commits ∧ (raiseIf c p b s).unnoticed = s.unnoticed ∧
    (raiseIf c p b s).msix = s.msix ∧ (raiseIf c p b s).netMode4 = s.netMode4 ∧ (raiseIf c p b s).mem = s.mem ∧
    (raiseIf c p b s).ecc = s.ecc ∧ (raiseIf c p b s).time = s.time ∧ (raiseIf c p b s).trackers = s.trackers ∧
    (raiseIf c p b s).slots = s.slots ∧ (raiseIf c p b s).gpio = s.gpio ∧ (raiseIf c p b s).tgen = s.tgen ∧
    (raiseIf c p b s).shutPulses = s.shutPulses ∧ (raiseIf c p b s).layr = s.layr ∧ (raiseIf c p b s).scal = s.scal ∧
    (raiseIf c p b s).geom = s.geom ∧ (raiseIf c p b s).trim = s.trim ∧ (raiseIf c p b s).fade = s.fade ∧
    (raiseIf c p b s).eng = s.eng ∧ (raiseIf c p b s).codec = s.codec ∧ (raiseIf c p b s).ring = s.ring ∧
    (raiseIf c p b s).bgrp = s.bgrp ∧ (raiseIf c p b s).diag = s.diag ∧ (raiseIf c p b s).modu = s.modu ∧
    (raiseIf c p b s).ens = s.ens ∧ (raiseIf c p b s).hbm = s.hbm ∧ (raiseIf c p b s).bar2 = s.bar2 ∧
    (raiseIf c p b s).host = s.host ∧ (raiseIf c p b s).store = s.store ∧ (raiseIf c p b s).recov = s.recov ∧
    (raiseIf c p b s).cpm = s.cpm ∧ (raiseIf c p b s).last = s.last ∧ (raiseIf c p b s).net = s.net ∧
    (raiseIf c p b s).cam = s.cam ∧ (raiseIf c p b s).camPulses = s.camPulses ∧ (raiseIf c p b s).aud = s.aud ∧
    (raiseIf c p b s).blit = s.blit ∧ (raiseIf c p b s).therm = s.therm ∧ (raiseIf c p b s).cal = s.cal ∧
    (raiseIf c p b s).pins = s.pins ∧ (raiseIf c p b s).calDone = s.calDone := by
  have h := raiseIf_eq c p b s
  generalize raiseIf c p b s = t at h ⊢
  subst_eqs
  rw [h]
  exact ⟨rfl, rfl, rfl, rfl, rfl, rfl, rfl, rfl, rfl, rfl, rfl, rfl, rfl, rfl, rfl, rfl, rfl, rfl, rfl, rfl, rfl, rfl, rfl, rfl, rfl, rfl, rfl, rfl, rfl, rfl, rfl, rfl, rfl, rfl, rfl, rfl, rfl, rfl, rfl, rfl, rfl, rfl, rfl, rfl, rfl, rfl, rfl, rfl, rfl, rfl, rfl, rfl, rfl⟩

@[simp] theorem setLevel_frame (s : State) (p : Page) (b : Nat) (on : Bool) :
    (setLevel s p b on).pending = s.pending ∧ (setLevel s p b on).free = s.free ∧ (setLevel s p b on).part = s.part ∧
    (setLevel s p b on).extTemp = s.extTemp ∧ (setLevel s p b on).regs = s.regs ∧ (setLevel s p b on).inForce = s.inForce ∧
    (setLevel s p b on).captures = s.captures ∧ (setLevel s p b on).lastRead = s.lastRead ∧
    (setLevel s p b on).lastReadHi = s.lastReadHi ∧ (setLevel s p b on).isl = s.isl ∧
    (setLevel s p b on).pwrQueue = s.pwrQueue ∧ (setLevel s p b on).weirs = s.weirs ∧
    (setLevel s p b on).commits = s.commits ∧ (setLevel s p b on).unnoticed = s.unnoticed ∧
    (setLevel s p b on).msix = s.msix ∧ (setLevel s p b on).netMode4 = s.netMode4 ∧ (setLevel s p b on).mem = s.mem ∧
    (setLevel s p b on).ecc = s.ecc ∧ (setLevel s p b on).time = s.time ∧ (setLevel s p b on).trackers = s.trackers ∧
    (setLevel s p b on).slots = s.slots ∧ (setLevel s p b on).gpio = s.gpio ∧ (setLevel s p b on).tgen = s.tgen ∧
    (setLevel s p b on).shutPulses = s.shutPulses ∧ (setLevel s p b on).layr = s.layr ∧ (setLevel s p b on).scal = s.scal ∧
    (setLevel s p b on).geom = s.geom ∧ (setLevel s p b on).trim = s.trim ∧ (setLevel s p b on).fade = s.fade ∧
    (setLevel s p b on).eng = s.eng ∧ (setLevel s p b on).codec = s.codec ∧ (setLevel s p b on).ring = s.ring ∧
    (setLevel s p b on).bgrp = s.bgrp ∧ (setLevel s p b on).diag = s.diag ∧ (setLevel s p b on).modu = s.modu ∧
    (setLevel s p b on).ens = s.ens ∧ (setLevel s p b on).hbm = s.hbm ∧ (setLevel s p b on).bar2 = s.bar2 ∧
    (setLevel s p b on).host = s.host ∧ (setLevel s p b on).store = s.store ∧ (setLevel s p b on).recov = s.recov ∧
    (setLevel s p b on).cpm = s.cpm ∧ (setLevel s p b on).last = s.last ∧ (setLevel s p b on).net = s.net ∧
    (setLevel s p b on).cam = s.cam ∧ (setLevel s p b on).camPulses = s.camPulses ∧ (setLevel s p b on).aud = s.aud ∧
    (setLevel s p b on).blit = s.blit ∧ (setLevel s p b on).therm = s.therm ∧ (setLevel s p b on).cal = s.cal ∧
    (setLevel s p b on).pins = s.pins ∧ (setLevel s p b on).calDone = s.calDone := by
  have h := setLevel_eq s p b on
  generalize setLevel s p b on = t at h ⊢
  subst_eqs
  rw [h]
  exact ⟨rfl, rfl, rfl, rfl, rfl, rfl, rfl, rfl, rfl, rfl, rfl, rfl, rfl, rfl, rfl, rfl, rfl, rfl, rfl, rfl, rfl, rfl, rfl, rfl, rfl, rfl, rfl, rfl, rfl, rfl, rfl, rfl, rfl, rfl, rfl, rfl, rfl, rfl, rfl, rfl, rfl, rfl, rfl, rfl, rfl, rfl, rfl, rfl, rfl, rfl, rfl, rfl⟩

@[simp] theorem writePlain_frame (s : State) (p : Page) (off : Nat) (v : Word) :
    (writePlain s p off v).pending = s.pending ∧ (writePlain s p off v).free = s.free ∧
    (writePlain s p off v).part = s.part ∧ (writePlain s p off v).extTemp = s.extTemp ∧
    (writePlain s p off v).inForce = s.inForce ∧ (writePlain s p off v).evPend = s.evPend ∧
    (writePlain s p off v).evRaw = s.evRaw ∧ (writePlain s p off v).captures = s.captures ∧
    (writePlain s p off v).lastRead = s.lastRead ∧ (writePlain s p off v).lastReadHi = s.lastReadHi ∧
    (writePlain s p off v).isl = s.isl ∧ (writePlain s p off v).pwrQueue = s.pwrQueue ∧
    (writePlain s p off v).weirs = s.weirs ∧ (writePlain s p off v).commits = s.commits ∧
    (writePlain s p off v).unnoticed = s.unnoticed ∧ (writePlain s p off v).msix = s.msix ∧
    (writePlain s p off v).netMode4 = s.netMode4 ∧ (writePlain s p off v).mem = s.mem ∧ (writePlain s p off v).ecc = s.ecc ∧
    (writePlain s p off v).time = s.time ∧ (writePlain s p off v).trackers = s.trackers ∧
    (writePlain s p off v).slots = s.slots ∧ (writePlain s p off v).gpio = s.gpio ∧ (writePlain s p off v).tgen = s.tgen ∧
    (writePlain s p off v).shutPulses = s.shutPulses ∧ (writePlain s p off v).layr = s.layr ∧
    (writePlain s p off v).scal = s.scal ∧ (writePlain s p off v).geom = s.geom ∧ (writePlain s p off v).trim = s.trim ∧
    (writePlain s p off v).fade = s.fade ∧ (writePlain s p off v).eng = s.eng ∧ (writePlain s p off v).codec = s.codec ∧
    (writePlain s p off v).ring = s.ring ∧ (writePlain s p off v).bgrp = s.bgrp ∧ (writePlain s p off v).diag = s.diag ∧
    (writePlain s p off v).modu = s.modu ∧ (writePlain s p off v).ens = s.ens ∧ (writePlain s p off v).hbm = s.hbm ∧
    (writePlain s p off v).bar2 = s.bar2 ∧ (writePlain s p off v).host = s.host ∧ (writePlain s p off v).store = s.store ∧
    (writePlain s p off v).recov = s.recov ∧ (writePlain s p off v).cpm = s.cpm ∧ (writePlain s p off v).last = s.last ∧
    (writePlain s p off v).net = s.net ∧ (writePlain s p off v).cam = s.cam ∧
    (writePlain s p off v).camPulses = s.camPulses ∧ (writePlain s p off v).aud = s.aud ∧
    (writePlain s p off v).blit = s.blit ∧ (writePlain s p off v).therm = s.therm ∧ (writePlain s p off v).cal = s.cal ∧
    (writePlain s p off v).pins = s.pins ∧ (writePlain s p off v).calDone = s.calDone := by
  have h := writePlain_eq s p off v
  generalize writePlain s p off v = t at h ⊢
  subst_eqs
  rw [h]
  exact ⟨rfl, rfl, rfl, rfl, rfl, rfl, rfl, rfl, rfl, rfl, rfl, rfl, rfl, rfl, rfl, rfl, rfl, rfl, rfl, rfl, rfl, rfl, rfl, rfl, rfl, rfl, rfl, rfl, rfl, rfl, rfl, rfl, rfl, rfl, rfl, rfl, rfl, rfl, rfl, rfl, rfl, rfl, rfl, rfl, rfl, rfl, rfl, rfl, rfl, rfl, rfl, rfl, rfl⟩

end Sys2Proof.Machine
end

