-- ==== Sys2Proof/Tests/Slice0.lean ====
section
/-!
SUPPORT. The model's own tests: for each obligation a witness that its hypotheses can be met, clause by clause; the checks of
`Instr.wf`, each with a command that it refuses; and the spec's worked examples.
-/
namespace Sys2Proof.Tests

open Sys2Proof.Machine

set_option Elab.async false

/-! ## States that the tests start from -/

def up : State := { State.reset with isl := (List.range 43).foldl (fun m k => mapSet Island.initial m (k+1) { Island.initial (k+1) with st := .run, target := none }) [] }
def hlps (s : State) : State := { s with cpm := { s.cpm with up := true, migrated := true, helpers := (List.range 23).foldl (fun m h => mapSet (fun _ => Helper.initial) m h ⟨3, 1, true⟩) [] } }
def allUp : State := hlps { up with calDone := true, hbm := { up.hbm with train := 1 } }
def fr (s : State) (p : Page) (off : Nat) (v : Word) : State := { s with inForce := mapSet regDefault s.inForce (regKey p off 0) v }
def rg (s : State) (p : Page) (off : Nat) (v : Word) : State := setReg s p off v
def ga (p : Page) (off : Nat) : BitVec 26 := BitVec.ofNat 26 (pageBase p + off)
def h2 : State := setPend (rg (rg { allUp with msix := { allUp.msix with enable := true, unmasked := [20] } } .fab Off.HDR_EV_EN 1) .glb (Off.GLB_VEC_MAP + 4*28) 0x114) .fab 1
def h3 : State := settle h2
def cm (s : State) (p : Page) (b : Nat) (v : CommitSlot) : State := { s with commits := mapSet (fun _ => CommitSlot.initial) s.commits (pageSlot p * 16 + b) v }
def pd0 : Pending := { snap := [], mode := 0, ns := 0, sec := 0, frame := 1, seq := 1, seen := false, held := false, taken := false, descs := [], phases := 0, ctxs := [] }
def wc (p : Page) (b : Nat) (pd : Pending) : State := cm allUp p b { CommitSlot.initial with pending := some pd, armSeq := 1 }
def tg (s : State) (g : Nat) (v : Tgen) : State := { s with tgen := mapSet (fun _ => Tgen.initial) s.tgen g v }
def isl (s : State) (k : Nat) (v : Island) : State := { s with isl := mapSet Island.initial s.isl k v }

/-! ## Commands of the wrong form, one for each check of `Instr.wf`, and the same command of the right form -/

def descOf (lw lh : Nat) : ModDesc := ⟨0, 0, 0, false, false, 0, lw, lh⟩

/-- R14, R62, R65: register accesses are aligned. -/
theorem test_wf_access :
    Instr.wf (.regWrite 0x102 false 0) = false ∧ Instr.wf (.regWrite 0x104 true 0) = false ∧ Instr.wf (.regWrite 0x104 false 0) = true ∧
    Instr.wf (.pairLoRead ⟨0x102, false⟩) = false ∧ Instr.wf (.pairLoRead ⟨0x104, true⟩) = false ∧ Instr.wf (.pairLoRead ⟨0x104, false⟩) = true := by decide +kernel

/-- R52: only a page of a commit domain can be armed, only one of a group at a group's gate, only a local one by itself. -/
theorem test_wf_commit :
    Instr.wf (.cmtArm .glb 1) = false ∧ Instr.wf (.cmtCancel .glb 1) = false ∧ Instr.wf (.cmtArm .layr 1) = true ∧
    Instr.wf (.cmtArmAtGate .glb 0) = false ∧ Instr.wf (.noframeCommitApply .hbm 0) = false ∧ Instr.wf (.cmtArmAtGate (.tgen 3) 3) = true ∧
    Instr.wf (.localCommitApply .layr) = false ∧ Instr.wf (.localSchedCommitDue (.tgen 0)) = false ∧ Instr.wf (.localCommitApply .hbm) = true := by decide +kernel

/-- R116: a slot's action, target and width lie in their fields. -/
theorem test_wf_slot :
    Instr.wf (.slotArm 0 8 0 0) = false ∧ Instr.wf (.slotArm 0 0 16 0) = false ∧ Instr.wf (.slotArm 0 0 0 256) = false ∧
    Instr.wf (.slotArm 0 7 15 255) = true := by decide +kernel

/-- R344, R346: a ring has at most 192 modules, of at most 256 x 256 lamps. -/
theorem test_wf_ring :
    Instr.wf (.enumReturn 0 (List.replicate 193 0) false) = false ∧ Instr.wf (.enumReturn 0 (List.replicate 192 0) false) = true ∧
    Instr.wf (.measTrainReturn 0 0 (List.replicate 193 0)) = false ∧ Instr.wf (.measTrainReturn 0 0 [0]) = true ∧
    Instr.wf (.moduleEnumSlot 0 0 (descOf 4 4) 193) = false ∧ Instr.wf (.moduleEnumSlot 0 0 (descOf 257 4) 0) = false ∧
    Instr.wf (.moduleEnumSlot 0 0 (descOf 4 257) 0) = false ∧ Instr.wf (.moduleEnumSlot 0 0 (descOf 256 256) 192) = true := by decide +kernel

/-- R36: a BAR2 access is not empty and lies in the aperture. -/
theorem test_wf_bar2 :
    Instr.wf (.bar2Write 0 [] false) = false ∧ Instr.wf (.bar2Read 0x7FFFFFFFF 2) = false ∧ Instr.wf (.bar2Read 0x7FFFFFFFF 1) = true ∧
    Instr.wf (.bar2Write 0 [1] false) = true := by decide +kernel

/-- What arrives at the host and network ports: completions of at most 4 KiB, frames with a whole header. -/
theorem test_wf_arrivals :
    Instr.wf (.dmaCompletionRx 0 0 (some (List.replicate 4097 0))) = false ∧ Instr.wf (.dmaCompletionRx 0 0 none) = true ∧
    Instr.wf (.netFrameRx 0 (List.replicate 13 0) false) = false ∧ Instr.wf (.netFrameRx 0 (List.replicate 14 0) false) = true ∧
    Instr.wf (.audRxWrite 0 (List.replicate 33 0)) = false ∧ Instr.wf (.audRxWrite 0 (List.replicate 32 0)) = true := by decide +kernel

/-- The lengths of mailbox parameters and of a sensor sample. -/
theorem test_wf_lengths :
    Instr.wf (.settingsWrite [0] 0 false) = false ∧ Instr.wf (.settingsWrite (List.replicate 8 0) 0 false) = true ∧
    Instr.wf (.attest 0 [0] 0) = false ∧ Instr.wf (.attest 0 (List.replicate 8 0) 0) = true ∧
    Instr.wf (.ensignRegion 0 [0] 0) = false ∧ Instr.wf (.ensignRegion 0 (List.replicate 16 0) 0) = true ∧
    Instr.wf (.ensignPalette [0] 0) = false ∧ Instr.wf (.ensignPalette (List.replicate 32 0) 0) = true ∧
    Instr.wf (.sensorSample [none]) = false ∧ Instr.wf (.sensorSample (List.replicate 24 none)) = true := by decide +kernel

/-- R74, R75, R414: requests on Weirs, and the Weirs that carry tagged requests. -/
theorem test_wf_weir :
    Instr.wf (.weirRequest 0 false (.hbmRead 0x10 32)) = false ∧ Instr.wf (.weirRequest 0 false (.hbmRead 0xE0 64)) = false ∧
    Instr.wf (.weirRequest 100 false (.hbmRead 0 32)) = false ∧ Instr.wf (.weirRequest 40 false .work) = false ∧
    Instr.wf (.weirRequest 0 false (.hbmRead 0xE0 32)) = true ∧ Instr.wf (.weirDeliver ⟨40, false⟩) = false ∧ Instr.wf (.weirDeliver ⟨0, true⟩) = true := by decide +kernel

/-- A request of a form that its Weir does not carry changes nothing. -/
theorem test_unfit_request :
    exec (.weirRequest 0 false (.hbmRead 0x10 32)) State.reset = .next State.reset := rfl

/-- A step runs the command in front; an empty queue idles. -/
theorem test_step :
    step { State.reset with pending := [.glbEoi 0] } = exec (.glbEoi 0) State.reset ∧ step State.reset = .next State.reset := by
  exact ⟨rfl, rfl⟩

/-- A row without bits spells no command. -/
theorem test_no_words : decodeTableWord 32 0x12345678 = none ∧ State.reset.withFetchWord 32 0x12345678 = State.reset := by
  exact ⟨rfl, rfl⟩

/-! ## The spec's worked examples -/

/-- spec/00_scope.md: rounding of 2.5, 3.5, -1.25 (floor) and -2.5 (half up) in s4.4. -/
theorem test_rounding :
    halfEven 40 16 = 2 ∧ halfEven 56 16 = 4 ∧ (-20 : Int) / 16 = -2 ∧ halfUp (-40) 16 = -2 := by decide +kernel

/-- spec/06_layers_and_surfaces.md: entry 514 of the sRGB preset. -/
theorem test_srgb_entry : presetEntry 1 514 = 0x96E85 := by decide +kernel

def rayCtx : List Word := [0x00000003, 0x04200000, 0x00078000, 0x00006000, 0x01000100, 0, 0, 0, 0, 0, 0, 0, 0x00020000]
def rayVerts : List Word := [16384, 32768, 0, 16896, 32768, 0, 16384, 32256, 0, 16896, 32256, 0]
def rayType : Word := 0x80990B0B
def rayView (k : Nat) : Vec3 := if k = 73 then (0x0C00, 0x1400, 0x3B99) else (0, 0, 0)

/-- spec/07_wall_geometry: the ray of lamp 3,323 of a rotated module. -/
theorem test_ray_example : rayOf rayCtx rayType rayView rayVerts 3323 =
    ⟨(67157, 129621, 0), (20480, -12288, 61029), 0x78980, 0x6880, false⟩ := by decide +kernel

/-- spec/09_prescaler.md: a step of 4.0 has every output at phase 32, its taps from -2 to 5 and from 7,674. -/
theorem test_scaler_taps : tapAt 7680 1920 8 0 = (-2, 32) ∧ tapAt 7680 1920 8 1919 = (7674, 32) := by decide +kernel

/-- spec/09_prescaler.md: reduced to four taps, the default bank at d = 2 folds to Catmull-Rom. -/
theorem test_scaler_fold : (List.range 4).map (foldKernel [] 0 8 4 32) = (List.range 4).map (catmull 32) := by decide +kernel

def rampBlock (hi : Nat → Nat → List Nat) : List Pixel := (List.range 64).map (fun i => hi (i % 8) (i / 8))

/-- spec/10_bamler_codec.md: header bytes of the fixed-ratio example. -/
theorem test_bamler_header :
    ((encodeFixed 0 3 (rampBlock (fun x y => [32 * x, 32 * y, 128, 255]))).map (·.toNat)).take 6 = [0x00, 0x00, 0x65, 0x00, 0x94, 0x01] ∧
    (encodeCoded 0 64 (rampBlock (fun x y => [32 * x, 32 * y, 128, 255]))).2 = 464 := by decide +kernel

/-- spec/10_bamler_codec.md: rows of the R and G planes, and the decoded block. -/
theorem test_bamler_planes :
    (let b := encodeFixed 0 3 (rampBlock (fun x y => [32 * x, 32 * y, 128, 255]))
     ((b.drop 10).map (·.toNat)).take 6 = [0x88, 0xC6, 0xFA, 0x88, 0xC6, 0xFA] ∧ ((b.drop 37).map (·.toNat)).take 3 = [0x49, 0x92, 0x24] ∧
     ((b.drop 55).map (·.toNat)).take 3 = [0xFF, 0xFF, 0xFF] ∧
     decodeFixed 0 3 b = some (rampBlock (fun x y => [32 * x + 16, 32 * y + 16, 128, 255]))) := by decide +kernel

/-- spec/10_bamler_codec.md: the two blocks of the lossless-capped row take 144 and 272 bytes. -/
theorem test_bamler_capped :
    (encodeCapped 0 (rampBlock (fun x y => [32 * x, 32 * y, 128, 255]))).length = 144 ∧
    (encodeCapped 0 (rampBlock (fun x y => [36 * x, 36 * y, 255 - 36 * x, 36 * y]))).length = 272 := by decide +kernel

def gainSet : AMap Word := (List.range 9).foldl (fun m h =>
  let v (k : Nat) : Nat := code 16 (([14746, 819, 0, 328, 13926, 492, 0, 656, 13107] : List Int).getD k 0)
  let half := 20 + h
  let w := half / 2
  let old := tsetWord m 0 0 w
  mapSet tsetDefault m w (if half % 2 = 0 then BitVec.ofNat 32 (v h + fld old 16 16 * 65536)
    else BitVec.ofNat 32 (fld old 0 16 + v h * 65536))) []

/-- spec/11_lamp_correction.md: the drive code of lamp 3,323. -/
theorem test_drive_code :
    driveCode gainSet 0 0 2 [0x9A060, 0x94FD0, 0x9B7B8] 0x0642C17C 0x08000020 512 = (0xD4789773BF5E, false) := by decide +kernel

/-- spec/11_lamp_correction.md: halfway through a fade from 0 to 1,024 the attenuation is 512; the lamp's wear block. -/
theorem test_fade_and_wear_block :
    fadeAt [⟨0, 0, 1024, 100000⟩] 50000000 = 512 ∧ wearBlock rayCtx rayType 3323 = 55 := by decide +kernel

/-- spec/18_camera_pipelines.md: the trim update of a measured lamp. -/
theorem test_trim_update : (applyMeas ⟨2, false, 0, 0, 16384, 16384, 16384, 32, 0, 0⟩ 0x0642C17C 0 17875 0) = 0x0642A17C := by decide +kernel

def ringOf3 : Ring := { Ring.initial with n := 3, step := 4, cbl := [(0, 64), (1, 168), (2, 272), (3, 400)] }
def hopsOf (s : State) : Nat × List Nat :=
  let r := (hopDelays s 0 ringOf3 (List.replicate 15 121808 ++ [121808]) [38416, 38016, 38976]).1
  (r.rl, (List.range 3).map (fun m => (modEnt r m).hop))

/-- spec/12_bunting_physical.md: rl and the hop delays with an even split, in ns / 256. -/
theorem test_hop_delays : hopsOf State.reset = (121808, [1600, 41616, 81232]) := by decide +kernel

/-- spec/13_bunting_protocol.md: the Pennant lead. -/
theorem test_pennant_lead : penLead 121808 = 784 := by decide +kernel

/-- spec/13_bunting_protocol.md: the sizes of a FULL part of 4,096 lamps and of a DELTA part with 3 of 64 rows changed. -/
theorem test_part_sizes :
    (fullPart 0 0 0 1 (List.replicate 4096 5)).length = 1589 ∧
    (deltaPart 1 0 0 1 0 ((List.range 64).map (fun y => (decide (y < 3), List.replicate 64 5)))).length = 77 ∧
    (deltaPart 2 0 0 1 0 ((List.range 64).map (fun _ => (false, List.replicate 64 5)))).length = 3 ∧
    (padPart (barePart 3 2 0 1)).length = 4 := by decide +kernel

/-- spec/15_hbm_controller.md: the address mapping. -/
theorem test_hbm_map : hbmPc 0x123456780 = 14 ∧ hbmBank 0x123456780 = 8 ∧ hbmRow 0x123456780 = 18641 ∧
    hbmCol 0x123456780 = 20 ∧ hbmPc 0x123456880 = 1 := by decide +kernel

/-- spec/16_host_and_scene_store.md: a clip's byte lies on drive 3. -/
theorem test_clip_place : clipPlace ⟨15, 2 ^ 20, 0x400000, 2 ^ 32⟩ 0x12345678 = (3, 0x4C45678) := by decide +kernel

/-- spec/17_network_ingest.md: a narrow-range BT.709 pixel in RGB10A2. -/
theorem test_bt709 : (let c := toRgb 10 0 0 true 502 448 600
    pixelVal 1 [outCode 10 c.1, outCode 10 c.2.1, outCode 10 c.2.2, 3]) = 0xD7877A9E := by decide +kernel

/-- spec/19_audio_ports.md: gains near the end of the data, and the samples they play. -/
theorem test_audio_fade :
    fadeGain 256 32768 256 = 32768 ∧ fadeGain 256 32768 200 = 25600 ∧ fadeGain 256 25600 1 = 128 ∧ fadeGain 256 128 0 = 0 ∧
    fadeSample 4194304 25600 = 3276800 ∧ fadeSample 4194304 128 = 16384 := by decide +kernel

def govAt (t : Int) (n : Nat) : State :=
  setGovStep (fr { allUp with therm := { allUp.therm with sens := [(3, { Sensor.initial with valid := true, temp := t })] } }
    .thrm Off.THRM_GOV_CFG 0x01642264) 3 n

/-- spec/22_thermal_and_selfcal.md: the governor's steps of group 3. -/
theorem test_governor :
    govNext (govAt 25472 0) 3 = 0 ∧ govNext (govAt 26496 0) 3 = 1 ∧ govNext (govAt 26522 1) 3 = 2 ∧ govNext (govAt 26688 2) 3 = 3 ∧
    govNext (govAt 27168 3) 3 = 4 ∧ govNext (govAt 26592 4) 3 = 3 ∧ (List.range 5).map thermOf = [32, 24, 16, 12, 8] := by decide +kernel

/-- spec/22_thermal_and_selfcal.md: a delay line's period, gain and fraction. -/
theorem test_calibration : calScale 296448 = 37056 ∧ calGain 37056 = 57952 ∧ calFrac 37056 150 = 133 := by decide +kernel


def tile (d : Nat) (p : Nat → Option (List Nat)) : Tile := .pixels ((List.range d).map p)
def marchCache : AMap Tile :=
  [(tileKey 0 12 7, tile 64 (fun k => some (if k = blockIndex 98 62 then [255, 0, 0, 128] else [0, 0, 0, 0])))
  , (tileKey 1 56 6, tile 64 (fun k => some (if k / 8 = 3 then [0, 0xFFFF, 0] else if k / 8 = 4 then [0, 0, 0xFFFF] else [0, 0, 0])))]
def planeView : LayerView :=
  ⟨[1, 0x6000, 0, 0, 0, 0, 0, 65536, 131072, 32768, 32768, 0, 0, 0, 0xFFFF8000, 0], true, 0, [0, 0x00FF00FF], none⟩
def surfView : LayerView :=
  ⟨[0x1000, 0x8000, 1, 0, 0, 0, 0, 262144, 0, 32768, 32768], true, 1, [4, 0x0437077F], none⟩
def exampleMarch : March :=
  march allUp marchCache (fun _ _ _ => 0) 4 0x0100 true 2 ⟨(67157, 129621, 0), (20480, -12288, 61029), 0x78980, 0x6880, false⟩
    [(0, some planeView), (1, some surfView), (2, none)] ⟨0x10000, [0, 0, 0], 0, [], []⟩

/-- spec/08_ray_compositing.md: positions, transmittance, samples taken and the codes of the worked ray. -/
theorem test_composite :
    exampleMarch.tr = 0 ∧ exampleMarch.n = 2 ∧ exampleMarch.acc.map toL20 = [0x9A060, 0x94FD0, 0x9B7B8] := by decide +kernel

/-- spec/08_ray_compositing.md: the Surface entry stops its module, the Plane entry does not. -/
theorem test_cull : cullsAt allUp surfView rayCtx rayType = true ∧ cullsAt allUp planeView rayCtx rayType = false := by decide +kernel

def spotRegs (off : Nat) : Word :=
  if off = Off.CAM_CROP_WH then 0x05A00A00 else if off = Off.CAM_SPOT_CFG then 0x00200010
  else if off = Off.CAM_BLACK_GAIN then 0x10000000 else if off = Off.CAM_CLIP then 0xFFFF else 0
def spotRow (c e : Nat) : List Nat := List.replicate 1232 0 ++ [1000, e, c, e, 1000]
def spotFrame : CamFrame :=
  ⟨false, 0, 0, [], 0, [List.replicate 1240 1000, spotRow 20000 8000, spotRow 40000 20000, spotRow 20000 8000, List.replicate 1240 1000]
    ++ List.replicate 565 [], 0, 0, none⟩

/-- spec/18_camera_pipelines.md: the output record of the worked spot. -/
theorem test_spot :
    spotRecord spotRegs spotFrame ([], 0, false) [0x01000CFB, 0x0004D280, 0x00023740] = ([0xCFB, 0x45D30000, 0], 567, false) := by
  decide +kernel

/-- spec/05_output_timing.md: a change from 60 Hz to 59.94 Hz on the EPOCH grid, by jump and by slew. -/
theorem test_jump_and_slew :
    (nextLatch (fr (fr allUp (.tgen 0) Off.TGEN_MODE (9 + 32 + 8192)) (.tgen 0) Off.TGEN_GEN_SLEW 1000) 0 1700000000000000000 false true).at_
      = 1700000000000000000 + mkRat 95000000 3 ∧
    (nextLatch (fr (fr allUp (.tgen 0) Off.TGEN_MODE (9 + 32)) (.tgen 0) Off.TGEN_GEN_SLEW 1000) 0 1700000000000000000 false true).at_
      = 1700000000000000000 + mkRat 50050000 3 ∧
    (nextLatch (fr (fr allUp (.tgen 0) Off.TGEN_MODE (9 + 32)) (.tgen 0) Off.TGEN_GEN_SLEW 1000) 0
      (1700000000000000000 + mkRat 50050000 3) false false).at_ = 1700000000000000000 + mkRat 100100000 3 - 1000 := by decide +kernel

/-- A state in which both tables' bases can be written (`Obligations.TableWrites`). -/
theorem witness_TableWrites_bases :
    pageUp allUp .layr = true ∧ (liveDescs allUp).isEmpty = true ∧ allUp.layr.bufs = [] := by decide +kernel

/-! ## Witnesses of the obligations' hypotheses -/

namespace W01

def w1b : State := { h3 with msix := { h3.msix with pend := [3, 5] } }
def w1d : State := { allUp with bar2 := { allUp.bar2 with flush := true } }
def w1e : State := capture allUp .thrm (Off.THRM_STEP_LO + 4) 9

/-- States and operands that meet the hypotheses of the clauses of `Obligations.CapturingReads`. -/
theorem witness_CapturingReads :
  (let s : State := w1d
   s.bar2.flush = true ∧ (bar2Waits s = false ∨ hbmLive s = false)) ∧
  (let s : State := w1e
   let p : Page := .thrm
   let off : Nat := Off.THRM_STEP_LO+4
   let a : BitVec 26 := ga .thrm (Off.THRM_STEP_LO+4)
   let w : Word := 9
   hostReach s = true ∧ pageUp s p = true ∧ 128 ≤ off ∧ off < 4096 ∧ off % 4 = 0 ∧ a.toNat = pageBase p + off ∧
   mapGet (fun _ => none) s.captures (regKey p off 0) = some w) ∧
  (let s : State := allUp
   let p : Page := .thrm
   let off : Nat := Off.THRM_STEP_LO
   let a : BitVec 26 := ga .thrm Off.THRM_STEP_LO
   hostReach s = true ∧ pageUp s p = true ∧ 128 ≤ off ∧ off < 4092 ∧ off % 4 = 0 ∧ a.toNat = pageBase p + off ∧ pairLo p off = true ∧
   mapGet (fun _ => none) s.captures (regKey p off 0) = none ∧ portRead s p off = none ∧ freeView s p off = none ∧
   (∀ (k : Fin 16), p ≠ Page.sync ∧ p ≠ Page.tgen k)) ∧
  (let s : State := allUp
   let p : Page := .time
   let off : Nat := Off.TIME_GM_ID_LO
   let a : BitVec 26 := ga .time Off.TIME_GM_ID_LO
   hostReach s = true ∧ pageUp s p = true ∧ 128 ≤ off ∧ off < 4088 ∧ off % 8 = 0 ∧ a.toNat = pageBase p + off ∧ pairLo p off = true ∧
   mapGet (fun _ => none) s.captures (regKey p off 0) = none ∧ portRead s p off = none ∧ freeView s p off = none ∧
   (∀ (k : Fin 16), p ≠ Page.sync ∧ p ≠ Page.tgen k)) := by
  and_intros <;> first | decide +kernel | rfl

/-- States and operands that meet the hypotheses of the clauses of `Obligations.EventBits`. -/
theorem witness_EventBits :
  (let s : State := h3
   let p : Page := .fab
   pageUp s p = true) := by
  and_intros <;> first | decide +kernel | rfl

/-- States and operands that meet the hypotheses of the clauses of `Obligations.EveryCommandCompletes`. -/
theorem witness_EveryCommandCompletes :
  (let c : Instr := .glbEoi 3
   c.wf = true) := by
  and_intros <;> first | decide +kernel | rfl

/-- States and operands that meet the hypotheses of the clauses of `Obligations.PageMapRoundTrip`. -/
theorem witness_PageMapRoundTrip :
  (let n : Nat := 0x101
   let p : Page := .bport 1
   pageOfSlot n = some p) := by
  and_intros <;> first | decide +kernel | rfl

/-- States and operands that meet the hypotheses of the clauses of `Obligations.RegisterWrites`. -/
theorem witness_RegisterWrites :
  (let s : State := allUp
   hostReach s = true ∧ pageUp s Page.glb = true) ∧
  (let s : State := allUp
   let n : Nat := 5
   let off : Nat := 0x100
   let a : BitVec 26 := BitVec.ofNat 26 (5*4096+0x100)
   n < 4096 ∧ off < 4096 ∧ off % 4 = 0 ∧ a.toNat = n * 4096 + off ∧ off ≠ Off.HDR_PCTRL ∧
   (∀ (p : Page), pageOfSlot n = some p → pageUp s p = false)) ∧
  (let s : State := allUp
   let p : Page := .fab
   let off : Nat := Off.FAB_ARB_CFG
   let a : BitVec 26 := ga .fab Off.FAB_ARB_CFG
   let v : BitVec 64 := 0x112233
   let r : RegRow := ⟨256, 1, 0, 1, 0, 0, 4194303, 0, 2105376⟩
   hostReach s = true ∧ pageUp s p = true ∧ off < 4096 ∧ off % 4 = 0 ∧ a.toNat = pageBase p + off ∧ off ≠ Off.HDR_PCTRL ∧
   actWrite s p off (BitVec.setWidth 32 v) = none ∧ regRow (kindOf p) off = some r) := by
  and_intros <;> first | decide +kernel | rfl

/-- States and operands that meet the hypotheses of the clauses of `Obligations.StoreReadBack`. -/
theorem witness_StoreReadBack :
  (let s : State := allUp
   mapWf memDefault s.mem = true) ∧
  (let s : State := allUp
   s.ecc = []) ∧
  (let o : Nat := 0x100
   let o' : Nat := 0x100
   o < 4096 ∧ o' < 4096) := by
  and_intros <;> first | decide +kernel | rfl

/-- States and operands that meet the hypotheses of the clauses of `Obligations.VectorMessages`. -/
theorem witness_VectorMessages :
  (let s : State := h3
   s.msix.inputs = vecInputs s ∧ s.msix.enable = true) ∧
  (let s : State := w1b
   let v : Fin 64 := 5
   s.msix.inputs = vecInputs s ∧ islandUp s islHost = true ∧ s.msix.enable = true ∧ s.msix.funcMask = false ∧ v.val ∈ s.msix.pend) := by
  and_intros <;> first | decide +kernel | rfl

/-- States and operands that meet the hypotheses of the clauses of `Obligations.VectorsFollowEveryStep`. -/
theorem witness_VectorsFollowEveryStep :
  (let s : State := h3
   let t : State := h3
   s.msix.inputs = vecInputs s ∧ step s = Host.Outcome.next t) := by
  and_intros <;> first | decide +kernel | rfl

end W01

namespace W02

def w2run : State := tg allUp 0 { Tgen.initial with gen := .run }
def w2a : State := fr (rg allUp .trim Off.HDR_CMT_TIME_LO 999999999) .trim Off.TRIM_CTRL 1
def w2b : State := wc (.tgen 0) 0 pd0
def w2g : State := wc (.aud 0) 0 { pd0 with snap := [(regKey (.aud 0) Off.AUD_CFG 0, 5)] }
def w2h : State := wc (.aud 0) 0 { pd0 with mode := 2, sec := 0, ns := 0 }
def w2i : State := wc (.aud 0) 0 { pd0 with mode := 2, sec := 9, ns := 0 }
def w2j : State := wc .trim 3 { pd0 with seen := true }
def w2k : State := wc .trim 3 { pd0 with taken := true }
def w2m : State := rg (wc .trim 3 { pd0 with held := true }) .glb Off.GLB_CMT_HOLD 8

/-- States and operands that meet the hypotheses of the clauses of `Obligations.CommitApplication`. -/
theorem witness_CommitApplication :
  (let s : State := allUp
   s.commits = []) ∧
  (let g : Fin 16 := 3
   let s : State := allUp
   groupPending s g.val = []) ∧
  (let p : Page := .aud 0
   let s : State := w2h
   let pd : Pending := { pd0 with mode := 2, sec := 0, ns := 0 }
   pageUp s p = true ∧ domainOf p = Domain.loc ∧ (cslot s p 0).pending = some pd ∧ pd.mode = 2 ∧ 0 ≤ sinceTime s pd.sec pd.ns) ∧
  (let p : Page := .aud 0
   let s : State := w2i
   let pd : Pending := { pd0 with mode := 2, sec := 9, ns := 0 }
   pageUp s p = true ∧ domainOf p = Domain.loc ∧ (cslot s p 0).pending = some pd ∧ pd.mode = 2 ∧ sinceTime s pd.sec pd.ns < 0) ∧
  (let g : Fin 16 := 3
   let p : Page := .trim
   let b : Nat := 3
   let s : State := wc .trim 3 pd0
   let pd : Pending := pd0
   groupPending s g.val = [(p, b, pd)] ∧ (cslot s p b).pending = some pd ∧ pd.taken = false ∧ reg s Page.glb Off.GLB_CMT_HOLD = 0) ∧
  (let g : Fin 16 := 3
   let s : State := w2k
   let p : Page := .trim
   let b : Nat := 3
   let pd : Pending := { pd0 with taken := true }
   groupPending s g.val = [(p, b, pd)] ∧ (cslot s p b).pending = some pd ∧ pd.taken = true ∧ pageUp s p = true ∧ p ≠ Page.layr) ∧
  (let p : Page := .aud 0
   let s : State := w2g
   let pd : Pending := { pd0 with snap := [(regKey (.aud 0) Off.AUD_CFG 0, 5)] }
   pageUp s p = true ∧ domainOf p = Domain.loc ∧ (cslot s p 0).pending = some pd ∧ (pd.mode ≠ 2 ∨ (cslot s p 0).missed = true)) ∧
  (let g : Fin 16 := 3
   let p : Page := .trim
   let b : Nat := 3
   let s : State := w2m
   let pd : Pending := { pd0 with held := true }
   groupPending s g.val = [(p, b, pd)] ∧ (cslot s p b).pending = some pd ∧ pd.held = true ∧
   reg s Page.glb Off.GLB_CMT_HOLD = word (2 ^ g.val)) ∧
  (let p : Page := .trim
   let g : Fin 16 := 3
   let b : Nat := 3
   let s : State := w2j
   let pd : Pending := { pd0 with seen := true }
   b = bankAt p g.val ∧ pageUp s p = true ∧ p ≠ Page.layr ∧ commitGroup p b = some g.val ∧ (cslot s p b).pending = some pd ∧
   pd.seen = true ∧ pd.held = false ∧ pd.taken = false ∧ tgenRuns s g.val = false) := by
  and_intros <;> first | decide +kernel | rfl

/-- States and operands that meet the hypotheses of the clauses of `Obligations.CommitArmsAndCancels`. -/
theorem witness_CommitArmsAndCancels :
  (let s : State := allUp
   let p : Page := .aud 0
   let b : Nat := 0
   (∀ (o : Pending), (cslot s p b).pending = some o → o.taken = false) ∧ domainOf p = Domain.loc) ∧
  (let p : Page := .tgen 0
   let v : Word := 2
   let s : State := w2b
   pageUp s p = true ∧ domainOf p ≠ Domain.none ∧ bitOf v 0 = false) ∧
  (let p : Page := .tgen 0
   let v : Word := 0x4
   let s : State := w2run
   pageUp s p = true ∧ domainOf p ≠ Domain.none ∧ bitOf v 1 = false ∧
   (armRefused (setReg s p Off.HDR_CMT_CTRL (putBit v 0 true &&& word (if domainOf p = Domain.banked then 4294905612 else 3852))) p (selBanks p (putBit v 0 true)) (fld (putBit v 0 true) 2 2) = true)) ∧
  (let p : Page := .trim
   let v : Word := 0x10000
   let s : State := w2a
   pageUp s p = true ∧ domainOf p ≠ Domain.none ∧ bitOf v 1 = false ∧
   (armRefused (setReg s p Off.HDR_CMT_CTRL (putBit v 0 true &&& word (if domainOf p = Domain.banked then 4294905612 else 3852))) p (selBanks p (putBit v 0 true)) (fld (putBit v 0 true) 2 2) = false) ∧
   (banksRefused (setReg s p Off.HDR_CMT_CTRL (putBit v 0 true &&& word (if domainOf p = Domain.banked then 4294905612 else 3852))) p (selBanks p (putBit v 0 true)) = none) ∧
   loadsArm p = false) ∧
  (let p : Page := .layr
   let v : Word := 0x30000
   let s : State := allUp
   pageUp s p = true ∧ domainOf p ≠ Domain.none ∧ bitOf v 1 = false ∧
   (armRefused (setReg s p Off.HDR_CMT_CTRL (putBit v 0 true &&& word (if domainOf p = Domain.banked then 4294905612 else 3852))) p (selBanks p (putBit v 0 true)) (fld (putBit v 0 true) 2 2) = false) ∧
   (banksRefused (setReg s p Off.HDR_CMT_CTRL (putBit v 0 true &&& word (if domainOf p = Domain.banked then 4294905612 else 3852))) p (selBanks p (putBit v 0 true)) = none) ∧
   loadsArm p = true) := by
  and_intros <;> first | decide +kernel | rfl

/-- States and operands that meet the hypotheses of the clauses of `Obligations.CommitGateAndForce`. -/
theorem witness_CommitGateAndForce :
  (let s : State := w2b
   let p : Page := .tgen 0
   pageUp s p = true) ∧
  (let p : Page := .trim
   let b : Nat := 0
   let snap : AMap Word := [(regKey .trim Off.TRIM_CTRL 0, 2)]
   (∀ (e : Nat × Word), e ∈ snap → keyOf p b e.fst = true) ∧ mapWf regDefault snap = true) ∧
  (let p : Page := .trim
   let b : Nat := 0
   let snap : AMap Word := [(regKey .trim Off.TRIM_CTRL 0, 2)]
   let k : Nat := regKey .trim Off.TRIM_CTRL 0
   (∀ (e : Nat × Word), e ∈ snap → keyOf p b e.fst = true) ∧ mapWf regDefault snap = true ∧ keyOf p b k = true) ∧
  (let p : Page := .trim
   let b : Nat := 0
   let snap : AMap Word := [(regKey .trim Off.TRIM_CTRL 0, 2)]
   let k : Nat := regKey .diag Off.DIAG_CTRL 0
   (∀ (e : Nat × Word), e ∈ snap → keyOf p b e.fst = true) ∧ mapWf regDefault snap = true ∧ keyOf p b k = false) ∧
  (let p : Page := .tgen 0
   let g : Fin 16 := 0
   let b : Nat := 0
   let s : State := w2b
   let pd : Pending := pd0
   b = bankAt p g.val ∧ commitGroup p b = some g.val ∧ (cslot s p b).pending = some pd ∧ pd.seen = false ∧ pd.held = false ∧
   pd.taken = false ∧ islandUp s (islPgrp g.val) = true) ∧
  (let p : Page := .trim
   let b : Nat := 0
   let snap : AMap Word := [(regKey .trim Off.TRIM_CTRL 0, 2)]
   (∀ (e : Nat × Word), e ∈ snap → keyOf p b e.fst = true) ∧ mapWf regDefault snap = true) := by
  and_intros <;> first | decide +kernel | rfl

end W02

namespace W03

def st3 (k : Nat) (st : IslState) (tg : Option IslState := none) (resume : Bool := false) : State := isl allUp k { Island.initial k with st := st, target := tg, resume := resume }
def q3 (k : Nat) : State := { st3 k .off (some .reset) with pwrQueue := [k, 5] }
def u3_0_true_run : State := isl allUp 0 { Island.initial 0 with st := .update, resume := true, updFrom := .run, load := some (7, true) }

/-- States and operands that meet the hypotheses of the clauses of `Obligations.IslandRefusals`. -/
theorem witness_IslandRefusals :
  (let p : Page := .trim
   let s : State := st3 2 .run
   pagePresent s p = true ∧ islFixed s (islandOf p) = false ∧ (island s (islandOf p)).target = none ∧
   (island s (islandOf p)).st = IslState.run) ∧
  (let p : Page := .glb
   let s : State := st3 0 .off none
   let st : IslState := .off
   pagePresent s p = true ∧ (island s (islandOf p)).st = st ∧
   (islFixed s (islandOf p) = true ∨ (island s (islandOf p)).target.isSome = true ∨ st = IslState.update ∨ st = IslState.off ∨ st = IslState.dead) ∧
   st ≠ IslState.run) := by
  and_intros <;> first | decide +kernel | rfl

/-- States and operands that meet the hypotheses of the clauses of `Obligations.IslandRequests`. -/
theorem witness_IslandRequests :
  (let p : Page := .glb
   let s : State := up
   pagePresent s p = true) ∧
  (let p : Page := .trim
   let s : State := st3 2 .off
   pagePresent s p = true ∧ islFixed s (islandOf p) = false ∧ (island s (islandOf p)).target = none ∧
   (island s (islandOf p)).st = IslState.off) ∧
  (let p : Page := .trim
   let s : State := st3 2 .run
   pagePresent s p = true ∧ islFixed s (islandOf p) = false ∧ (island s (islandOf p)).target = none ∧
   (island s (islandOf p)).st = IslState.run) ∧
  (let p : Page := .trim
   let s : State := st3 2 .idle
   pagePresent s p = true ∧ islFixed s (islandOf p) = false ∧ (island s (islandOf p)).target = none ∧
   (island s (islandOf p)).st = IslState.idle) ∧
  (let p : Page := .trim
   let s : State := st3 2 .reset
   pagePresent s p = true ∧ islFixed s (islandOf p) = false ∧ (island s (islandOf p)).target = none ∧
   (island s (islandOf p)).st = IslState.reset) ∧
  (let p : Page := .trim
   let s : State := st3 2 .run
   pagePresent s p = true ∧ islFixed s (islandOf p) = false ∧ (island s (islandOf p)).target = none ∧
   ((island s (islandOf p)).st = IslState.idle ∨ (island s (islandOf p)).st = IslState.run)) ∧
  (let p : Page := .trim
   let s : State := isl (st3 2 .idle) 2 { Island.initial 2 with st := .idle, imgVer := 1 }
   pagePresent s p = true ∧ islFixed s (islandOf p) = false ∧ (island s (islandOf p)).target = none ∧
   (island s (islandOf p)).st = IslState.idle ∧ mayRun s (islandOf p) = true) := by
  and_intros <;> first | decide +kernel | rfl

/-- States and operands that meet the hypotheses of the clauses of `Obligations.IslandTransitionEnds`. -/
theorem witness_IslandTransitionEnds :
  (let k : Fin 44 := 0
   let s : State := u3_0_true_run
   (island s k.val).st = IslState.update ∧ s.cpm.entries = []) ∧
  (let k : Nat := 0
   let q : List Nat := [5]
   let s : State := q3 0
   s.pwrQueue = k :: q ∧ (island s k).st = IslState.off) ∧
  (let s : State := st3 3 .reset (some .idle)
   (island s 3).st = IslState.reset ∧ (island s 3).target = some IslState.idle) ∧
  (let k : Fin 44 := 0
   let s : State := st3 0 .reset (some .idle)
   k.val ≠ 3 ∧ (island s k.val).st = IslState.reset ∧ (island s k.val).target = some IslState.idle) ∧
  (let k : Fin 44 := 0
   let s : State := u3_0_true_run
   let ver : Word := 7
   (island s k.val).st = IslState.update ∧ s.cpm.entries = [] ∧ (island s k.val).load = some (ver, true)) ∧
  (let k : Fin 44 := 0
   let s : State := st3 0 .run (some .idle)
   (island s k.val).st = IslState.run ∧ (island s k.val).target = some IslState.idle ∧ drained s k.val = true) ∧
  (let k : Fin 44 := 0
   let s : State := st3 0 .idle (some .off)
   let goal : IslState := .off
   islandUp s k.val = true ∧ (island s k.val).target = some goal ∧
   (goal = IslState.reset ∨ goal = IslState.off ∨ goal = IslState.update ∨ goal = IslState.dead) ∧ k.val ≠ 36) := by
  and_intros <;> first | decide +kernel | rfl

/-- States and operands that meet the hypotheses of the clauses of `Obligations.ResetClearsPages`. -/
theorem witness_ResetClearsPages :
  (let k : Nat := 1
   let p : Page := .hbm
   let off : Nat := 0x104
   let b : Nat := 0
   0 < k ∧ off < 4096 ∧ b < 16 ∧ islandOf p ≠ k) ∧
  (let k : Nat := 3
   let p : Page := .hbm
   let off : Nat := 0x104
   let b : Nat := 0
   0 < k ∧ off < 4096 ∧ b < 16 ∧ islandOf p = k) := by
  and_intros <;> first | decide +kernel | rfl

end W03

namespace W04

def tm4 (s : State) (t : TimeUnit) : State := { s with time := t }
def T0 : TimeUnit := allUp.time
def w4a : State := tm4 allUp { T0 with f := 655360, now := 2^48*1000000000*2^32 - 5 }
def w4b : State := fr (tm4 allUp { T0 with slewing := true, slewLeft := 77777777777 }) .time Off.TIME_SRV_FMAX 1000
def w4d : State := tg (rg (rg (rg (rg (fr (tm4 allUp { T0 with slewing := true, slewLeft := -3, now := 123456789012345678 }) .time Off.TIME_SRV_CTRL 1) .time Off.TIME_SET_SEC_HI 7) .time Off.TIME_SET_SEC_LO 0x12345678) .time Off.TIME_SET_NS 999999999) .time Off.TIME_ADJ_OFFSET 0xFFFFFF00) 0 { Tgen.initial with gen := .run, plans := [⟨0,.run,5,7,1,[],0,false,true,true,true,false,0,[],[]⟩] }
def w4e : State := fr (fr (fr (fr (fr (tm4 allUp { T0 with srv := 2, sample := some (70000, 0), f := 5555, fPrev := 5000, integ := 4444, first := false, lastUsed := 0, now := 2^32*3000000000 }) .time Off.TIME_SRV_CTRL 1) .time Off.TIME_SRV_KP 300) .time Off.TIME_SRV_KI 20) .time Off.TIME_SRV_FMAX 1000) .time Off.TIME_SRV_SLEW 10
def w4f : State := fr w4e .time Off.TIME_SRV_CTRL 3
def w4h : State := fr (tm4 w4e { w4e.time with srv := 1, sample := some (-99999999999, 0) }) .time Off.TIME_SRV_CTRL 0x11
def r4 (p : Nat) (s : State) : State := setTracker s 2 { Tracker.initial with st := 2, period := p }
def sy (k off : Nat) (v : Word) (s : State) : State := fr s .sync (off + 0x40 * k) v
def tk (k : Nat) (v : Tracker) (s : State) : State := setTracker s k v
def w4t (k : Nat) (t : Tracker) : State := { (tk k t (sy k Off.SYNC_CFG 0x00030500 (sy k Off.SYNC_TOL 100 (sy k Off.SYNC_WINDOW 50 (sy k Off.SYNC_SLEW 20 allUp))))) with calDone := true }
def w4l (k p : Nat) : State := w4t k { Tracker.initial with st := 1, edge := some 98, last := some (40*65536), prevPeriod := some p, stable := 2, cycles := 9999 }
def P4 : Nat := 10240*106666669
def w4p (k : Nat) : State := w4t k { Tracker.initial with st := 2, period := 16666667*65536, edge := some 7, last := some (7*65536), good := some (7*65536), predicted := (7+16666667)*65536, prevPeriod := some (16666667*65536), cycles := 9999, out := some 8, last8 := [5], miss := 0, change := 0 }
def sct (k : Nat) (s : State) : State := { (sy k Off.SYNC_CFG 0x00330500 s) with time := { s.time with now := 40000000 * 2^32 } }
def w4s (past : Bool) (a : Nat) : State := setSlot (tm4 allUp { T0 with now := 2^32*5 }) 40 { Slot.initial with armed := true, action := a, target := 3, ns := 2, past := past }

theorem w4s_others : ∀ j : Nat, j ≠ 40 → slotDue (w4s true 3) j = false := by
  intro j hj
  have h : slot (w4s true 3) j = Slot.initial := by
    unfold w4s setSlot slot
    simp only [mapGet_mapSet, hj, if_false]
    rfl
  unfold slotDue
  rw [h]
  rfl

/-- States and operands that meet the hypotheses of the clauses of `Obligations.ServoAndPtp`. -/
theorem witness_ServoAndPtp :
  (let s : State := w4e
   let o : Int := 70000
   let log : Int := 0
   s.time.sample = some (o, log) ∧ slewRuns s = false ∧ s.time.srv = 2) ∧
  (let s : State := tm4 w4e { w4e.time with srv := 0 }
   let o : Int := 70000
   let log : Int := 0
   s.time.sample = some (o, log) ∧ (slewRuns s = true ∨ s.time.srv = 0)) ∧
  (let s : State := tm4 w4e { w4e.time with sample := none, fHist := [5,6,8] }
   (s.time.srv = 1 ∨ s.time.srv = 2) ∧ s.time.sample = none ∧ s.time.fHist ≠ []) ∧
  (let s : State := r4 (65536000000+77) w4f
   slewRuns s = false ∧ (tracker s 2).st = 2 ∧ forceF s Page.time Off.TIME_SRV_CTRL 0 3 = 3 ∧ (s.time.srv = 1 ∨ s.time.srv = 2)) ∧
  (let s : State := r4 65535999000 (fr w4e .time Off.TIME_SRV_CTRL 4)
   slewRuns s = false ∧ (tracker s 2).st = 2 ∧ forceF s Page.time Off.TIME_SRV_CTRL 0 3 = 4 ∧ s.time.srv ≠ 0) ∧
  (let s : State := w4h
   let o : Int := -99999999999
   let log : Int := 0
   s.time.sample = some (o, log) ∧ slewRuns s = false ∧ s.time.srv = 1 ∧ stepOk s = true ∧
   ↑(BitVec.toNat (force s Page.time Off.TIME_SRV_STEP_THR)) * 65536 < ↑o.natAbs) := by
  and_intros <;> first | decide +kernel | rfl | exact w4s_others

/-- States and operands that meet the hypotheses of the clauses of `Obligations.Slots`. -/
theorem witness_Slots :
  (let action : Nat := 4
   let target : Nat := 15
   let width : Nat := 255
   action < 6 ∧ target < 16 ∧ 0 < width ∧ width < 256) ∧
  (let k : Fin 64 := 3
   let s : State := allUp
   bitOf (reg s Page.time (Off.TIME_SLOT_CTRL + 16 * k.val)) 0 = false ∧ slotDue s k.val = false) ∧
  (let k : Fin 64 := 40
   let s : State := w4s true 3
   bitOf (reg s Page.time (Off.TIME_SLOT_CTRL + 16 * k.val)) 0 = false ∧ slotDue s k.val = true ∧
   ((slot s k.val).action = 2 ∨ (slot s k.val).action = 3)) ∧
  (let k : Fin 64 := 40
   let s : State := w4s true 3
   (∀ (j : Nat), j ≠ k.val → slotDue s j = false) ∧ slotDue s k.val = true ∧ ((slot s k.val).action = 2 ∨ (slot s k.val).action = 3) ∧
   (slot s k.val).period = 0 ∧ islState s 0 = IslState.run) := by
  and_intros <;> first | decide +kernel | rfl | exact w4s_others

/-- States and operands that meet the hypotheses of the clauses of `Obligations.TimeBase`. -/
theorem witness_TimeBase :
  (let s : State := w4d
   islState s 0 = IslState.run) ∧
  (let s : State := w4d
   islState s 0 = IslState.run) ∧
  (let s : State := w4b
   s.time.slewing = true ∧ s.time.slewLeft ≠ 0) ∧
  (let s : State := w4a
   (s.time.slewing = false ∨ s.time.slewLeft = 0)) ∧
  (let s : State := tm4 allUp { T0 with slewing := true }
   s.time.slewing = true ∧ s.time.slewLeft = 0) ∧
  (let s : State := w4d
   signed 32 (BitVec.toNat (reg s Page.time Off.TIME_ADJ_OFFSET)) ≠ 0 ∧ srvFmax s ≠ 0) ∧
  (let s : State := allUp
   (signed 32 (BitVec.toNat (reg s Page.time Off.TIME_ADJ_OFFSET)) = 0 ∨ srvFmax s = 0)) := by
  and_intros <;> first | decide +kernel | rfl | exact w4s_others

/-- States and operands that meet the hypotheses of the clauses of `Obligations.Trackers`. -/
theorem witness_Trackers :
  (let s : State := w4t 2 { Tracker.initial with st := 2, period := 5 }
   (tracker s 2).st = 2) ∧
  (let k : Fin 3 := 1
   let e : Nat := 777777777777
   let s : State := w4t 1 { Tracker.initial with st := 2, edge := some 777777777777 }
   (tracker s k.val).edge = some e) ∧
  (let k : Fin 3 := 0
   let o : Nat := 77
   let s : State := w4t 0 { Tracker.initial with st := 3, period := 5, out := some 77 }
   (tracker s k.val).st = 3 ∧ (tracker s k.val).out = some o) ∧
  (let e : Nat := 77
   let s : State := w4t 0 { Tracker.initial with st := 2, period := 5, edge := some 79, good := some 77, newRate := true, phaseErr := 9999999 }
   (tracker s 0).st = 2 ∧ (tracker s 0).good = some e ∧ fsyncGroups s = []) ∧
  (let falling : Bool := false
   let width : Nat := 9
   let s : State := w4t 2 { Tracker.initial with st := 2, cycles := 9998 }
   fld (trk s 2 Off.SYNC_CFG) 8 8 ≤ width ∧ falling = bitOf (trk s 2 Off.SYNC_CFG) 1 ∧ (tracker s 2).st ≠ 0 ∧ (tracker s 2).cycles < 9999) ∧
  (let k : Fin 3 := 1
   let e : Nat := 77
   let s : State := w4t 1 { Tracker.initial with st := 2, period := 5, edge := some 79, good := some 77, newRate := true }
   k.val ≠ 0 ∧ (tracker s k.val).st = 2 ∧ (tracker s k.val).good = some e ∧ (tracker s k.val).phaseErr = 0) ∧
  (let k : Fin 3 := 0
   let s : State := sct 0 (w4p 0)
   (tracker s k.val).st = 2 ∧ islState s 0 = IslState.run ∧
   (tracker s k.val).miss + missedBy (tracker s k.val) (trkWin s k.val) (now16 s) < fld (trk s (k.val) Off.SYNC_CFG) 20 4) ∧
  (let k : Fin 3 := 0
   let falling : Bool := true
   let width : Nat := 9
   let s : State := w4t 0 { Tracker.initial with st := 1 }
   ((tracker s k.val).st = 0 ∨ width < fld (trk s (k.val) Off.SYNC_CFG) 8 8 ∨ k.val = 1 ∧ (width < 25 ∨ 12500000 < width) ∨ falling ≠ bitOf (trk s (k.val) Off.SYNC_CFG) 1)) ∧
  (let k : Fin 3 := 0
   let s : State := { sct 0 (w4p 0) with time := { T0 with now := 120000000*2^32 } }
   (tracker s k.val).st = 2 ∧ islState s 0 = IslState.run ∧
   fld (trk s (k.val) Off.SYNC_CFG) 20 4 ≤ (tracker s k.val).miss + missedBy (tracker s k.val) (trkWin s k.val) (now16 s)) ∧
  (let k : Fin 3 := 0
   let falling : Bool := false
   let width : Nat := 5
   let stamp : Nat := 77777*65536
   let s : State := sct 0 (w4p 0)
   widthOk s (k.val) width = true ∧ falling = bitOf (trk s (k.val) Off.SYNC_CFG) 1 ∧ (k.val = 2 → 9999 ≤ (tracker s 2).cycles) ∧
   (tracker s k.val).st = 2 ∧ stampOf s stamp + fld (trk s (k.val) Off.SYNC_WINDOW) 0 20 * 2 ^ 16 < (tracker s k.val).predicted ∧
   (tracker s k.val).miss < fld (trk s (k.val) Off.SYNC_CFG) 20 4 ∧ (tracker s k.val).change + 1 < fld (trk s (k.val) Off.SYNC_CFG) 16 4 ∧
   islState s 0 = IslState.run) ∧
  (let k : Fin 3 := 0
   let falling : Bool := false
   let width : Nat := 5
   let stamp : Nat := 40*65536+P4
   let l : Nat := 40*65536
   let p : Nat := P4
   let s : State := w4l 0 P4
   widthOk s (k.val) width = true ∧ falling = bitOf (trk s (k.val) Off.SYNC_CFG) 1 ∧ (k.val = 2 → 9999 ≤ (tracker s 2).cycles) ∧
   (tracker s k.val).st = 1 ∧ (tracker s k.val).last = some l ∧ (tracker s k.val).prevPeriod = some p ∧ stampOf s stamp = l + p ∧
   within (fld (trk s (k.val) Off.SYNC_TOL) 0 16) p (trkNominal s k.val) = true ∧
   (k.val = 0 → 4000000 * 2 ^ 16 ≤ p ∧ p ≤ 50000000 * 2 ^ 16) ∧ fld (trk s (k.val) Off.SYNC_CFG) 16 4 ≤ (tracker s k.val).stable + 1) := by
  and_intros <;> first | decide +kernel | rfl | exact w4s_others

end W04

namespace W05

def z (n : Nat) : List Byte := List.replicate n 0
def sync5 : List Byte := z 12 ++ [0x88,0xF7] ++ ([0x10,0x02,0,44,0,0] ++ [0,0] ++ [0,0,0,0,0,1,0,0] ++ z 14 ++ [0,7,0,0xFD] ++ [0,0,0,0,0,5,0,0,0,9] ++ z 12)
def p5 : State := let s := fr allUp .time Off.TIME_PTP_CTRL 1
  { s with net := { s.net with toCtl := [(1, some 3, []), (0, some 123456789, sync5)] } }
def p5a : State := setPtp p5 { ptpOf p5 with leg := { (ptpOf p5).leg with master := true } }
def p5b : State := setPtp (fr p5 .time Off.TIME_PTP_CTRL 0x61) { ptpOf p5 with stby := { (ptpOf p5).stby with master := true }, leg := { (ptpOf p5).leg with master := true } }
def p5c : State := setPort (setPtp p5 { ptpOf p5 with portState := 6 }) 0 { portAt p5 0 with link := true }
def pl5 (f : Word) (gov : GenState) (l : Rat) (tr st : Bool) : FramePlan := ⟨f, gov, l, 16666667, 2, [8000000,0,0], 1000, tr, true, st,true,false,0,[],[]⟩
def t5 : State := tg allUp 3 { Tgen.initial with gen := .run, cur := 6, closed := 7, latch := 100, sched := 33333334, plans := [pl5 6 .run 100 false true, pl5 7 .run 16666767 true false] }
def t5s : State := tg t5 3 { tgen t5 3 with plans := [{ pl5 6 .run 100 false true with claim := 4, shut := [(0,0,0),(1,2,3),(2,0xFFFFFFF0,1000),(1,1,1)] }] }
def g5 (gen : GenState) : State := tg allUp 2 { Tgen.initial with gen := gen, reqLate := true, cur := 6, closed := 7, latch := 100, sched := 33333334 }
def atc (ns : Nat) (s : State) : State := { s with time := { s.time with now := ns * 2^32 } }
def c5 : State := atc 16600000 (fr (tg allUp 3 { Tgen.initial with gen := .run, cur := 6, closed := 7, latch := 100, sched := 33333434, plans := [pl5 6 .run 100 false true, pl5 7 .run 16666767 true false] }) (.tgen 3) Off.TGEN_CLOSE_LEAD 100)
def c5c : State := tg c5 3 { tgen c5 3 with req := some ⟨.stopped, none⟩ }
def e5 : State := setEng c5 3 { eng c5 3 with phase := 1, cur := some (frameStart c5 3 (pl5 6 .run 100 false true)).1 }
def e5w : State := setEng c5 3 { eng c5 3 with waiting := some (frameStart c5 3 (pl5 6 .run 100 false true)).1 }
def f5 : EngFrame := (frameStart c5 3 (pl5 6 .run 100 false true)).1

/-- States and operands that meet the hypotheses of the clauses of `Obligations.FrameClosesAndEnds`. -/
theorem witness_FrameClosesAndEnds :
  (let g : Fin 16 := 3
   let fr : EngFrame := f5
   let s : State := e5w
   (eng s g.val).cur = none ∧ (eng s g.val).waiting = some fr) ∧
  (let e : Fin 16 := 3
   let fr : EngFrame := f5
   let s : State := e5
   (eng s e.val).cur = some fr ∧ frameFinished s (e.val) fr.frame = true) ∧
  (let e : Fin 16 := 3
   let fr : EngFrame := f5
   let s : State := e5
   (eng s e.val).cur = some fr ∧ frameSent (eng s e.val) fr e.val = true ∧ (∀ (r : Nat), r < 64 → sigReady s (e.val) fr r = false)) ∧
  (let g : Fin 16 := 3
   let pl : FramePlan := pl5 7 .run 16666767 true false
   let s : State := c5
   pageUp s (Page.tgen g) = true ∧ runPlan s g.val = some pl ∧ pl.started = false ∧ (bgrpAt s g.val).wdWait = false) ∧
  (let g : Fin 16 := 3
   let q : FramePlan := pl5 7 .run 16666767 true false
   let s : State := atc 16566766 c5
   pageUp s (Page.tgen g) = true ∧ (tgen s g.val).gen ≠ GenState.stopped ∧ planOf (tgen s g.val) (tgen s g.val).closed = some q ∧
   nowNs s < q.latch - ↑(forceF s (Page.tgen g) Off.TGEN_CLOSE_LEAD 0 10 * 1000)) ∧
  (let g : Fin 16 := 3
   let q : FramePlan := pl5 7 .run 16666767 true false
   let s : State := c5
   pageUp s (Page.tgen g) = true ∧ (tgen s g.val).gen ≠ GenState.stopped ∧ (tgen s g.val).req = none ∧
   (tgen s g.val).closed = (tgen s g.val).cur + 1 ∧ planOf (tgen s g.val) (tgen s g.val).closed = some q ∧
   q.latch - ↑(forceF s (Page.tgen g) Off.TGEN_CLOSE_LEAD 0 10 * 1000) ≤ nowNs s) ∧
  (let g : Fin 16 := 3
   let q : FramePlan := pl5 7 .run 16666767 true false
   let s : State := c5c
   pageUp s (Page.tgen g) = true ∧ (tgen s g.val).gen ≠ GenState.stopped ∧
   (tgen s g.val).req = some { want := GenState.stopped, atTime := none } ∧ (tgen s g.val).closed = (tgen s g.val).cur + 1 ∧
   planOf (tgen s g.val) (tgen s g.val).closed = some q ∧ q.latch - ↑(forceF s (Page.tgen g) Off.TGEN_CLOSE_LEAD 0 10 * 1000) ≤ nowNs s) := by
  and_intros <;> first | decide +kernel | rfl

/-- States and operands that meet the hypotheses of the clauses of `Obligations.FrameTiming`. -/
theorem witness_FrameTiming :
  (let g : Fin 16 := 3
   let p : FramePlan := pl5 6 .run 100 false true
   let s : State := t5
   planOf (tgen s g.val) (tgen s g.val).cur = some p) ∧
  (let g : Fin 16 := 3
   let p : FramePlan := pl5 7 .run 16666767 true false
   let s : State := t5
   planOf (tgen s g.val) ((tgen s g.val).cur + 1) = some p) ∧
  (let g : Fin 16 := 3
   let k : Fin 4 := 1
   let p : FramePlan := pl5 6 .run 100 false true
   let s : State := t5
   planOf (tgen s g.val) (tgen s g.val).cur = some p ∧ k.val < p.phases) ∧
  (let g : Fin 16 := 3
   let n : Fin 4 := 2
   let k : Fin 4 := 1
   let f : Word := 6
   let cfg : Word := 2
   let dly : Word := 0xFFFFFFF0
   let wid : Word := 1000
   let p : FramePlan := { pl5 6 .run 100 false true with claim := 4, shut := [(0,0,0),(1,2,3),(2,0xFFFFFFF0,1000),(1,1,1)] }
   let s : State := t5s
   planOf (tgen s g.val) f = some p ∧ p.gov = GenState.run ∧ k.val < p.phases ∧ bitOf p.claim n.val = true ∧
   (∀ (j : Nat), j < g.val → shutClaims s (n.val) j = false) ∧ p.shut[n.val]? = some (cfg, dly, wid) ∧ bitOf cfg k.val = true) := by
  and_intros <;> first | decide +kernel | rfl

/-- States and operands that meet the hypotheses of the clauses of `Obligations.GeneratorRequests`. -/
theorem witness_GeneratorRequests :
  (let g : Fin 16 := 2
   let c : Instr := .genReqRun 2 false
   let want : GenState := .run
   let s : State := g5 .stopped
   pageUp s (Page.tgen g) = true ∧
   (c = Instr.genReqStopped g false ∧ want = GenState.stopped ∨ c = Instr.genReqSlack g false ∧ want = GenState.slack ∨ c = Instr.genReqRun g false ∧ want = GenState.run ∨ c = Instr.genReqEnsign g false ∧ want = GenState.ensign) ∧
   (tgen s g.val).gen = GenState.stopped ∧ want ≠ GenState.stopped) ∧
  (let g : Fin 16 := 2
   let c : Instr := .genReqRun 2 false
   let want : GenState := .run
   let s : State := g5 .run
   pageUp s (Page.tgen g) = true ∧
   (c = Instr.genReqStopped g false ∧ want = GenState.stopped ∨ c = Instr.genReqSlack g false ∧ want = GenState.slack ∨ c = Instr.genReqRun g false ∧ want = GenState.run ∨ c = Instr.genReqEnsign g false ∧ want = GenState.ensign) ∧
   (tgen s g.val).gen ≠ GenState.stopped ∧ want = (tgen s g.val).gen) ∧
  (let g : Fin 16 := 2
   let c : Instr := .genReqRun 2 false
   let want : GenState := .run
   let s : State := g5 .slack
   pageUp s (Page.tgen g) = true ∧
   (c = Instr.genReqStopped g false ∧ want = GenState.stopped ∨ c = Instr.genReqSlack g false ∧ want = GenState.slack ∨ c = Instr.genReqRun g false ∧ want = GenState.run ∨ c = Instr.genReqEnsign g false ∧ want = GenState.ensign) ∧
   (tgen s g.val).gen ≠ GenState.stopped ∧ want ≠ (tgen s g.val).gen) ∧
  (let g : Fin 16 := 2
   let c : Instr := .genReqStopped 2 false
   let want : GenState := .stopped
   let s : State := g5 .stopped
   pageUp s (Page.tgen g) = true ∧
   (c = Instr.genReqStopped g false ∧ want = GenState.stopped ∨ c = Instr.genReqSlack g false ∧ want = GenState.slack ∨ c = Instr.genReqRun g false ∧ want = GenState.run ∨ c = Instr.genReqEnsign g false ∧ want = GenState.ensign) ∧
   (tgen s g.val).gen = GenState.stopped ∧ want = GenState.stopped) := by
  and_intros <;> first | decide +kernel | rfl

/-- States and operands that meet the hypotheses of the clauses of `Obligations.ServoAndPtp`. -/
theorem witness_ServoAndPtp_more2 :
  (let s : State := p5c
   ptpMay s = true ∧ (ptpOf s).portState = 6 ∧ (ptpOf s).onStandby = false ∧ (portAt s (ptpPort s false)).link = true) ∧
  (let s : State := p5b
   ptpMay s = true ∧ (ptpOf s).onStandby = false ∧ ptpF s 5 1 = 1 ∧ (ptpOf s).stby.master = true ∧ islState s 0 = IslState.run) ∧
  (let s : State := p5a
   let n : Nat := 0
   let rx : Int := 123456789
   let bs : List Byte := sync5
   let p : List Byte := (ethOf sync5).body
   let rest : List (Nat × Option Int × List Byte) := [(1, some 3, [])]
   oldestPtp s.net.toCtl = some ((n, rx, bs), rest) ∧ ptpMay s = true ∧ n = ptpPort s false ∧ ptpPayload s bs = some p ∧
   (ptpMsgOf p).type = 0 ∧ (ptpMsgOf p).domain = ptpF s 12 7 ∧ beVal p 1 1 % 16 = 2 ∧ (ptpMsgOf p).flags / 2 ^ 9 % 2 = 0 ∧
   (ptpOf s).leg.master = true ∧ (ptpOf s).leg.masterId = (ptpMsgOf p).src) := by
  and_intros <;> first | decide +kernel | rfl

end W05

namespace W06

def wq (w : Nat) (v : Weir) (s : State) : State := setWeir s w v
def rr : WeirReq := .hbmRead 0x100 64
def mess : State := rg (fr { allUp with mem := [(5,6)], ecc := [(1,2)], evPend := [(0,7)], pwrQueue := [3] } .trim Off.TRIM_CTRL 3) .cal Off.CAL_CAL_CFG 5
def ac : State := rg (fr (fr (fr (fr (fr allUp (.aud 1) Off.AUD_CFG 0x00011707) (.aud 1) Off.AUD_TX_MASK 5) (.aud 1) Off.AUD_RX_MASK 3) (.aud 1) Off.AUD_FADE 8) (.aud 1) Off.AUD_TX_SIZE 64) (.aud 1) Off.AUD_START_POS 77
def a1 : State := setAud ac 1 { audAt ac 1 with st := 1, lead := 1, startPos := 77 }
def a2 : State := setAud ac 1 { audAt ac 1 with st := 2, pos := 40, txNext := 41, rxNext := 40, frames := 5 }
def a3 : State := setAud ac 1 { audAt ac 1 with st := 3, pos := 40, txNext := 41, rxNext := 40, good := 3, edge := some 0 }
def a3e : State := { a3 with time := { a3.time with now := 2 ^ 32 * 20833 } }
def a7 : State := setAud ac 1 { audAt ac 1 with stamp := some ⟨9, 777777777777, true⟩ }

theorem a1_others : ∀ j : Nat, j ≠ 1 → (audAt a1 j).st ≠ 1 := by
  intro j hj
  have h : audAt a1 j = Aud.initial := by
    unfold a1 setAud audAt
    simp only [mapGet_mapSet, hj, if_false]
    rfl
  rw [h]
  decide

/-- States and operands that meet the hypotheses of the clauses of `Obligations.AudioClocksAndPorts`. -/
theorem witness_AudioClocksAndPorts :
  (let a : Fin 4 := 1
   let s : State := a2
   pageUp s (Page.aud a) = true ∧ (audAt s a.val).st = 2) ∧
  (let a : Fin 4 := 1
   let s : State := setAud ac 1 { audAt ac 1 with st := 3, playing := [1] }
   pageUp s (Page.aud a) = true) ∧
  (let a : Fin 4 := 1
   let s : State := a7
   let x : AudStamp := ⟨9, 777777777777, true⟩
   pageUp s (Page.aud a) = true ∧ (audAt s a.val).stamp = some x) ∧
  (let a : Fin 4 := 1
   let s : State := ac
   pageUp s (Page.aud a) = true ∧ (audAt s a.val).st = 0 ∧ islandRuns s (islAud a.val) = true ∧ auF s (a.val) Off.AUD_CFG 13 2 = 0) ∧
  (let a : Fin 4 := 1
   let s : State := a3
   pageUp s (Page.aud a) = true ∧ auF s (a.val) Off.AUD_STAMP_CFG 8 1 = 0 ∧ ((audAt s a.val).st = 3 ∨ (audAt s a.val).back = true) ∧
   s.ecc = [] ∧ s.hbm.inj = none) ∧
  (let a : Fin 4 := 1
   let s : State := a1
   pageUp s (Page.aud a) = true ∧ auF s (a.val) Off.AUD_STAMP_CFG 8 1 = 0 ∧ (audAt s a.val).st = 1 ∧ (audAt s a.val).lead = a.val ∧
   (∀ (j : Nat), j ≠ a.val → (audAt s j).st ≠ 1)) ∧
  (let a : Fin 4 := 1
   let s : State := a2
   let clocks : Nat := 3
   pageUp s (Page.aud a) = true ∧ auF s (a.val) Off.AUD_STAMP_CFG 8 1 = 0 ∧ (audAt s a.val).st = 2 ∧ (audAt s a.val).back = false ∧
   clocks ≠ audSlots s a.val * audBits s a.val) ∧
  (let a : Fin 4 := 1
   let s : State := a3e
   let e : Nat := 0
   pageUp s (Page.aud a) = true ∧ auF s (a.val) Off.AUD_STAMP_CFG 8 1 = 0 ∧ (audAt s a.val).st = 3 ∧ (audAt s a.val).good = 3 ∧
   (audAt s a.val).edge = some e ∧ audNear s (a.val) 1 (now16 s - e) = true) ∧
  (let a : Fin 4 := 1
   let s : State := a2
   let clocks : Nat := audSlots a2 1 * audBits a2 1
   pageUp s (Page.aud a) = true ∧ auF s (a.val) Off.AUD_STAMP_CFG 8 1 = 0 ∧ (audAt s a.val).st = 2 ∧ (audAt s a.val).back = false ∧
   clocks = audSlots s a.val * audBits s a.val ∧ (audAt s a.val).frames + 1 < 64) ∧
  (let a : Fin 4 := 1
   let s : State := setAud a2 1 { audAt a2 1 with pos := 41 }
   pageUp s (Page.aud a) = true ∧ (audAt s a.val).st = 2 ∧ s.ecc = [] ∧ s.hbm.inj = none ∧
   frameGe (audAt s a.val).pos ((audAt s a.val).rxNext + 1) = true ∧ (audAt s a.val).cut = [] ∧
   hbmOk s (frameAddr s (a.val) false (audAt s a.val).rxNext) (frameBytes s (a.val) false) = true) ∧
  (let a : Fin 4 := 1
   let s : State := a2
   pageUp s (Page.aud a) = true ∧ (audAt s a.val).st = 2 ∧ s.ecc = [] ∧ BitVec.toInt ((audAt s a.val).txNext - (audAt s a.val).pos) ≤ 64 ∧
   (fadeGain (auF s (a.val) Off.AUD_FADE 0 13) (audAt s a.val).gTx (audRoom s (a.val) true (audAt s a.val).txNext) = 0 ∨ hbmReadOk s (frameAddr s (a.val) true (audAt s a.val).txNext) (frameBytes s (a.val) true) = true)) := by
  and_intros <;> first | decide +kernel | rfl | exact a1_others

/-- States and operands that meet the hypotheses of the clauses of `Obligations.DeviceResets`. -/
theorem witness_DeviceResets :
  (let s : State := { State.reset with pins := { State.reset.pins with porst := false, tripped := false } }
   s.pins.porst = false ∧ s.pins.tripped = false) ∧
  (let c : Instr := .pcieFlr
   let s : State := mess
   (c = Instr.pcieHotReset ∨ c = Instr.pcieFlr ∨ c = Instr.pcieLinkDown) ∧
   ((island s 36).st = IslState.idle ∨ (island s 36).st = IslState.run)) ∧
  (let s : State := isl { allUp with pins := { allUp.pins with strapped := true } } 36 { Island.initial 36 with st := .reset }
   (island s 36).st = IslState.reset ∧ (island s 36).target = none ∧ s.pins.strapped = true ∧ s.pins.tripped = false) := by
  and_intros <;> first | decide +kernel | rfl | exact a1_others

/-- States and operands that meet the hypotheses of the clauses of `Obligations.Weirs`. -/
theorem witness_Weirs :
  (let w : Fin 158 := 70
   let alt : Bool := false
   let r : WeirReq := .regRead 4
   let s : State := wq 70 { Weir.initial with shadow := [0,1,2,3] } allUp
   weirTagged w.val = true ∧ reqFits (w.val) r = true ∧ weirExists s w.val = true ∧ weirSide s (weirEnds w.val).fst = true ∧
   (freePoolTag s (w.val) (drawsTrim alt r) = none ∨ weirSide s (weirEnds w.val).snd = true ∧ weirDepth w.val ≤ (weirAt s w.val).queue.length)) ∧
  (let w : Fin 158 := 16
   let s : State := wq 16 { Weir.initial with shadow := [5,6,7], replies := [(6, .ok, [1,2]), (5, .absent, [])] , due := [(7, .poison, [])] } allUp
   let r : Nat × ReplyStatus × List Byte := (6, .ok, [1,2])
   let rest : List (Nat × ReplyStatus × List Byte) := [(5, .absent, [])]
   weirTagged w.val = true ∧ (weirAt s w.val).replies = r :: rest ∧ rest.length < weirReplyDepth w.val ∧
   weirSide s (weirEnds w.val).fst = true) ∧
  (let w : Fin 158 := 16
   let s : State := wq 16 { Weir.initial with queue := [(5, false, rr), (6, false, .work)] } allUp
   let tag : Nat := 5
   let n : Nat := 64
   let alt : Bool := false
   let a : BitVec 35 := 0x100
   let rest : List (Nat × Bool × WeirReq) := [(6, false, .work)]
   w.val < 38 ∧ (weirAt s w.val).queue = (tag, alt, WeirReq.hbmRead a n) :: rest ∧ weirSide s (weirEnds w.val).snd = true ∧
   (weirAt s w.val).shadow = [] ∧ (weirAt s w.val).orphans = [] ∧ (weirAt s w.val).due = [] ∧ (weirAt s w.val).replies = [] ∧
   hbmLive s = true) ∧
  (let w : Fin 158 := 16
   let s : State := isl (wq 16 { Weir.initial with queue := [(5, false, rr), (6, false, .work)] } allUp) 3 { Island.initial 3 with st := .reset }
   let tag : Nat := 5
   let n : Nat := 64
   let alt : Bool := false
   let a : BitVec 35 := 0x100
   let rest : List (Nat × Bool × WeirReq) := [(6, false, .work)]
   w.val < 38 ∧ (weirAt s w.val).queue = (tag, alt, WeirReq.hbmRead a n) :: rest ∧ weirSide s (weirEnds w.val).snd = true ∧
   (weirAt s w.val).shadow = [] ∧ (weirAt s w.val).orphans = [] ∧ (weirAt s w.val).due = [] ∧ (weirAt s w.val).replies = [] ∧
   hbmLive s = false) := by
  and_intros <;> first | decide +kernel | rfl | exact a1_others

end W06

namespace W07

def pl7 (f : Word) (gov : GenState) (l : Rat) (comp st : Bool) : FramePlan := ⟨f, gov, l, 16666667, 2, [8000000,0,0], 1000, false, comp, st,true,false,0,[],[]⟩
def c7 (gov : GenState) (st : Bool) : State := tg allUp 3 { Tgen.initial with gen := gov, cur := 6, closed := 7, latch := 100, sched := 33333334, plans := [pl7 6 gov 100 true true, pl7 7 gov 16666767 true st] }
def c7w : State := setBgrp (c7 .run true) 3 { bgrpAt allUp 3 with wdFrame := 7, wdWait := true, wdCount := 1 }
def bt7 : State := rg (rg allUp .layr Off.LAYR_BUF_TBL_BASE_LO 0x100000) .layr Off.LAYR_BUF_TBL_BASE_HI 0x80000000
def b7 (v : Buf) : State := setBuf bt7 5 v
def l7 : State := rg (rg allUp .layr Off.LAYR_LUT_CTRL 0x207) .layr Off.LAYR_LUT_ADDR 1024
def busy7 (g : Nat) (d : List Word) (s : State) : State := setLayrBank s g { layrBank s g with descs := [(9, d)] }
def la (a : Word) (s : State) : State := rg s .layr Off.LAYR_LUT_ADDR a
def o7 : State := rg (rg allUp (.reng 3) Off.RENG_OLUT_CTRL 3) (.reng 3) Off.RENG_OLUT_ADDR 4096
def oa (a : Word) (s : State) : State := rg s (.reng 3) Off.RENG_OLUT_ADDR a
def k7 : State := rg (rg allUp (.reng 3) Off.RENG_KERN_SEL 2) (.reng 3) Off.RENG_KERN_ADDR 255
def t7 : State := rg (rg allUp .trim Off.TRIM_TP_SEL 0x105) .trim Off.TRIM_TP_ADDR 74
def ta7 (a : Word) (s : State) : State := rg s .trim Off.TRIM_TP_ADDR a
def cb7 (a : Word) (st : Nat) : State := setRing (rg allUp (.bport 7) Off.BPORT_CBL_ADDR a) 7 { ringAt allUp 7 with st := st }
def v7 : State := rg (rg allUp .geom Off.GEOM_TYPE_SEL 6) .geom Off.GEOM_VIEW_ADDR 255
def lf7 (c : Nat) : State := { l7 with layr := { l7.layr with fill := some (7, c, 3) } }
def of7 (c : Nat) : State := setEng o7 3 { eng o7 3 with ofill := some (1, c) }
def x7 : State := rg allUp .geom Off.GEOM_CTX_SEL (3*3072 + 192*5 + 7)
def y7 : State := { rg x7 .geom Off.GEOM_TYPE_SEL 2 with geom := { x7.geom with types := [(2, 0x80000000)], ctx := [(0, 0x21)] } }
def bt7m : State := { bt7 with mem := [(0x100000 + 160 + 17, 1)] }

/-- States and operands that meet the hypotheses of the clauses of `Obligations.BufferOwnership`. -/
theorem witness_BufferOwnership :
  (let b : Fin 16384 := 5
   let s : State := bt7
   pageUp s Page.layr = true ∧ claimCode s b.val ≠ 0) ∧
  (let b : Fin 16384 := 5
   let s : State := bt7m
   pageUp s Page.layr = true ∧ claimCode s b.val = 0) ∧
  (let b : Fin 16384 := 5
   let s : State := b7 { Buf.initial with st := 3, ownerClass := 1, seq := 4 }
   (bufAt s b.val).st = 3 ∧ (bufAt s b.val).holds = []) ∧
  (let b : Fin 16384 := 5
   let s : State := b7 { Buf.initial with st := 3, ownerClass := 1, seq := 4, holds := [.frame 1 2] }
   pageUp s Page.layr = true ∧ bufTblValid s = true ∧ (bufAt s b.val).st = 3) ∧
  (let b : Fin 16384 := 5
   let s : State := b7 { Buf.initial with st := 1, ownerClass := 1, seq := 4 }
   pageUp s Page.layr = true ∧ bufTblValid s = true ∧ (bufAt s b.val).st = 1 ∧ (bufAt s b.val).ownerClass = 1) := by
  and_intros <;> first | decide +kernel | rfl

/-- States and operands that meet the hypotheses of the clauses of `Obligations.IndexedPorts`. -/
theorem witness_IndexedPorts :
  (let a : Nat := 255
   let s : State := v7
   pageUp s Page.geom = true ∧ a = regF s Page.geom Off.GEOM_VIEW_ADDR 0 8) ∧
  (let a : Nat := 4095
   let s : State := rg allUp .scal Off.SCAL_PMAP_ADDR 4095
   pageUp s Page.scal = true ∧ a = regF s Page.scal Off.SCAL_PMAP_ADDR 0 12) ∧
  (let a : Nat := 4095
   let s : State := rg allUp .scal Off.SCAL_PMAP_ADDR 4095
   pageUp s Page.scal = true ∧ a = regF s Page.scal Off.SCAL_PMAP_ADDR 0 12) ∧
  (let a : Nat := 255
   let s : State := v7
   pageUp s Page.geom = true ∧ a = regF s Page.geom Off.GEOM_VIEW_ADDR 0 8 ∧ typeBusy s (typeSel s) = false) ∧
  (let p : Fin 256 := 7
   let a : Nat := 193
   let s : State := cb7 193 0
   pageUp s (Page.bport p) = true ∧ a = regF s (Page.bport p) Off.BPORT_CBL_ADDR 0 8 ∧ 192 < a) ∧
  (let p : Fin 256 := 7
   let a : Nat := 255
   let s : State := cb7 255 0
   pageUp s (Page.bport p) = true ∧ a = regF s (Page.bport p) Off.BPORT_CBL_ADDR 0 8 ∧ 192 < a) ∧
  (let p : Fin 256 := 7
   let a : Nat := 192
   let s : State := cb7 192 4
   pageUp s (Page.bport p) = true ∧ a = regF s (Page.bport p) Off.BPORT_CBL_ADDR 0 8 ∧ a ≤ 192) ∧
  (let e : Fin 16 := 3
   let set : Nat := 2
   let a : Nat := 255
   let s : State := k7
   pageUp s (Page.reng e) = true ∧ set = regF s (Page.reng e) Off.RENG_KERN_SEL 0 2 ∧ a = regF s (Page.reng e) Off.RENG_KERN_ADDR 0 8) ∧
  (let p : Fin 256 := 7
   let a : Nat := 192
   let s : State := cb7 192 4
   pageUp s (Page.bport p) = true ∧ a = regF s (Page.bport p) Off.BPORT_CBL_ADDR 0 8 ∧ a ≤ 192 ∧ decide ((ringAt s p.val).st = 4) = true) ∧
  (let p : Fin 256 := 7
   let a : Nat := 192
   let s : State := cb7 192 0
   pageUp s (Page.bport p) = true ∧ a = regF s (Page.bport p) Off.BPORT_CBL_ADDR 0 8 ∧ a ≤ 192 ∧ decide ((ringAt s p.val).st = 4) = false) ∧
  (let ty : Nat := 5
   let k : Nat := 1
   let a : Nat := 74
   let s : State := t7
   pageUp s Page.trim = true ∧ ty = regF s Page.trim Off.TRIM_TP_SEL 0 6 ∧ k = regF s Page.trim Off.TRIM_TP_SEL 8 1 ∧
   a = regF s Page.trim Off.TRIM_TP_ADDR 0 7 ∧ a ≤ 74) ∧
  (let b : Nat := 0
   let a : Nat := 511
   let s : State := rg (fr allUp .scal Off.SCAL_PROF 0x80000000) .scal Off.SCAL_COEF_ADDR 511
   pageUp s Page.scal = true ∧ b = regF s Page.scal Off.SCAL_COEF_SEL 0 3 ∧ a = regF s Page.scal Off.SCAL_COEF_ADDR 0 9) ∧
  (let ty : Nat := 5
   let k : Nat := 1
   let a : Nat := 127
   let s : State := ta7 127 t7
   pageUp s Page.trim = true ∧ ty = regF s Page.trim Off.TRIM_TP_SEL 0 6 ∧ k = regF s Page.trim Off.TRIM_TP_SEL 8 1 ∧
   a = regF s Page.trim Off.TRIM_TP_ADDR 0 7 ∧ 74 < a) ∧
  (let e : Fin 16 := 3
   let set : Nat := 2
   let a : Nat := 255
   let s : State := k7
   pageUp s (Page.reng e) = true ∧ set = regF s (Page.reng e) Off.RENG_KERN_SEL 0 2 ∧ a = regF s (Page.reng e) Off.RENG_KERN_ADDR 0 8 ∧
   kernBusy s (e.val) set = false) ∧
  (let b : Nat := 3
   let a : Nat := 511
   let s : State := rg (rg allUp .scal Off.SCAL_COEF_SEL 3) .scal Off.SCAL_COEF_ADDR 511
   pageUp s Page.scal = true ∧ b = regF s Page.scal Off.SCAL_COEF_SEL 0 3 ∧ a = regF s Page.scal Off.SCAL_COEF_ADDR 0 9 ∧
   coefBusy s b = false) ∧
  (let e : Fin 16 := 3
   let set : Nat := 2
   let a : Nat := 255
   let s : State := busy7 3 [0x4000] k7
   pageUp s (Page.reng e) = true ∧ set = regF s (Page.reng e) Off.RENG_KERN_SEL 0 2 ∧ a = regF s (Page.reng e) Off.RENG_KERN_ADDR 0 8 ∧
   kernBusy s (e.val) set = true) ∧
  (let b : Nat := 0
   let a : Nat := 511
   let s : State := rg (fr allUp .scal Off.SCAL_PROF 0x80000000) .scal Off.SCAL_COEF_ADDR 511
   pageUp s Page.scal = true ∧ b = regF s Page.scal Off.SCAL_COEF_SEL 0 3 ∧ a = regF s Page.scal Off.SCAL_COEF_ADDR 0 9 ∧
   coefBusy s b = true) ∧
  (let ty : Nat := 5
   let k : Nat := 1
   let a : Nat := 74
   let s : State := t7
   pageUp s Page.trim = true ∧ ty = regF s Page.trim Off.TRIM_TP_SEL 0 6 ∧ k = regF s Page.trim Off.TRIM_TP_SEL 8 1 ∧
   a = regF s Page.trim Off.TRIM_TP_ADDR 0 7 ∧ a ≤ 74 ∧ tsetBusy s ty k = false) ∧
  (let ty : Nat := 5
   let k : Nat := 1
   let a : Nat := 75
   let s : State := ta7 75 (fr t7 .trim Off.TRIM_TSET_LO 0x20)
   pageUp s Page.trim = true ∧ ty = regF s Page.trim Off.TRIM_TP_SEL 0 6 ∧ k = regF s Page.trim Off.TRIM_TP_SEL 8 1 ∧
   a = regF s Page.trim Off.TRIM_TP_ADDR 0 7 ∧ 74 < a) ∧
  (let ty : Nat := 5
   let k : Nat := 1
   let a : Nat := 74
   let s : State := fr t7 .trim Off.TRIM_TSET_LO 0x20
   pageUp s Page.trim = true ∧ ty = regF s Page.trim Off.TRIM_TP_SEL 0 6 ∧ k = regF s Page.trim Off.TRIM_TP_SEL 8 1 ∧
   a = regF s Page.trim Off.TRIM_TP_ADDR 0 7 ∧ a ≤ 74 ∧ tsetBusy s ty k = true) ∧
  (let k : Nat := 7
   let c : Nat := 2
   let a : Nat := 1025
   let s : State := la 1025 l7
   pageUp s Page.layr = true ∧ k = regF s Page.layr Off.LAYR_LUT_CTRL 0 6 ∧
   (c = if regF s Page.layr Off.LAYR_LUT_CTRL 8 2 = 3 then 0 else regF s Page.layr Off.LAYR_LUT_CTRL 8 2) ∧
   a = regF s Page.layr Off.LAYR_LUT_ADDR 0 11 ∧ 1024 < a) ∧
  (let k : Nat := 7
   let c : Nat := 2
   let a : Nat := 2047
   let s : State := la 2047 l7
   pageUp s Page.layr = true ∧ k = regF s Page.layr Off.LAYR_LUT_CTRL 0 6 ∧
   (c = if regF s Page.layr Off.LAYR_LUT_CTRL 8 2 = 3 then 0 else regF s Page.layr Off.LAYR_LUT_CTRL 8 2) ∧
   a = regF s Page.layr Off.LAYR_LUT_ADDR 0 11 ∧ 1024 < a) ∧
  (let k : Nat := 7
   let c : Nat := 2
   let a : Nat := 1024
   let s : State := l7
   pageUp s Page.layr = true ∧ k = regF s Page.layr Off.LAYR_LUT_CTRL 0 6 ∧
   (c = if regF s Page.layr Off.LAYR_LUT_CTRL 8 2 = 3 then 0 else regF s Page.layr Off.LAYR_LUT_CTRL 8 2) ∧
   a = regF s Page.layr Off.LAYR_LUT_ADDR 0 11 ∧ a ≤ 1024 ∧ (lutBusy s k || s.layr.fill.isSome) = false) ∧
  (let k : Nat := 7
   let c : Nat := 2
   let a : Nat := 1024
   let s : State := busy7 2 [0x70000] l7
   pageUp s Page.layr = true ∧ k = regF s Page.layr Off.LAYR_LUT_CTRL 0 6 ∧
   (c = if regF s Page.layr Off.LAYR_LUT_CTRL 8 2 = 3 then 0 else regF s Page.layr Off.LAYR_LUT_CTRL 8 2) ∧
   a = regF s Page.layr Off.LAYR_LUT_ADDR 0 11 ∧ a ≤ 1024 ∧ (lutBusy s k || s.layr.fill.isSome) = true) ∧
  (let e : Fin 16 := 3
   let copy : Nat := 1
   let c : Nat := 1
   let a : Nat := 8191
   let s : State := oa 8191 o7
   pageUp s (Page.reng e) = true ∧ copy = regF s (Page.reng e) Off.RENG_OLUT_CTRL 0 1 ∧
   (c = if regF s (Page.reng e) Off.RENG_OLUT_CTRL 1 2 = 3 then 0 else regF s (Page.reng e) Off.RENG_OLUT_CTRL 1 2) ∧
   a = regF s (Page.reng e) Off.RENG_OLUT_ADDR 0 13 ∧ 4096 < a) ∧
  (let k : Nat := 7
   let c : Nat := 2
   let a : Nat := 1024
   let s : State := l7
   pageUp s Page.layr = true ∧ k = regF s Page.layr Off.LAYR_LUT_CTRL 0 6 ∧
   (c = if regF s Page.layr Off.LAYR_LUT_CTRL 8 2 = 3 then 0 else regF s Page.layr Off.LAYR_LUT_CTRL 8 2) ∧
   a = regF s Page.layr Off.LAYR_LUT_ADDR 0 11 ∧ a ≤ 1024 ∧
   (∀ (q : Nat × Nat × Nat), s.layr.fill = some q → q.fst ≠ k ∨ q.snd.fst ≠ c ∧ q.snd.fst ≠ 3)) ∧
  (let e : Fin 16 := 3
   let copy : Nat := 1
   let c : Nat := 1
   let a : Nat := 4097
   let s : State := oa 4097 (fr o7 (.reng 3) Off.RENG_OLUT_SEL 1)
   pageUp s (Page.reng e) = true ∧ copy = regF s (Page.reng e) Off.RENG_OLUT_CTRL 0 1 ∧
   (c = if regF s (Page.reng e) Off.RENG_OLUT_CTRL 1 2 = 3 then 0 else regF s (Page.reng e) Off.RENG_OLUT_CTRL 1 2) ∧
   a = regF s (Page.reng e) Off.RENG_OLUT_ADDR 0 13 ∧ 4096 < a) ∧
  (let e : Fin 16 := 3
   let copy : Nat := 1
   let c : Nat := 1
   let a : Nat := 4096
   let s : State := o7
   pageUp s (Page.reng e) = true ∧ copy = regF s (Page.reng e) Off.RENG_OLUT_CTRL 0 1 ∧
   (c = if regF s (Page.reng e) Off.RENG_OLUT_CTRL 1 2 = 3 then 0 else regF s (Page.reng e) Off.RENG_OLUT_CTRL 1 2) ∧
   a = regF s (Page.reng e) Off.RENG_OLUT_ADDR 0 13 ∧ a ≤ 4096 ∧ (olutBusy s (e.val) copy || (eng s e.val).ofill.isSome) = false) ∧
  (let k : Nat := 7
   let c : Nat := 2
   let a : Nat := 1024
   let s : State := { l7 with layr := { l7.layr with fill := some (7, 3, 3) } }
   let p : Nat := 3
   let fc : Nat := 3
   pageUp s Page.layr = true ∧ k = regF s Page.layr Off.LAYR_LUT_CTRL 0 6 ∧
   (c = if regF s Page.layr Off.LAYR_LUT_CTRL 8 2 = 3 then 0 else regF s Page.layr Off.LAYR_LUT_CTRL 8 2) ∧
   a = regF s Page.layr Off.LAYR_LUT_ADDR 0 11 ∧ a ≤ 1024 ∧ s.layr.fill = some (k, fc, p) ∧ (fc = c ∨ fc = 3)) ∧
  (let e : Fin 16 := 3
   let copy : Nat := 1
   let c : Nat := 1
   let a : Nat := 4096
   let s : State := fr o7 (.reng 3) Off.RENG_OLUT_SEL 1
   pageUp s (Page.reng e) = true ∧ copy = regF s (Page.reng e) Off.RENG_OLUT_CTRL 0 1 ∧
   (c = if regF s (Page.reng e) Off.RENG_OLUT_CTRL 1 2 = 3 then 0 else regF s (Page.reng e) Off.RENG_OLUT_CTRL 1 2) ∧
   a = regF s (Page.reng e) Off.RENG_OLUT_ADDR 0 13 ∧ a ≤ 4096 ∧ (olutBusy s (e.val) copy || (eng s e.val).ofill.isSome) = true) ∧
  (let e : Fin 16 := 3
   let copy : Nat := 1
   let c : Nat := 1
   let a : Nat := 4096
   let s : State := o7
   pageUp s (Page.reng e) = true ∧ copy = regF s (Page.reng e) Off.RENG_OLUT_CTRL 0 1 ∧
   (c = if regF s (Page.reng e) Off.RENG_OLUT_CTRL 1 2 = 3 then 0 else regF s (Page.reng e) Off.RENG_OLUT_CTRL 1 2) ∧
   a = regF s (Page.reng e) Off.RENG_OLUT_ADDR 0 13 ∧ a ≤ 4096 ∧
   (∀ (q : Nat × Nat), (eng s e.val).ofill = some q → q.fst ≠ copy ∨ q.snd ≠ c ∧ q.snd ≠ 3)) ∧
  (let e : Fin 16 := 3
   let copy : Nat := 1
   let c : Nat := 1
   let a : Nat := 4096
   let s : State := setEng o7 3 { eng o7 3 with ofill := some (1, 3) }
   let fc : Nat := 3
   pageUp s (Page.reng e) = true ∧ copy = regF s (Page.reng e) Off.RENG_OLUT_CTRL 0 1 ∧
   (c = if regF s (Page.reng e) Off.RENG_OLUT_CTRL 1 2 = 3 then 0 else regF s (Page.reng e) Off.RENG_OLUT_CTRL 1 2) ∧
   a = regF s (Page.reng e) Off.RENG_OLUT_ADDR 0 13 ∧ a ≤ 4096 ∧ (eng s e.val).ofill = some (copy, fc) ∧ (fc = c ∨ fc = 3)) ∧
  (let e : Fin 16 := 3
   let p : Fin 256 := 7
   let c : Instr := .viewZAccess none
   let w : Option Word := none
   let s : State := State.reset
   (c = Instr.lutDataAccess w ∧ pageUp s Page.layr = false ∨ c = Instr.viewZAccess w ∧ pageUp s Page.geom = false ∨ c = Instr.olutDataAccess e w ∧ pageUp s (Page.reng e) = false ∨ c = Instr.kernDataAccess e w ∧ pageUp s (Page.reng e) = false ∨ c = Instr.coefDataAccess w ∧ pageUp s Page.scal = false ∨ c = Instr.pmapDataAccess w ∧ pageUp s Page.scal = false ∨ c = Instr.tpDataAccess w ∧ pageUp s Page.trim = false ∨ c = Instr.cblDataAccess p w ∧ pageUp s (Page.bport p) = false)) := by
  and_intros <;> first | decide +kernel | rfl

/-- States and operands that meet the hypotheses of the clauses of `Obligations.LutFills`. -/
theorem witness_LutFills :
  (let k : Nat := 7
   let c : Nat := 3
   let p : Nat := 3
   let s : State := lf7 3
   s.layr.fill = some (k, c, p) ∧ c < 4) ∧
  (let e : Fin 16 := 3
   let copy : Nat := 1
   let c : Nat := 3
   let s : State := of7 3
   (eng s e.val).ofill = some (copy, c) ∧ c < 4) ∧
  (let k : Fin 64 := 7
   let p : Fin 8 := 2
   let s : State := allUp
   pageUp s Page.layr = true ∧ p.val < 7 ∧ s.layr.fill = none ∧ lutBusy s k.val = false) ∧
  (let k : Fin 64 := 7
   let p : Fin 8 := 7
   let s : State := allUp
   pageUp s Page.layr = true ∧ (p.val = 7 ∨ s.layr.fill.isSome = true ∨ lutBusy s k.val = true)) ∧
  (let e : Fin 16 := 3
   let copy : Bool := true
   let s : State := allUp
   pageUp s (Page.reng e) = true ∧ olutBusy s (e.val) (b2n copy) = false ∧ (eng s e.val).ofill = none) ∧
  (let e : Fin 16 := 3
   let copy : Bool := false
   let s : State := allUp
   pageUp s (Page.reng e) = true ∧ (olutBusy s (e.val) (b2n copy) = true ∨ (eng s e.val).ofill.isSome = true)) := by
  and_intros <;> first | decide +kernel | rfl

/-- States and operands that meet the hypotheses of the clauses of `Obligations.TableWrites`. -/
theorem witness_TableWrites :
  (let s : State := allUp
   pageUp s Page.trim = true) ∧
  (let w : Fin 16 := 12
   let s : State := x7
   pageUp s Page.geom = true ∧ 12 ≤ w.val) ∧
  (let s : State := allUp
   pageUp s Page.geom = true) ∧
  (let s : State := allUp
   pageUp s Page.geom = true) ∧
  (let s : State := y7
   pageUp s Page.geom = true ∧ typeBusy s (typeSel s) = true) ∧
  (let s : State := x7
   pageUp s Page.geom = true ∧ typeBusy s (typeSel s) = false) ∧
  (let s : State := busy7 2 [5] allUp
   pageUp s Page.layr = true ∧ (liveDescs s).isEmpty = false) ∧
  (let r : Fin 64 := 7
   let s : State := allUp
   pageUp s Page.trim = true ∧ (rgn s r.val).st = 0 ∧ (rgn s r.val).queued = none) ∧
  (let r : Fin 64 := 7
   let s : State := setRgn allUp 7 { rgn allUp 7 with st := 2 }
   pageUp s Page.trim = true ∧ ((rgn s r.val).st ≠ 0 ∨ (rgn s r.val).queued.isSome = true)) ∧
  (let v : Word := 0x8FFFFFFF
   let s : State := x7
   pageUp s Page.geom = true ∧ typeBusy s (typeSel s) = false ∧ bitOf v 31 = true ∧ (256 < tHW v * tVW v ∨ 256 < tHH v * tVH v)) ∧
  (let v : Word := 0x0FFFFFFF
   let s : State := x7
   pageUp s Page.geom = true ∧ typeBusy s (typeSel s) = false ∧ (bitOf v 31 = false ∨ tHW v * tVW v ≤ 256 ∧ tHH v * tVH v ≤ 256)) ∧
  (let s : State := bt7
   let layer : Bool := true
   pageUp s Page.layr = true ∧ (if layer = true then (liveDescs s).isEmpty = true else ∀ (e : Nat × Buf), e ∈ s.layr.bufs → e.snd.st = 0)) ∧
  (let w : Fin 16 := 3
   let c : Nat := 3*3072 + 192*5 + 7
   let s : State := x7
   pageUp s Page.geom = true ∧ c = regF s Page.geom Off.GEOM_CTX_SEL 0 16 ∧ w.val < 12 ∧ c < 49152 ∧ ctxPresent s c = true ∧
   (tgen s (ctxGroup c)).gen = GenState.stopped) ∧
  (let w : Fin 16 := 3
   let c : Nat := 3*3072 + 192*5 + 7
   let s : State := tg x7 3 { Tgen.initial with gen := .ensign }
   pageUp s Page.geom = true ∧ c = regF s Page.geom Off.GEOM_CTX_SEL 0 16 ∧ w.val < 12 ∧ c < 49152 ∧ ctxPresent s c = true ∧
   (tgen s (ctxGroup c)).gen ≠ GenState.stopped) := by
  and_intros <;> first | decide +kernel | rfl

/-- States and operands that meet the hypotheses of the clauses of `Obligations.WithdrawalAndEnsign`. -/
theorem witness_WithdrawalAndEnsign :
  (let g : Fin 16 := 3
   let s : State := c7w
   pageUp s (Page.bgrp g) = true ∧ (bgrpAt s g.val).wdWait = true) ∧
  (let g : Fin 16 := 3
   let pl : FramePlan := pl7 7 .run 16666767 true true
   let s : State := c7 .run true
   pageUp s (Page.bgrp g) = true ∧ (tgen s g.val).gen = GenState.run ∧ runPlan s g.val = some pl ∧ nowNs s < pl.latch - 64000 ∧
   wdSoFar s (g.val) pl.frame < 4) ∧
  (let g : Fin 16 := 3
   let s : State := c7 .slack true
   pageUp s (Page.bgrp g) = true ∧
   ((tgen s g.val).gen ≠ GenState.run ∨ runPlan s g.val = none ∨ ∃ pl, runPlan s g.val = some pl ∧ (pl.latch - 64000 ≤ nowNs s ∨ 4 ≤ wdSoFar s (g.val) pl.frame))) ∧
  (let g : Fin 16 := 3
   let pl : FramePlan := pl7 7 .ensign 16666767 true false
   let s : State := c7 .ensign false
   pageUp s (Page.tgen g) = true ∧ islandUp s islCtl = true ∧ planOf (tgen s g.val) (tgen s g.val).closed = some pl ∧
   pl.gov = GenState.ensign ∧ pl.started = false) := by
  and_intros <;> first | decide +kernel | rfl

end W07

namespace W08

def cx8 : Nat := 3*3072 + 192*2 + 5
def b8 : State := let s := { allUp with geom := { allUp.geom with types := [(6, 0x80000101)], ctx := [(16*cx8, 0x61), (16*cx8+1, 0x200000)] } }
  tg s 3 { Tgen.initial with gen := .run, cur := 6, closed := 7 }
def p8 : FramePlan := ⟨6, .run, 100, 16666667, 2, [8000000,0,0], 1000, false, true, true,true,false,0,[],[]⟩
def f8 : EngFrame := (frameStart b8 3 p8).1
def e8 : State := setEng b8 3 { eng b8 3 with cur := some f8 }
def e8p : State := setEng b8 3 { eng b8 3 with cur := some f8, passed := List.range 16 }
def ld8 : ModLoad := ⟨frCtx f8 3 2 5, 0x80000101, [(0,0,0),(0,0,65536),(1,2,3),(4,5,6)], (List.range 12).map (fun k => BitVec.ofNat 32 (k*k*70000)), false, 0⟩
def e8l (v : Bool) : State := setEng b8 3 { eng b8 3 with cur := some f8, loads := [(2*192+5, some { ld8 with void := v })] }
def r8 (v : Bool) : RayRec := ⟨2,5,1,0,⟨(0,0,0),(0,0,65536),0,0,false⟩,v,0,false⟩
def e8r (v : Bool) : State := setEng b8 3 { eng b8 3 with cur := some f8, rays := [r8 v, r8 true] }
def f8t : EngFrame := { f8 with trimCtl := 1 }
def e8rt (n : Nat) (v : Bool) : State := setEng b8 3 { eng b8 3 with cur := some f8t, rays := [r8 v, r8 true], codes := List.replicate n ⟨6,2,5,1,0,[5,6,1000000],77,3,6,0,false,false,true⟩ }
def c8 (l : Bool) : CodeRec := ⟨6,2,5,1,0,[5,6,1000000],77,3,6,0,false,l,false⟩
def ch8 : Chunk := ⟨6, 0, 2, []⟩
def e8c (l : Bool) (n : Nat := 0) (f : EngFrame := f8) : State := setEng b8 3 { eng b8 3 with cur := some f, codes := [c8 l, c8 true], chunk := [(1,2,3)], stream := List.replicate n ch8 }
def lv8 (e : List Word) : Nat × LayerView := (9, ⟨[0,0,0,0], true, 44, e, none⟩)
def en8 : List Word := [0, 0x000F000F, 0x100000, 0, 256, 0, 0, 0]
def e8t (e : List Word) : State := setEng b8 3 { eng b8 3 with cur := some { f8 with layers := [lv8 e] } }
def e8s (c : Word) : State := let f := { f8 with regs := mapSet (fun _ => 0) [(Off.RENG_SIG_EXP + 16*40, 5)] (Off.RENG_SIG_CFG + 16*40) c }
  setEng b8 3 { eng b8 3 with cur := some f, phase := 1 }
def fx8 (c : Word) : EngFrame := { f8 with regs := mapSet (fun _ => 0) [(Off.RENG_SIG_EXP + 16*40, 5)] (Off.RENG_SIG_CFG + 16*40) c }
def d8 : List Word := [0x80000400, 0x00500000, 44, 0] ++ List.replicate 12 0
def s8 : State := setLayrBank allUp 3 { layrBank allUp 3 with descs := [(9, d8)] }
def bt8 : State := rg (rg (rg s8 .layr Off.LAYR_BUF_TBL_BASE_LO 0x100000) .layr Off.LAYR_BUF_TBL_BASE_HI 0x80000000) .scal Off.SCAL_CTRL 1
def put8 (s : State) (b : Nat) (ws : List Word) : State := { s with mem := cellsPut s.mem (0x100000 + 32*b) (ws.flatMap (fun w => leBytes 4 w.toNat)) }
def bs8 : State := { setBuf (put8 (put8 bt8 44 [0, 0x000F001F, 0x200000, 0, 256, 0, 0, 0]) 0x50 [2, 0x00070007, 0x300000, 0, 256, 0, 0, 0]) 44 { Buf.initial with st := 2, seq := 7, ownerClass := 1 } with scal := { allUp.scal with queue := [0x50] } }

/-- States and operands that meet the hypotheses of the clauses of `Obligations.RayWorkAndEvents`. -/
theorem witness_RayWorkAndEvents :
  (let e : Fin 16 := 3
   let fr : EngFrame := f8t
   let s : State := e8rt 32 false
   (eng s e.val).cur = some fr ∧ bitOf fr.trimCtl 0 = true ∧ trimTagFree s e.val = false) ∧
  (let e : Fin 16 := 3
   let s : State := rg (rg allUp (.reng 3) Off.RENG_SIG_TRIP_LO 5) (.reng 3) Off.RENG_SIG_TRIP_HI 0x1FF
   pageUp s (Page.reng e) = true) ∧
  (let e : Fin 16 := 3
   let r : Fin 64 := 40
   let fr : EngFrame := fx8 0x07000207
   let s : State := e8s 0x07000207
   (eng s e.val).cur = some fr ∧ sigReady s (e.val) fr r.val = true) ∧
  (let e : Fin 16 := 3
   let fr : EngFrame := f8
   let s : State := e8p
   (eng s e.val).cur = some fr ∧ nextRing (eng s e.val) fr e.val = none ∧ (eng s e.val).phase + 1 < fr.phases) ∧
  (let e : Fin 16 := 3
   let fr : EngFrame := f8
   let s : State := e8r true
   let x : RayRec := r8 true
   let rest : List RayRec := [r8 true]
   (eng s e.val).cur = some fr ∧ (eng s e.val).rays = x :: rest ∧ (bitOf fr.trimCtl 0 = false ∨ trimTagFree s e.val = true)) ∧
  (let e : Fin 16 := 3
   let fr : EngFrame := f8
   let s : State := e8
   let ring : Fin 16 := 2
   let m : Fin 192 := 5
   (eng s e.val).cur = some fr ∧ ctxServed fr.types (frCtx fr e.val ring.val m.val) = true ∧
   mapGet (fun _ => none) (eng s e.val).loads (ring.val * 192 + m.val) = none) ∧
  (let e : Fin 16 := 3
   let f : Word := 9
   let rest : List Word := [10]
   let s : State := setEng b8 3 { eng b8 3 with wbDue := [9, 10], wbq := [(9, 0x1000, [1,2,3]), (9, 0x2000, [5]), (10, 0x3000, [5])] }
   (eng s e.val).wbDue = f :: rest ∧ frameIs f (eng s e.val).cur = false) ∧
  (let e : Fin 16 := 3
   let fr : EngFrame := f8
   let x : CodeRec := c8 true
   let rest : List CodeRec := [c8 true]
   let s : State := e8c true 64
   (eng s e.val).codes = x :: rest ∧ codeFrame (eng s e.val) x = some fr ∧ x.last = true ∧ 64 ≤ (eng s e.val).stream.length ∧
   weirSide s (islPgrp e.val) = true) ∧
  (let e : Fin 16 := 3
   let fr : EngFrame := f8
   let x : CodeRec := c8 false
   let rest : List CodeRec := [c8 true]
   let s : State := e8c false
   (eng s e.val).codes = x :: rest ∧ codeFrame (eng s e.val) x = some fr ∧
   (x.last = false ∨ (eng s e.val).stream.length < 64 ∨ weirSide s (islPgrp e.val) = false)) ∧
  (let e : Fin 16 := 3
   let fr : EngFrame := f8
   let s : State := e8l true
   let r : Nat := 2
   let m : Nat := 5
   let l : Nat := 0
   let ld : ModLoad := { ld8 with void := true }
   (eng s e.val).cur = some fr ∧ nextRing (eng s e.val) fr e.val = some (r, m, l) ∧
   mapGet (fun _ => none) (eng s e.val).loads (r * 192 + m) = some ld) ∧
  (let e : Fin 16 := 3
   let b : Fin 16384 := 44
   let tx : Fin 8192 := 1
   let ty : Fin 8192 := 1
   let fr : EngFrame := { f8 with layers := [lv8 en8] }
   let l : Nat × LayerView := lv8 en8
   let s : State := e8t en8
   let ps : List (Option (List Nat)) := (match readTile (e8t en8) (surfOf en8) 1 1 with | .pixels ps => ps | _ => [])
   (eng s e.val).cur = some fr ∧ List.find? (fun x => decide (x.snd.buf = b.val)) fr.layers = some l ∧ s.ecc = [] ∧
   8 * tx.val < (surfOf l.snd.entry).w ∧ 8 * ty.val < (surfOf l.snd.entry).h ∧ cached (eng s e.val).cache b.val tx.val ty.val = none ∧
   surfSampled (surfOf l.snd.entry) = true ∧ readTile s (surfOf l.snd.entry) tx.val ty.val = Tile.pixels ps) ∧
  (let e : Fin 16 := 3
   let b : Fin 16384 := 44
   let tx : Fin 8192 := 1
   let ty : Fin 8192 := 1
   let fr : EngFrame := { f8 with layers := [lv8 en8] }
   let l : Nat × LayerView := lv8 en8
   let s : State := isl (e8t en8) 3 { Island.initial 3 with st := .off }
   let poison : Bool := false
   (eng s e.val).cur = some fr ∧ List.find? (fun x => decide (x.snd.buf = b.val)) fr.layers = some l ∧ s.ecc = [] ∧
   8 * tx.val < (surfOf l.snd.entry).w ∧ 8 * ty.val < (surfOf l.snd.entry).h ∧ cached (eng s e.val).cache b.val tx.val ty.val = none ∧
   surfSampled (surfOf l.snd.entry) = true ∧
   (readTile s (surfOf l.snd.entry) tx.val ty.val = if poison = true then Tile.poison else Tile.absent) ∧ pageUp s (Page.reng e) = true) := by
  and_intros <;> first | decide +kernel | rfl

/-- States and operands that meet the hypotheses of the clauses of `Obligations.ScalJobs`. -/
theorem witness_ScalJobs :
  (let p : Nat := 0x50
   let src : Nat := 44
   let x : Nat × Nat × List Word := (3,9,d8)
   let s : State := setBuf bs8 0x50 { Buf.initial with st := 1, ownerClass := 1 }
   islandRuns s islMedia = true ∧ s.scal.running = none ∧ bitOf (reg s Page.scal Off.SCAL_CTRL) 0 = true ∧ nextPair s = some p ∧
   List.find? (fun d => decide (dPsBuf d.snd.snd = p)) (servedLayers s) = some x ∧ bestCand s x.snd.snd = some src ∧
   workOf s x.snd.snd src (bufAt s src).seq = none ∧ claimCode s (pairTarget s p) ≠ 0) ∧
  (let p : Nat := 0x50
   let src : Nat := 44
   let x : Nat × Nat × List Word := (3,9,d8)
   let s : State := bs8
   islandRuns s islMedia = true ∧ s.scal.running = none ∧ bitOf (reg s Page.scal Off.SCAL_CTRL) 0 = true ∧ nextPair s = some p ∧
   List.find? (fun d => decide (dPsBuf d.snd.snd = p)) (servedLayers s) = some x ∧ bestCand s x.snd.snd = some src ∧
   workOf s x.snd.snd src (bufAt s src).seq = none ∧ claimCode s (pairTarget s p) = 0 ∧
   (surfOf (bufEntry s (pairTarget s p))).fmt = workFmt (surfOf (bufEntry s src)).fmt ∧ (surfOf (bufEntry s (pairTarget s p))).st = 0 ∧
   (layoutDims (pfOrient (snapRead s.inForce Page.scal 0 (Off.SCAL_PROF + 4 * mapGet (fun _ => 0) s.scal.pmap x.snd.fst))) (surfOf (bufEntry s src)).w (surfOf (bufEntry s src)).h).fst ≤ 16 * (surfOf (bufEntry s (pairTarget s p))).w ∧
   (surfOf (bufEntry s (pairTarget s p))).w ≤ (layoutDims (pfOrient (snapRead s.inForce Page.scal 0 (Off.SCAL_PROF + 4 * mapGet (fun _ => 0) s.scal.pmap x.snd.fst))) (surfOf (bufEntry s src)).w (surfOf (bufEntry s src)).h).fst ∧
   (layoutDims (pfOrient (snapRead s.inForce Page.scal 0 (Off.SCAL_PROF + 4 * mapGet (fun _ => 0) s.scal.pmap x.snd.fst))) (surfOf (bufEntry s src)).w (surfOf (bufEntry s src)).h).snd ≤ 16 * (surfOf (bufEntry s (pairTarget s p))).h ∧
   (surfOf (bufEntry s (pairTarget s p))).h ≤ (layoutDims (pfOrient (snapRead s.inForce Page.scal 0 (Off.SCAL_PROF + 4 * mapGet (fun _ => 0) s.scal.pmap x.snd.fst))) (surfOf (bufEntry s src)).w (surfOf (bufEntry s src)).h).snd ∧
   (layoutDims (pfOrient (snapRead s.inForce Page.scal 0 (Off.SCAL_PROF + 4 * mapGet (fun _ => 0) s.scal.pmap x.snd.fst))) (surfOf (bufEntry s src)).w (surfOf (bufEntry s src)).h).fst ≤ 32768 ∧
   src ≠ pairTarget s p) ∧
  (let p : Nat := 0x50
   let src : Nat := 44
   let x : Nat × Nat × List Word := (3,9,d8)
   let s : State := put8 bs8 0x50 [3, 0x00070007, 0x300000, 0, 256, 0, 0, 0]
   let code : Nat := 2
   islandRuns s islMedia = true ∧ s.scal.running = none ∧ bitOf (reg s Page.scal Off.SCAL_CTRL) 0 = true ∧ nextPair s = some p ∧
   List.find? (fun d => decide (dPsBuf d.snd.snd = p)) (servedLayers s) = some x ∧ bestCand s x.snd.snd = some src ∧
   workOf s x.snd.snd src (bufAt s src).seq = none ∧ claimCode s (pairTarget s p) = 0 ∧ src ≠ pairTarget s p ∧
   (code = if (surfOf (bufEntry s (pairTarget s p))).fmt ≠ workFmt (surfOf (bufEntry s src)).fmt ∨ (surfOf (bufEntry s (pairTarget s p))).st ≠ 0 then 2 else if 16 * (surfOf (bufEntry s (pairTarget s p))).w < (layoutDims (pfOrient (snapRead s.inForce Page.scal 0 (Off.SCAL_PROF + 4 * mapGet (fun _ => 0) s.scal.pmap x.snd.fst))) (surfOf (bufEntry s src)).w (surfOf (bufEntry s src)).h).fst ∨ (layoutDims (pfOrient (snapRead s.inForce Page.scal 0 (Off.SCAL_PROF + 4 * mapGet (fun _ => 0) s.scal.pmap x.snd.fst))) (surfOf (bufEntry s src)).w (surfOf (bufEntry s src)).h).fst < (surfOf (bufEntry s (pairTarget s p))).w ∨ 16 * (surfOf (bufEntry s (pairTarget s p))).h < (layoutDims (pfOrient (snapRead s.inForce Page.scal 0 (Off.SCAL_PROF + 4 * mapGet (fun _ => 0) s.scal.pmap x.snd.fst))) (surfOf (bufEntry s src)).w (surfOf (bufEntry s src)).h).snd ∨ (layoutDims (pfOrient (snapRead s.inForce Page.scal 0 (Off.SCAL_PROF + 4 * mapGet (fun _ => 0) s.scal.pmap x.snd.fst))) (surfOf (bufEntry s src)).w (surfOf (bufEntry s src)).h).snd < (surfOf (bufEntry s (pairTarget s p))).h then 3 else if 32768 < (layoutDims (pfOrient (snapRead s.inForce Page.scal 0 (Off.SCAL_PROF + 4 * mapGet (fun _ => 0) s.scal.pmap x.snd.fst))) (surfOf (bufEntry s src)).w (surfOf (bufEntry s src)).h).fst then 1 else 0) ∧
   code ≠ 0) := by
  and_intros <;> first | decide +kernel | rfl

end W08

namespace W09

def d8 : List Word := [0x80000400, 0x00500000, 44, 0] ++ List.replicate 12 0
def s8 : State := setLayrBank allUp 3 { layrBank allUp 3 with descs := [(9, d8)] }
def bt8 : State := rg (rg (rg s8 .layr Off.LAYR_BUF_TBL_BASE_LO 0x100000) .layr Off.LAYR_BUF_TBL_BASE_HI 0x80000000) .scal Off.SCAL_CTRL 1
def put8 (s : State) (b : Nat) (ws : List Word) : State := { s with mem := cellsPut s.mem (0x100000 + 32*b) (ws.flatMap (fun w => leBytes 4 w.toNat)) }
def bs8 : State := { setBuf (put8 (put8 bt8 44 [0, 0x000F001F, 0x200000, 0, 256, 0, 0, 0]) 0x50 [2, 0x00070007, 0x300000, 0, 256, 0, 0, 0]) 44 { Buf.initial with st := 2, seq := 7, ownerClass := 1 } with scal := { allUp.scal with queue := [0x50] } }
def s9 : State := match (execScalJobStart bs8) with | .next t => t | _ => allUp
def j9 : ScalJob := s9.scal.running.getD ⟨0, 0, 0, 0, 0, [], [], 0, [], 0, 0, 0, []⟩
def cq9 (d : List Word) : State :=
  let s := rg (rg (rg (rg (rg (rg bt8 (.codec 1) Off.CODEC_Q_BASE_LO 0x400000) (.codec 1) Off.CODEC_Q_BASE_HI 0x80000000) (.codec 1) Off.CODEC_Q_SIZE 4) (.codec 1) Off.CODEC_CTRL 1) (.codec 1) Off.CODEC_Q_HEAD 3) (.codec 1) Off.CODEC_Q_TAIL 1
  { s with mem := cellsPut s.mem (0x400000 + 3*64) (d.flatMap (fun w => leBytes 4 w.toNat)) }
def cd9 (op : Nat) : List Word := [BitVec.ofNat 32 (op + 16 + 0x400000 + 5*65536)] ++ List.replicate 15 0
def cOps (n : Nat) (o : Nat) : Bool := if n = 0 then decide (o = 0) || decide (5 ≤ o) else decide (o = n)
def cj9 : CodecJob := jobOfDesc (cd9 3) 3
def cr9 (j : CodecJob) : State := setCodecRun (setStSlot (cq9 (cd9 3)) 5 ⟨1, StreamSt.empty⟩) 1 (some j)
def wr9 (h : Bool) : State := rg allUp .trim Off.TRIM_WEAR_CTRL (if h then 3 else 1)
def ck9 : Ckpt := ⟨true, [1,2,3], 1, [], 0, false⟩
def rt9 : State := rg (rg (rg (rg (rg (rg (rg allUp .trim Off.TRIM_TBL_BASE_LO 0x1000000) .trim Off.TRIM_TBL_BASE_HI 0x80000000) .trim Off.TRIM_TBL_WORDS 0x10000) .trim Off.TRIM_STAGE_BASE_LO 0x2000000) .trim Off.TRIM_STAGE_BASE_HI 0x80000000) .trim (Off.TRIM_RGN_CNT + 16*7) 64) .trim (Off.TRIM_RGN_LO + 16*7) 128
def rs9 : State := rg rt9 .trim Off.TRIM_UPD_SRC_LO 0x3000000
def q9 : RgnReq := updReq rs9 0 false
def rf9 : State := let s := rg (setRgn rs9 7 { Rgn.initial with st := 1, req := some q9 }) .trim Off.TRIM_UPD_CTRL 1
  { s with trim := { s.trim with fills := [7, 9] }, mem := [(0x3000005, 9)] }
def rf9g : State := tg rf9 0 { Tgen.initial with gen := .run }
def q9b : RgnReq := { q9 with kind := 1 }
def rf9b : State := setRgn rf9 7 { Rgn.initial with st := 1, req := some q9b }
def q9e : RgnReq := { q9 with len := 7, src := 0x7FFFFFFF0 }
def rf9e : State := setRgn rf9 7 { Rgn.initial with st := 1, req := some q9e }
def rc9 (st : Nat) : State := tg (setRgn rs9 7 { Rgn.initial with st := st, req := some q9, frameT := 1, frameU := 1 }) 0 { Tgen.initial with gen := .run, cur := 5 }

theorem cq9_ops : (Instr.codecDecode 1 = Instr.codecDecode 1 ∧ intMayStart (cq9 (cd9 0)) 1 = false ∧
    ∀ o : Nat, cOps 0 o = (decide (o = 0) || decide (5 ≤ o))) :=
  ⟨rfl, by decide +kernel, fun _ => rfl⟩

/-- States and operands that meet the hypotheses of the clauses of `Obligations.CodecQueues`. -/
theorem witness_CodecQueues :
  (let c : Fin 4 := 1
   let s : State := cq9 (cd9 1)
   pageUp s (Page.codec c) = true) ∧
  (let k : Fin 64 := 9
   let s : State := allUp
   pageUp s (Page.codec 0) = true ∧ (stSlot s k.val).owner = 0) ∧
  (let c : Fin 4 := 1
   let j : CodecJob := cj9
   let s : State := cr9 cj9
   codecRun s c.val = some j ∧ j.intern = none) ∧
  (let k : Fin 64 := 9
   let s : State := setStSlot allUp 9 ⟨1, StreamSt.empty⟩
   pageUp s (Page.codec 0) = true ∧ (stSlot s k.val).owner ≠ 0) ∧
  (let k : Fin 64 := 9
   let s : State := setStSlot allUp 9 ⟨1, StreamSt.empty⟩
   pageUp s (Page.codec 0) = true ∧ (stSlot s k.val).owner = 1) ∧
  (let c : Fin 4 := 1
   let s : State := cq9 (cd9 1)
   pageUp s (Page.codec c) = true ∧ ((codecRun s c.val).isSome = true ∨ cqHead s c.val ≠ cqTail s c.val)) ∧
  (let c : Fin 4 := 1
   let j : CodecJob := { cj9 with dst := 0x500000 }
   let s : State := cr9 { cj9 with dst := 0x500000 }
   codecRun s c.val = some j ∧ j.intern = none ∧ pageUp s (Page.codec c) = true) ∧
  (let c : Fin 4 := 1
   let s : State := rg (cq9 (cd9 1)) (.codec 1) Off.CODEC_Q_TAIL 3
   pageUp s (Page.codec c) = true ∧ codecRun s c.val = none ∧ cqHead s c.val = cqTail s c.val) ∧
  (let c : Fin 4 := 1
   let j : CodecJob := { cj9 with dead := some 8 }
   let s : State := cr9 { cj9 with dead := some 8 }
   let st : Nat := 8
   codecRun s c.val = some j ∧ j.intern = none ∧ j.dead = some st ∧ st < 128 ∧ s.ecc = [] ∧ s.hbm.inj = none ∧
   hbmOk s (cqBase s c.val + 64 * j.index + 48) 16 = true) ∧
  (let c : Fin 4 := 1
   let i : Instr := .codecDecode 1
   let ops : Nat → Bool := cOps 0
   let s : State := cq9 (cd9 0)
   ((i = Instr.codecDecode c ∧ intMayStart s c.val = false ∧ ∀ (o : Nat), ops o = (decide (o = 0) || decide (5 ≤ o))) ∨ (i = Instr.codecEncode c ∧ ∀ (o : Nat), ops o = decide (o = 1)) ∨ (i = Instr.codecTranscode c ∧ ∀ (o : Nat), ops o = decide (o = 2)) ∨ (i = Instr.codecSaveState c ∧ ∀ (o : Nat), ops o = decide (o = 3)) ∨ i = Instr.codecLoadState c ∧ ∀ (o : Nat), ops o = decide (o = 4)) ∧
   s.store.streams = [] ∧ s.trim.fills = [] ∧ codecMayStart s (c.val) ops = true ∧ (∀ (k : Nat), slotBusy s (c.val) k = false)) := by
  and_intros <;> first | decide +kernel | rfl | exact Or.inl cq9_ops | (intro k; rfl)

/-- States and operands that meet the hypotheses of the clauses of `Obligations.RegionUpdates`. -/
theorem witness_RegionUpdates :
  (let r : Fin 64 := 7
   let s : State := setRgn allUp 7 { Rgn.initial with st := 3, queued := some q9 }
   ((rgn s r.val).queued = none ∨ (rgn s r.val).st ≠ 0 ∨ hlpRun s 18 = false)) ∧
  (let r : Fin 64 := 7
   let s : State := rc9 3
   (rgn s r.val).st = 3 ∧ islandUp s islFab = true ∧
   ((rgn s r.val).past = true ∨ frameFinished s (rgnGroup s r.val) ((rgn s r.val).frameT - 1) = true)) ∧
  (let r : Fin 64 := 7
   let s : State := setRgn rs9 7 { Rgn.initial with queued := some q9 }
   let q : RgnReq := q9
   (rgn s r.val).queued = some q ∧ (rgn s r.val).st = 0 ∧ hlpRun s 18 = true ∧ updCode s (r.val) q = 0) ∧
  (let r : Fin 64 := 7
   let s : State := setRgn allUp 7 { Rgn.initial with queued := some q9 }
   let q : RgnReq := q9
   (rgn s r.val).queued = some q ∧ (rgn s r.val).st = 0 ∧ hlpRun s 18 = true ∧ updCode s (r.val) q ≠ 0) ∧
  (let r : Fin 64 := 7
   let s : State := rc9 6
   (rgn s r.val).st = 6 ∧ ((rgn s r.val).past = true ∨ frameFinished s (rgnGroup s r.val) ((rgn s r.val).frameU - 1) = true) ∧
   (rgn s r.val).queued = none) ∧
  (let r : Fin 64 := 7
   let s : State := { rc9 4 with mem := [(0x2000000 + 7*2^22 + 5, 7), (0x2000000 + 7*2^22 + 256, 7)] }
   (rgn s r.val).st = 4 ∧ hbmLive s = true ∧ s.ecc = [] ∧ s.hbm.inj = none ∧ (tgen s (rgnGroup s r.val)).gen ≠ GenState.stopped) ∧
  (let r : Fin 64 := 7
   let q : RgnReq := q9b
   let rest : List Nat := [9]
   let s : State := rf9b
   s.trim.fills = r.val :: rest ∧ (rgn s r.val).req = some q ∧ hlpRun s 18 = true ∧ bitOf (reg s Page.trim Off.TRIM_UPD_CTRL) 0 = true ∧
   q.kind = 1 ∧ (rgn s r.val).dec ≠ 2 ∧ islandRuns s islMedia = true) ∧
  (let r : Fin 64 := 7
   let c : Instr := .updWords 7 true
   let kind : Nat := 0
   let atTime : Bool := true
   let s : State := setRgn rs9 7 { Rgn.initial with st := 2, queued := some (updReq rs9 1 false) }
   pageUp s Page.trim = true ∧
   (c = Instr.updWords r atTime ∧ kind = 0 ∨ c = Instr.updBamler r atTime ∧ kind = 1 ∨ c = Instr.updMeasurements r atTime ∧ kind = 2) ∧
   (rgn s r.val).st ≠ 0) ∧
  (let r : Fin 64 := 7
   let q : RgnReq := q9b
   let rest : List Nat := [9]
   let s : State := isl rf9b islMedia { Island.initial islMedia with st := .idle }
   s.trim.fills = r.val :: rest ∧ (rgn s r.val).req = some q ∧ hlpRun s 18 = true ∧ bitOf (reg s Page.trim Off.TRIM_UPD_CTRL) 0 = true ∧
   q.kind = 1 ∧ (rgn s r.val).dec ≠ 2 ∧ islandRuns s islMedia = false ∧ (rgn s r.val).queued = none) ∧
  (let r : Fin 64 := 7
   let c : Instr := .updWords 7 true
   let kind : Nat := 0
   let atTime : Bool := true
   let s : State := rs9
   pageUp s Page.trim = true ∧
   (c = Instr.updWords r atTime ∧ kind = 0 ∨ c = Instr.updBamler r atTime ∧ kind = 1 ∨ c = Instr.updMeasurements r atTime ∧ kind = 2) ∧
   (rgn s r.val).st = 0 ∧ updCode s (r.val) (updReq s kind atTime) = 0 ∧ hlpRun s 18 = true) ∧
  (let r : Fin 64 := 7
   let q : RgnReq := q9e
   let rest : List Nat := [9]
   let s : State := rf9e
   let code : Nat := (match updFill rf9e 7 q9e with | .inr _ => 99 | .inl c => c)
   s.trim.fills = r.val :: rest ∧ (rgn s r.val).req = some q ∧ hlpRun s 18 = true ∧ bitOf (reg s Page.trim Off.TRIM_UPD_CTRL) 0 = true ∧
   q.kind ≠ 1 ∧ s.ecc = [] ∧ updFill s (r.val) q = Sum.inl code ∧ (rgn s r.val).queued = none) ∧
  (let r : Fin 64 := 7
   let q : RgnReq := q9b
   let rest : List Nat := [9]
   let s : State := tg (setRgn rf9b 7 { Rgn.initial with st := 1, req := some q9b, dec := 2 }) 0 { Tgen.initial with gen := .run }
   s.trim.fills = r.val :: rest ∧ (rgn s r.val).req = some q ∧ hlpRun s 18 = true ∧ bitOf (reg s Page.trim Off.TRIM_UPD_CTRL) 0 = true ∧
   q.kind = 1 ∧ (rgn s r.val).dec = 2 ∧ (tgen s (rgnGroup s r.val)).gen ≠ GenState.stopped) ∧
  (let r : Fin 64 := 7
   let q : RgnReq := q9
   let rest : List Nat := [9]
   let s : State := rf9g
   let ws : List Word := (match updFill rf9g 7 q9 with | .inr w => w | .inl _ => [])
   s.trim.fills = r.val :: rest ∧ (rgn s r.val).req = some q ∧ hlpRun s 18 = true ∧ bitOf (reg s Page.trim Off.TRIM_UPD_CTRL) 0 = true ∧
   q.kind ≠ 1 ∧ s.ecc = [] ∧ updFill s (r.val) q = Sum.inr ws ∧ hbmOk s (stageAt s r.val) (4 * ws.length) = true ∧
   (tgen s (rgnGroup s r.val)).gen ≠ GenState.stopped) ∧
  (let r : Fin 64 := 7
   let c : Instr := .updWords 7 true
   let kind : Nat := 0
   let atTime : Bool := true
   let s : State := allUp
   let code : Nat := updCode allUp 7 (updReq allUp 0 true)
   pageUp s Page.trim = true ∧
   (c = Instr.updWords r atTime ∧ kind = 0 ∨ c = Instr.updBamler r atTime ∧ kind = 1 ∨ c = Instr.updMeasurements r atTime ∧ kind = 2) ∧
   (rgn s r.val).st = 0 ∧
   (updCode s (r.val) (updReq s kind atTime) ≠ 0 ∧ code = updCode s (r.val) (updReq s kind atTime) ∨ updCode s (r.val) (updReq s kind atTime) = 0 ∧ hlpRun s 18 = false ∧ code = 6)) := by
  and_intros <;> first | decide +kernel | rfl | exact Or.inl cq9_ops | (intro k; rfl)

/-- States and operands that meet the hypotheses of the clauses of `Obligations.ScalJobs`. -/
theorem witness_ScalJobs_more2 :
  (let j : ScalJob := j9
   let s : State := s9
   s.scal.running = some j ∧ j.work ≠ j.src ∧ (scalFinish s j).snd.snd = 0) ∧
  (let layer : Fin 4096 := 9
   let bank : Fin 16 := 3
   let d : List Word := d8
   let s : State := s8
   pageUp s Page.scal = true ∧ islandRuns s islMedia = true ∧ (bank.val, layer.val, d) ∈ servedLayers s) ∧
  (let j : ScalJob := j9
   let s : State := isl s9 3 { Island.initial 3 with st := .off }
   s.scal.running = some j ∧ j.work ≠ j.src ∧ (hbmLive s = false ∨ (scalFinish s j).snd.snd ≠ 0)) := by
  and_intros <;> first | decide +kernel | rfl | exact Or.inl cq9_ops | (intro k; rfl)

/-- States and operands that meet the hypotheses of the clauses of `Obligations.WearAndFades`. -/
theorem witness_WearAndFades :
  (let g : Fin 16 := 2
   let s : State := { wr9 false with trim := { allUp.trim with wearBusy := [3,2] } }
   s.trim.wearBusy.contains g.val = true ∧ hbmLive s = true ∧ wearWait s g.val = []) ∧
  (let g : Fin 16 := 2
   let s : State := { wr9 true with trim := { allUp.trim with wearLast := [(2, some 0)] } }
   (mapGet (fun _ => none) s.trim.wearLast g.val = some (nowSec s) ∨ wearEn s = false)) ∧
  (let ok : Bool := true
   let c : Ckpt := ck9
   let s : State := { wr9 true with trim := { allUp.trim with ckpt := some ck9 } }
   s.trim.ckpt = some c ∧ (ok = false ∨ c.bad = true ∨ c.todo = [] ∧ c.out = 0)) ∧
  (let s : State := { wr9 true with trim := { allUp.trim with deferred := 4, deferSec := some 9 } }
   pageUp s Page.trim = true ∧ bitOf (reg s Page.trim Off.TRIM_WEAR_CTRL) 1 = true ∧ s.trim.ckpt = none) ∧
  (let g : Fin 16 := 2
   let s : State := wr9 true
   pageUp s Page.trim = true ∧ wearEn s = true ∧ mapGet (fun _ => none) s.trim.wearLast g.val ≠ some (nowSec s) ∧ wearHeld s = true ∧
   s.trim.deferSec ≠ some (nowSec s)) ∧
  (let ok : Bool := true
   let c : Ckpt := { ck9 with out := 1 }
   let s : State := { wr9 true with trim := { allUp.trim with ckpt := some { ck9 with out := 1 } } }
   s.trim.ckpt = some c ∧ ok = true ∧ c.bad = false ∧ (c.todo ≠ [] ∨ c.out ≠ 0)) ∧
  (let g : Fin 16 := 2
   let s : State := { wr9 false with trim := { allUp.trim with wearBusy := [2] } }
   pageUp s Page.trim = true ∧ wearEn s = true ∧ mapGet (fun _ => none) s.trim.wearLast g.val ≠ some (nowSec s) ∧ wearHeld s = false ∧
   s.trim.wearBusy.contains g.val = true) ∧
  (let now : Bool := true
   let t0 : Rat := 0
   let s : State := rg (rg allUp .fade Off.FADE_MF_TARGET 0x1FFF) .fade Off.FADE_MF_DUR 100
   pageUp s Page.fade = true ∧
   (t0 = if now = true then nowNs s else genTimeNs s (BitVec.toNat (reg s Page.fade Off.FADE_MF_T0_SEC)) (regF s Page.fade Off.FADE_MF_T0_NS 0 30))) ∧
  (let g : Fin 16 := 2
   let s : State := wr9 false
   let x : WearGain := .zero
   pageUp s Page.trim = true ∧ wearEn s = true ∧ mapGet (fun _ => none) s.trim.wearLast g.val ≠ some (nowSec s) ∧ wearHeld s = false ∧
   s.trim.wearBusy.contains g.val = false ∧ wearWait s g.val = [] ∧ wearGainOf s (g.val) (nowSec s) = some x) ∧
  (let g : Fin 16 := 2
   let s : State := tg (wr9 false) 2 { Tgen.initial with gen := .slack }
   pageUp s Page.trim = true ∧ wearEn s = true ∧ mapGet (fun _ => none) s.trim.wearLast g.val ≠ some (nowSec s) ∧ wearHeld s = false ∧
   s.trim.wearBusy.contains g.val = false ∧ wearWait s g.val = [] ∧ wearGainOf s (g.val) (nowSec s) = none) := by
  and_intros <;> first | decide +kernel | rfl | exact Or.inl cq9_ops | (intro k; rfl)

end W09

namespace W10

def ri (v : Ring) : State := setRing allUp 53 v
def R0 : Ring := Ring.initial
def bg (s : State) : State := setBgrp (fr s (.bgrp 3) Off.BGRP_REF_CFG 1) 3 { bgrpAt s 3 with pll := true }
def dn (v : Ring) : State := setHlp (ri v) 3 ⟨1, 1, true⟩
def U : Ring := { R0 with st := 6, n := 3, mods := (List.range 3).foldl (fun m k => mapSet (fun _ => ModEnt.initial) m k { ModEnt.initial with idleCap := true, deepCap := true, maxStep := 3, ident := 7 }) [], enumd := true, rxLock := true }
def lc (v : Word) (s : State) : State := rg s (.bport 53) Off.BPORT_LINK_CFG v
def lcu : State := lc 0x34 (ri U)
def gm (st : Nat) : State := (List.range 16).foldl (fun s i => setRing s (48+i) { U with st := st }) (bg allUp)
def plan10 : ServePlan := ⟨7, 2, false, [⟨0,4,2⟩, ⟨1,0,0⟩, ⟨0,4,2⟩], [(0,3)]⟩
def ch10 : Chunk := ⟨7, 0, 5, [(0,0,11),(0,1,12),(0,2,13),(0,3,14)]⟩
def st10 (v : Ring) (cur : Word) : State := tg (setEng (ri v) 3 { eng allUp 3 with stream := [ch10, ch10] }) 3 { Tgen.initial with gen := .run, cur := cur, closed := cur + 1, plans := [⟨7,.run,16666767,16666667,2,[8000000,0,0],1000,false,true,true,true,false,0,[],[]⟩] }
def nx10 (s : State) : State := match nextChunk s 3 with | some (_, u) => u | none => s
def V10 : Ring := { U with serve := [plan10] }
def plD : ServePlan := { plan10 with delta := true }
def V10d : Ring := { U with serve := [plD] }
def tt : Nat := (held16 16666767).toNat - 65536*20
def rpv (v : Nat) : BitVec 128 := BitVec.ofNat 128 (withCrc v)
def po : Ring := { U with penOut := true, sent0 := [0,2], got := [2], rpt := [(1, { Rpt.initial with reported := true })] }
def fr10 : State := rg (rg (rg (ri U) (.bgrp 3) Off.BGRP_MFW_DEST 0x520025) (.bgrp 3) Off.BGRP_MFW_LEN 0x1000) (.bgrp 3) Off.BGRP_MFW_ACT_FRAME 99
def rl10 : Relay := ⟨0x1000, 64, 0x20, 9⟩
def fr11 : State := setBgrp (setRing fr10 53 { U with relayed := 64 }) 3 { bgrpAt fr10 3 with relay := some rl10 }

/-- States and operands that meet the hypotheses of the clauses of `Obligations.FirmwareRelay`. -/
theorem witness_FirmwareRelay :
  (let g : Fin 16 := 3
   let s : State := fr11
   pageUp s (Page.bgrp g) = true ∧ hlpRun s g.val = true) ∧
  (let g : Fin 16 := 3
   let s : State := fr10
   pageUp s (Page.bgrp g) = true ∧ hlpRun s g.val = true ∧ (bgrpAt s g.val).relay = none) ∧
  (let g : Fin 16 := 3
   let s : State := fr11
   pageUp s (Page.bgrp g) = true ∧ hlpRun s g.val = true ∧ (bgrpAt s g.val).relay.isSome = true) ∧
  (let g : Fin 16 := 3
   let s : State := fr11
   pageUp s (Page.bgrp g) = true ∧ hlpRun s g.val = true ∧ (bgrpAt s g.val).relay.isSome = true) ∧
  (let g : Fin 16 := 3
   let s : State := fr10
   let c : Instr := .mfwAbort 3
   pageUp s (Page.bgrp g) = true ∧ hlpRun s g.val = true ∧ (bgrpAt s g.val).relay = none ∧ (c = Instr.mfwAbort g ∨ c = Instr.mfwRelayDone g)) ∧
  (let g : Fin 16 := 3
   let s : State := fr11
   let rl : Relay := rl10
   pageUp s (Page.bgrp g) = true ∧ hlpRun s g.val = true ∧ (bgrpAt s g.val).relay = some rl ∧
   (∀ (i : Nat), i < 16 → rl.mask.testBit i = true → ringUp s (16 * g.val + i) = true → rl.len ≤ (ringAt s (16 * g.val + i)).relayed + 15)) := by
  and_intros <;> first | decide +kernel | rfl

/-- States and operands that meet the hypotheses of the clauses of `Obligations.LaneMeasurementAndSettings`. -/
theorem witness_LaneMeasurementAndSettings :
  (let g : Fin 16 := 3
   let s : State := allUp
   pageUp s (Page.bgrp g) = true) ∧
  (let p : Fin 256 := 53
   let s : State := ri U
   pageUp s (Page.bport p) = true ∧ (ringAt s p.val).st = 6) ∧
  (let p : Fin 256 := 53
   let s : State := ri R0
   pageUp s (Page.bport p) = true ∧ (ringAt s p.val).st ≠ 6) ∧
  (let p : Fin 256 := 53
   let s : State := ri { U with st := 3, n := 9 }
   pageUp s (Page.bport p) = true ∧ (ringAt s p.val).st = 3 ∧ linkF s (p.val) 7 1 = 0) ∧
  (let p : Fin 256 := 53
   let s : State := ri { U with st := 3, n := 9 }
   pageUp s (Page.bport p) = true ∧ (ringAt s p.val).st = 3 ∧ linkF s (p.val) 7 1 = 0) ∧
  (let p : Fin 256 := 53
   let s : State := rg (ri { U with txPending := true }) (.bport 53) Off.BPORT_TX_CFG 7
   pageUp s (Page.bport p) = true ∧ (ringAt s p.val).st = 6 ∧ (ringAt s p.val).txPending = true) ∧
  (let p : Fin 256 := 53
   let s : State := ri { U with st := 4, meas := [(3,[4])] }
   pageUp s (Page.bport p) = true ∧ ((ringAt s p.val).st = 4 ∨ (ringAt s p.val).st = 6 ∧ (ringAt s p.val).remeas = true) ∧
   (ringAt s p.val).meas.length < 15) ∧
  (let p : Fin 256 := 53
   let s : State := ri { U with st := 6, remeas := true, meas := (List.range 15).map (fun k => (1000+k,[4])) }
   pageUp s (Page.bport p) = true ∧ (ringAt s p.val).st = 6 ∧ (ringAt s p.val).remeas = true ∧ (ringAt s p.val).meas.length = 15) := by
  and_intros <;> first | decide +kernel | rfl

/-- States and operands that meet the hypotheses of the clauses of `Obligations.LinkCommands`. -/
theorem witness_LinkCommands :
  (let p : Fin 256 := 53
   let s : State := lcu
   pageUp s (Page.bport p) = true ∧ hlpRun s (p.val / 16) = true ∧ (ringAt s p.val).st = 6) ∧
  (let p : Fin 256 := 53
   let s : State := dn U
   let c : Instr := .linkCmdUp 53
   pageUp s (Page.bport p) = true ∧ hlpRun s (p.val / 16) = false ∧
   (c = Instr.linkCmdUp p ∨ c = Instr.linkCmdDown p ∨ c = Instr.linkCmdRemeasure p ∨ c = Instr.linkCmdRestep p ∨ c = Instr.linkCmdSleepIdle p ∨ c = Instr.linkCmdSleepDeep p ∨ c = Instr.linkCmdWake p)) ∧
  (let g : Fin 16 := 3
   let mask : BitVec 16 := 0x8005
   let c : Instr := .grpCmdUp 3 0x8005
   let old : Nat := 0
   let new : Nat := 1
   let s : State := gm 0
   pageUp s (Page.bgrp g) = true ∧ hlpRun s g.val = true ∧ forceF s (bgrpPage g.val) Off.BGRP_REF_CFG 0 1 ≠ 0 ∧
   (bgrpAt s g.val).pll = true ∧
   (c = Instr.grpCmdUp g mask ∧ old = 0 ∧ new = 1 ∨ c = Instr.grpCmdDown g mask ∧ new = 0 ∨ c = Instr.grpCmdRemeasure g mask ∧ old = 3 ∧ new = 4 ∨ c = Instr.grpCmdRestep g mask ∧ old = 6 ∧ new = 5) ∧
   (∀ (i : Nat), i < 16 → mask.getLsbD i = true → (ringAt s (16 * g.val + i)).st = old)) ∧
  (let p : Fin 256 := 53
   let s : State := ri R0
   let c : Instr := .linkCmdUp 53
   pageUp s (Page.bport p) = true ∧ hlpRun s (p.val / 16) = true ∧
   (c = Instr.linkCmdUp p ∧ (ringAt s p.val).st = 0 ∧ (forceF s (bgrpPage (p.val / 16)) Off.BGRP_REF_CFG 0 1 = 0 ∨ (bgrpAt s (p.val / 16)).pll = false) ∨ c = Instr.linkCmdRemeasure p ∧ (ringAt s p.val).st = 0 ∨ c = Instr.linkCmdRestep p ∧ (ringAt s p.val).st ≠ 6 ∨ c = Instr.linkCmdSleepIdle p ∧ (ringAt s p.val).st ≠ 6 ∨ c = Instr.linkCmdSleepDeep p ∧ (ringAt s p.val).st ≠ 6 ∨ c = Instr.linkCmdWake p ∧ (ringAt s p.val).st ≠ 7 ∧ (ringAt s p.val).st ≠ 8)) ∧
  (let p : Fin 256 := 53
   let s : State := lcu
   let c : Instr := .linkCmdDown 53
   let st : Nat := 0
   pageUp s (Page.bport p) = true ∧ hlpRun s (p.val / 16) = true ∧
   (c = Instr.linkCmdUp p ∧ (ringAt s p.val).st = 0 ∧ forceF s (bgrpPage (p.val / 16)) Off.BGRP_REF_CFG 0 1 ≠ 0 ∧ (bgrpAt s (p.val / 16)).pll = true ∧ st = 1 ∨ c = Instr.linkCmdDown p ∧ st = 0 ∨ c = Instr.linkCmdRemeasure p ∧ (ringAt s p.val).st ≠ 0 ∧ (ringAt s p.val).st ≠ 6 ∧ st = 4 ∨ c = Instr.linkCmdRestep p ∧ (ringAt s p.val).st = 6 ∧ st = 5 ∨ c = Instr.linkCmdSleepIdle p ∧ (ringAt s p.val).st = 6 ∧ allIdle (ringAt s p.val) = true ∧ ((tgen s (p.val / 16)).gen = GenState.stopped ∨ (tgen s (p.val / 16)).gen = GenState.slack) ∧ st = 7 ∨ c = Instr.linkCmdSleepDeep p ∧ (ringAt s p.val).st = 6 ∧ allDeep (ringAt s p.val) = true ∧ (tgen s (p.val / 16)).gen = GenState.stopped ∧ st = 8 ∨ c = Instr.linkCmdWake p ∧ ((ringAt s p.val).st = 7 ∨ (ringAt s p.val).st = 8) ∧ st = 9)) := by
  and_intros <;> first | decide +kernel | rfl

/-- States and operands that meet the hypotheses of the clauses of `Obligations.LinkEvents`. -/
theorem witness_LinkEvents :
  (let p : Fin 256 := 53
   let s : State := lc 0x10 (bg (ri R0))
   pageUp s (Page.bport p) = true ∧ linkF s (p.val) 4 1 = 1 ∧ hlpRun s (p.val / 16) = true ∧ (ringAt s p.val).st = 0 ∧
   forceF s (bgrpPage (p.val / 16)) Off.BGRP_REF_CFG 0 1 ≠ 0 ∧ (bgrpAt s (p.val / 16)).pll = true) ∧
  (let p : Fin 256 := 53
   let s : State := lcu
   let c : Instr := .linkLoss 53
   let st : Nat := 1
   let ev : Option Nat := (some 1)
   pageUp s (Page.bport p) = true ∧
   (c = Instr.linkResetTimer p ∧ (ringAt s p.val).st = 1 ∧ st = 2 ∧ ev = none ∨ c = Instr.linkTrainReturn p ∧ (ringAt s p.val).st = 2 ∧ (ringAt s p.val).afterStep = false ∧ st = 3 ∧ ev = none ∨ c = Instr.linkTrainReturn p ∧ (ringAt s p.val).st = 2 ∧ (ringAt s p.val).afterStep = true ∧ st = 4 ∧ ev = some 4 ∨ c = Instr.linkTrainReturn p ∧ (ringAt s p.val).st = 9 ∧ (ringAt s p.val).fromDeep = true ∧ st = 4 ∧ ev = none ∨ c = Instr.linkTrainReturn p ∧ (ringAt s p.val).st = 9 ∧ (ringAt s p.val).fromDeep = false ∧ st = 6 ∧ ev = none ∨ c = Instr.linkTrainTimeout p ∧ (ringAt s p.val).st = 2 ∧ (ringAt s p.val).afterStep = false ∧ st = 0 ∧ ev = some 9 ∨ c = Instr.stepSent p ∧ (ringAt s p.val).st = 5 ∧ st = 2 ∧ ev = none ∨ c = Instr.stepTimeout p ∧ (ringAt s p.val).st = 2 ∧ (ringAt s p.val).afterStep = true ∧ st = 1 ∧ ev = some 5 ∨ c = Instr.linkLoss p ∧ ((ringAt s p.val).st = 6 ∨ (ringAt s p.val).st = 4) ∧ (st = if linkF s (p.val) 4 1 = 1 ∧ hlpRun s (p.val / 16) = true then 1 else 0) ∧ ev = some 1 ∨ c = Instr.slackIdleEnter p ∧ (ringAt s p.val).st = 6 ∧ linkF s (p.val) 5 1 = 1 ∧ (tgen s (p.val / 16)).gen = GenState.slack ∧ (ringAt s p.val).penFrame.isSome = true ∧ allIdle (ringAt s p.val) = true ∧ st = 7 ∧ ev = none ∨ c = Instr.slackWakeStart p ∧ (ringAt s p.val).st = 7 ∧ linkF s (p.val) 5 1 = 1 ∧ (tgen s (p.val / 16)).gen = GenState.slack ∧ st = 9 ∧ ev = none ∨ c = Instr.wakeTimeout p ∧ (ringAt s p.val).st = 9 ∧ st = 1 ∧ ev = some 11)) := by
  and_intros <;> first | decide +kernel | rfl

/-- States and operands that meet the hypotheses of the clauses of `Obligations.PackerStream`. -/
theorem witness_PackerStream :
  (let p : Fin 256 := 53
   let s : State := ri U
   pageUp s (Page.bport p) = true ∧ (ringAt s p.val).st = 6) ∧
  (let p : Fin 256 := 53
   let s : State := ri po
   pageUp s (Page.bport p) = true ∧ (ringAt s p.val).penOut = true) ∧
  (let p : Fin 256 := 53
   let s : State := ri po
   pageUp s (Page.bport p) = true ∧ (ringAt s p.val).penOut = true) ∧
  (let p : Fin 256 := 53
   let v : BitVec 128 := 5
   let s : State := ri U
   pageUp s (Page.bport p) = true ∧ (ringAt s p.val).st = 6 ∧ nfld v.toNat 8 8 < 192 ∧ crcOk v.toNat = false) ∧
  (let g : Fin 16 := 3
   let c : Chunk := ch10
   let u : State := nx10 (st10 R0 6)
   let s : State := st10 R0 6
   pageUp s (Page.bgrp g) = true ∧ nextChunk s g.val = some (c, u) ∧ ringUp s (16 * g.val + c.ring) = false) ∧
  (let p : Fin 256 := 53
   let v : BitVec 128 := rpv (0x400000 + 2*256)
   let s : State := ri U
   pageUp s (Page.bport p) = true ∧ (ringAt s p.val).st = 6 ∧ nfld v.toNat 8 8 < 192 ∧ crcOk v.toNat = true ∧ v.getLsbD 72 = false) ∧
  (let g : Fin 16 := 3
   let c : Chunk := ch10
   let u : State := nx10 (st10 V10d 6)
   let s : State := st10 V10d 6
   let pl : ServePlan := plD
   pageUp s (Page.bgrp g) = true ∧ nextChunk s g.val = some (c, u) ∧
   List.find? (fun q => decide (q.frame = c.frame)) (ringAt s (16 * g.val + c.ring)).serve = some pl ∧
   ringUp s (16 * g.val + c.ring) = true ∧ prevGone s (16 * g.val + c.ring) c.frame = true) ∧
  (let g : Fin 16 := 3
   let c : Chunk := ch10
   let u : State := nx10 (st10 V10 4)
   let s : State := st10 V10 4
   let pl : ServePlan := plan10
   pageUp s (Page.bgrp g) = true ∧ nextChunk s g.val = some (c, u) ∧
   List.find? (fun q => decide (q.frame = c.frame)) (ringAt s (16 * g.val + c.ring)).serve = some pl ∧
   ringUp s (16 * g.val + c.ring) = true ∧ prevGone s (16 * g.val + c.ring) c.frame = false) ∧
  (let p : Fin 256 := 53
   let ttx : Nat := tt
   let s : State := st10 R0 6
   pageUp s (Page.bport p) = true ∧
   ((ringAt s p.val).st ≠ 6 ∨ planOf (tgen s (p.val / 16)) ((tgen s (p.val / 16)).cur + 1) = none ∨ (ringAt s p.val).penFrame = some ((tgen s (p.val / 16)).cur + 1) ∨ ∃ fp, planOf (tgen s (p.val / 16)) ((tgen s (p.val / 16)).cur + 1) = some fp ∧ held16 fp.latch < ↑((ringAt s p.val).dp * 65536 + ttx))) ∧
  (let p : Fin 256 := 53
   let fp : FramePlan := ⟨7,.run,16666767,16666667,2,[8000000,0,0],1000,false,true,true,true,false,0,[],[]⟩
   let ttx : Nat := tt
   let s : State := st10 V10 6
   pageUp s (Page.bport p) = true ∧ (ringAt s p.val).st = 6 ∧ planOf (tgen s (p.val / 16)) ((tgen s (p.val / 16)).cur + 1) = some fp ∧
   fp.gov ≠ GenState.stopped ∧ (ringAt s p.val).penFrame ≠ some ((tgen s (p.val / 16)).cur + 1) ∧
   0 ≤ held16 fp.latch - ↑((ringAt s p.val).dp * 65536 + ttx) ∧
   10 * (held16 fp.latch - ↑((ringAt s p.val).dp * 65536 + ttx)) < ↑((blockTime10 (ringAt s p.val).step + 64) * 65536)) := by
  and_intros <;> first | decide +kernel | rfl

end W10

namespace W11

def D11 : ModDesc := { Modu.initial.desc with lw := 2, lh := 1, idleCap := true, deepCap := true, maxStep := 3, f := 77 }
def M0 : Modu := { Modu.initial with desc := D11, link := 1, pos := some 5, shown := ⟨[(3,4)], 2, 9, 1, false⟩ }
def mo (v : Modu) : State := setModu allUp 9 200 v
def nx (r : Res) : State := match r with | .next t => t | _ => State.reset
def m2 : State := setModu (mo M0) 9 201 { M0 with pos := some 6 }
def cb (v : Nat) : BitVec 128 := BitVec.ofNat 128 (withCrc v)
def ck11 (ds : List (BitVec 128)) : BitVec 128 := BitVec.ofNat 128 (checkBlock 5 0 (ds.map (·.toNat))).payload
def mh11 (l : Nat) : BitVec 128 := cb (0x50 + 5*256 + 0*2^20 + 2*2^52 + l*2^60)
def pa (k f g vt : Nat) : BitVec 128 := cb (0x20 + k*256 + g*2^10 + vt*2^14 + f*2^38)
def pb : BitVec 128 := cb (0x21 + 0*256)
def MH : Modu := { M0 with hold := some 5, probes := [⟨9,7,1,1⟩] }
def MP : Modu := { MH with parts := [⟨0,0,2,9,0,true,[(0,77),(1,88)]⟩] }
def MPp : Modu := { M0 with hold := some 5, pen := some (9,0), probes := [⟨9,7,0,1⟩,⟨9,8,0,2⟩], cond := [(21,2)], queue := [7] }

/-- States and operands that meet the hypotheses of the clauses of `Obligations.ModuleBlocks`. -/
theorem witness_ModuleBlocks :
  (let p : Fin 256 := 9
   let k : Fin 256 := 200
   let s : State := mo { M0 with fw := 4, chunks := [(0,2)] }
   (moduAt s p.val k.val).fw = 4) ∧
  (let p : Fin 256 := 9
   let k : Fin 256 := 200
   let s : State := mo { M0 with fw := 4, chunks := [(0,2)] }
   (moduAt s p.val k.val).fw = 4) ∧
  (let p : Fin 256 := 9
   let k : Fin 256 := 200
   let b : BitVec 128 := cb (0x40 + 5*256 + 777777*65536)
   let s : State := mo M0
   (moduAt s p.val k.val).link = 1 ∧ forMe (moduAt s p.val k.val) 64 b.toNat false = true) ∧
  (let p : Fin 256 := 9
   let k : Fin 256 := 200
   let b : BitVec 128 := cb (0x71 + 255*256 + 7777*65536)
   let s : State := mo M0
   (moduAt s p.val k.val).link = 1 ∧ forMe (moduAt s p.val k.val) 113 b.toNat true = true) ∧
  (let p : Fin 256 := 9
   let k : Fin 256 := 200
   let b : BitVec 128 := cb (0x51 + 255*256 + 99*2^16)
   let s : State := mo { M0 with fw := 2 }
   (moduAt s p.val k.val).link = 1 ∧ forMe (moduAt s p.val k.val) 81 b.toNat true = true ∧ (moduAt s p.val k.val).fw = 2) ∧
  (let p : Fin 256 := 9
   let k : Fin 256 := 200
   let b : BitVec 128 := cb (0x10 + 3*256 + 9*2^32)
   let s : State := mo { M0 with parts := [⟨0,0,3,9,0,true,[]⟩, ⟨0,0,2,9,0,true,[]⟩], probes := [⟨9,0,0,0⟩,⟨8,0,0,0⟩] }
   (moduAt s p.val k.val).link = 1 ∧ crcOk b.toNat = true ∧ nfld b.toNat 0 8 = 16) ∧
  (let p : Fin 256 := 9
   let k : Fin 256 := 200
   let b : BitVec 128 := cb (0x70 + 5*256 + 9*2^16 + 0x850003*2^48 + 0x810004*2^72)
   let s : State := mo { M0 with probes := [⟨9,7,1,1⟩], pulsed := [⟨9,3,0,1⟩] }
   (moduAt s p.val k.val).link = 1 ∧ forMe (moduAt s p.val k.val) 112 b.toNat false = true) ∧
  (let p : Fin 256 := 9
   let k : Fin 256 := 200
   let b : BitVec 128 := cb (0x01 + 5*256 + 0*2^16 + 3*2^20 + 9*2^24 + 1*2^56)
   let s : State := mo { M0 with parts := [⟨0,0,3,9,0,true,[]⟩, ⟨0,0,2,9,0,true,[]⟩] }
   (moduAt s p.val k.val).link = 1 ∧ forMe (moduAt s p.val k.val) 1 b.toNat false = true ∧ (moduAt s p.val k.val).fw ≠ 4) ∧
  (let p : Fin 256 := 9
   let k : Fin 256 := 200
   let b : BitVec 128 := cb (0x01 + 5*256 + 0*2^16 + 3*2^20 + 9*2^24 + 1*2^56)
   let s : State := mo { M0 with fw := 4, parts := [⟨0,0,3,9,0,true,[]⟩, ⟨0,0,2,9,0,true,[]⟩] }
   (moduAt s p.val k.val).link = 1 ∧ forMe (moduAt s p.val k.val) 1 b.toNat false = true ∧ (moduAt s p.val k.val).fw = 4) ∧
  (let p : Fin 256 := 9
   let k : Fin 256 := 200
   let b : BitVec 128 := mh11 1
   let s : State := mo M0
   let data : List (BitVec 128) := [3,4]
   let check : BitVec 128 := ck11 [3,4]
   let old : List (Nat × Nat) := []
   (moduAt s p.val k.val).link = 1 ∧ forMe (moduAt s p.val k.val) 80 b.toNat true = true ∧ data.length = nfld b.toNat 52 8 ∧
   check.toNat = (checkBlock (nfld b.toNat 8 8) 0 (List.map (fun x => x.toNat) data)).payload ∧ (moduAt s p.val k.val).fw ≠ 4 ∧
   (old = if (moduAt s p.val k.val).fw = 1 then (moduAt s p.val k.val).chunks else [])) := by
  and_intros <;> first | exact Or.inr (Or.inr (Or.inr (Or.inl rfl))) | decide +kernel | rfl

/-- States and operands that meet the hypotheses of the clauses of `Obligations.ModuleDisplay`. -/
theorem witness_ModuleDisplay :
  (let p : Fin 256 := 9
   let k : Fin 256 := 200
   let s : State := mo M0
   (moduAt s p.val k.val).chosen = none) ∧
  (let p : Fin 256 := 9
   let k : Fin 256 := 200
   let s : State := mo M0
   let a : BitVec 128 := pa 0 1 2 3
   let b : BitVec 128 := 0
   (moduAt s p.val k.val).link = 1 ∧ pennantOk a.toNat b.toNat = false) ∧
  (let p : Fin 256 := 9
   let k : Fin 256 := 200
   let s : State := mo { M0 with chosen := some ⟨[(1,2)],1,3,4,false⟩ }
   let c : Content := ⟨[(1,2)],1,3,4,false⟩
   (moduAt s p.val k.val).chosen = some c) ∧
  (let p : Fin 256 := 9
   let k : Fin 256 := 200
   let s : State := mo { MPp with hold := none }
   ((moduAt s p.val k.val).pen = none ∨ (moduAt s p.val k.val).chosen.isSome = true ∨ (moduAt s p.val k.val).hold = none)) ∧
  (let p : Fin 256 := 9
   let k : Fin 256 := 200
   let s : State := mo { M0 with latches := 5000, queue := [3] }
   let lamp : Fin 65536 := 3
   let c : Fin 3 := 2
   mapGet (fun _ => 0) (moduAt s p.val k.val).measured (3 * lamp.val + c.val) + (moduAt s p.val k.val).window ≤ (moduAt s p.val k.val).latches) ∧
  (let p : Fin 256 := 9
   let k : Fin 256 := 200
   let s : State := mo MH
   let a : BitVec 128 := pa 1 9 2 3
   let b : BitVec 128 := pb
   let h : Nat := 5
   (moduAt s p.val k.val).link = 1 ∧ pennantOk a.toNat b.toNat = true ∧ (moduAt s p.val k.val).hold = some h ∧
   (moduAt s p.val k.val).holdNext = none ∧ (moduAt s p.val k.val).chosen = none ∧ (moduAt s p.val k.val).fw = 0 ∧ nfld a.toNat 8 2 = 1) ∧
  (let p : Fin 256 := 9
   let k : Fin 256 := 200
   let s : State := mo MH
   let a : BitVec 128 := pa 2 9 2 3
   let b : BitVec 128 := pb
   let h : Nat := 5
   (moduAt s p.val k.val).link = 1 ∧ pennantOk a.toNat b.toNat = true ∧ (moduAt s p.val k.val).hold = some h ∧
   (moduAt s p.val k.val).holdNext = none ∧ (moduAt s p.val k.val).chosen = none ∧ (moduAt s p.val k.val).fw = 0 ∧ nfld a.toNat 8 2 = 2) ∧
  (let p : Fin 256 := 9
   let k : Fin 256 := 200
   let s : State := mo MPp
   let slot : Fin 8 := 1
   let f : Word := 9
   let kind : Nat := 0
   let q : Probe := ⟨9,7,0,1⟩
   (moduAt s p.val k.val).pen = some (f, kind) ∧ kind < 2 ∧ (moduAt s p.val k.val).chosen = none ∧ (moduAt s p.val k.val).hold ≠ none ∧
   List.filter (fun x => decide (x.frame = f) && decide (x.slot = slot.val)) (moduAt s p.val k.val).probes = [q] ∧ q.colour < 3) ∧
  (let p : Fin 256 := 9
   let k : Fin 256 := 200
   let s : State := mo MP
   let a : BitVec 128 := pa 0 9 2 6
   let b : BitVec 128 := pb
   let h : Nat := 5
   let c : Option Content := (newContent MP 9 2 6 1).getD ⟨[], 0, 0, 0, false⟩
   (moduAt s p.val k.val).link = 1 ∧ pennantOk a.toNat b.toNat = true ∧ (moduAt s p.val k.val).hold = some h ∧
   (moduAt s p.val k.val).holdNext = none ∧ (moduAt s p.val k.val).chosen = none ∧ (moduAt s p.val k.val).fw = 0 ∧ nfld a.toNat 8 2 = 0 ∧
   newContent (moduAt s p.val k.val) (BitVec.ofNat 32 (nfld a.toNat 38 32)) (nfld a.toNat 10 4) (nfld a.toNat 14 8) (nfld b.toNat 8 2 + 1) = c) := by
  and_intros <;> first | exact Or.inr (Or.inr (Or.inr (Or.inl rfl))) | decide +kernel | rfl

/-- States and operands that meet the hypotheses of the clauses of `Obligations.ModuleLane`. -/
theorem witness_ModuleLane :
  (let n : Nat := 191
   n < 192) ∧
  (let p : Fin 256 := 9
   let k : Fin 256 := 200
   let s : State := mo { M0 with link := 0, latches := 1 }
   (moduAt s p.val k.val).link < 2) ∧
  (let p : Fin 256 := 9
   let k : Fin 256 := 200
   let s : State := mo M0
   (moduAt s p.val k.val).link = 1 ∧ (moduAt s p.val k.val).desc.idleCap = true) ∧
  (let p : Fin 256 := 9
   let k : Fin 256 := 200
   let s : State := mo M0
   (moduAt s p.val k.val).link = 1 ∧ (moduAt s p.val k.val).desc.deepCap = true) ∧
  (let p : Fin 256 := 9
   let k : Fin 256 := 200
   let s : State := mo M0
   let m : Nat := 5
   (moduAt s p.val k.val).link = 1 ∧ (moduAt s p.val k.val).pos = some m) ∧
  (let p : Fin 256 := 9
   let k : Fin 256 := 200
   let s : State := mo { M0 with link := 2 }
   ((moduAt s p.val k.val).link = 2 ∨ (moduAt s p.val k.val).link = 3)) ∧
  (let p : Fin 256 := 9
   let k : Fin 256 := 200
   let s : State := mo { M0 with link := 0 }
   ((moduAt s p.val k.val).link ≠ 1 ∨ (moduAt s p.val k.val).pos = none)) ∧
  (let p : Fin 256 := 9
   let k : Fin 256 := 200
   let s : State := mo M0
   let target : Fin 8 := 2
   (moduAt s p.val k.val).link = 1 ∧ target.val ≤ ↑(moduAt s p.val k.val).desc.maxStep) ∧
  (let p : Fin 256 := 9
   let k : Fin 256 := 200
   let s : State := m2
   let c : Instr := .moduleLinkLoss 9 200
   let t : State := nx (exec (.moduleLinkLoss 9 200) m2)
   exec c s = Host.Outcome.next t ∧
   ((∃ d n, c = Instr.moduleEnumSlot p k d n) ∨ c = Instr.moduleMeasSlot p k ∨ c = Instr.moduleRxBlockLock p k ∨ c = Instr.moduleLinkLoss p k ∨ c = Instr.moduleHoldExpiry p k ∨ (∃ n, c = Instr.moduleStepRx p k n) ∨ (∃ n, c = Instr.moduleSleepRx p k n) ∨ (∃ b, c = Instr.moduleAssignRx p k b) ∨ (∃ b, c = Instr.moduleDiagCfgRx p k b) ∨ (∃ b, c = Instr.moduleWithdrawRx p k b) ∨ (∃ b l o, c = Instr.moduleFlagPartRx p k b l o) ∨ (∃ b, c = Instr.moduleProbeRx p k b) ∨ (∃ b l x o, c = Instr.moduleMfwChunkRx p k b l x o) ∨ (∃ b, c = Instr.moduleMfwActivateRx p k b) ∨ (∃ o, c = Instr.moduleActivationEnd p k o) ∨ (∃ a b, c = Instr.modulePennantRx p k a b) ∨ (∃ l, c = Instr.moduleLatch p k l) ∨ (∃ l x, c = Instr.moduleUnmeasuredWindow p k l x) ∨ ∃ n x y z, c = Instr.moduleProbePulse p k n x y z)) ∧
  (let p : Fin 256 := 9
   let k : Fin 256 := 200
   let s : State := m2
   let c : Instr := .moduleLinkLoss 9 200
   let t : State := nx (exec (.moduleLinkLoss 9 200) m2)
   let q : Nat := 9
   let j : Nat := 201
   exec c s = Host.Outcome.next t ∧
   ((∃ d n, c = Instr.moduleEnumSlot p k d n) ∨ c = Instr.moduleMeasSlot p k ∨ c = Instr.moduleRxBlockLock p k ∨ c = Instr.moduleLinkLoss p k ∨ c = Instr.moduleHoldExpiry p k ∨ (∃ n, c = Instr.moduleStepRx p k n) ∨ (∃ n, c = Instr.moduleSleepRx p k n) ∨ (∃ b, c = Instr.moduleAssignRx p k b) ∨ (∃ b, c = Instr.moduleDiagCfgRx p k b) ∨ (∃ b, c = Instr.moduleWithdrawRx p k b) ∨ (∃ b l o, c = Instr.moduleFlagPartRx p k b l o) ∨ (∃ b, c = Instr.moduleProbeRx p k b) ∨ (∃ b l x o, c = Instr.moduleMfwChunkRx p k b l x o) ∨ (∃ b, c = Instr.moduleMfwActivateRx p k b) ∨ (∃ o, c = Instr.moduleActivationEnd p k o) ∨ (∃ a b, c = Instr.modulePennantRx p k a b) ∨ (∃ l, c = Instr.moduleLatch p k l) ∨ (∃ l x, c = Instr.moduleUnmeasuredWindow p k l x) ∨ ∃ n x y z, c = Instr.moduleProbePulse p k n x y z) ∧
   j < 256 ∧ (q, j) ≠ (p.val, k.val)) := by
  and_intros <;> first | exact Or.inr (Or.inr (Or.inr (Or.inl rfl))) | decide +kernel | rfl

end W11

namespace W12

def hb (v : HbmUnit) : State := { allUp with hbm := v }
def H0 : HbmUnit := { allUp.hbm with train := 1 }
def rq (src tag cls a len : Nat) (w : Option (List Byte)) : HbmReq := ⟨src, tag, cls, a, len, w⟩
def aq (s : State) : State := { s with weirs := mapSet (fun _ => Weir.initial) s.weirs 3 { Weir.initial with shadow := [5,6,7] } }
def s12a : State := hb { H0 with waiting := [rq 3 5 2 0x300 64 none, rq 4 5 2 0x340 4 (some [1,2,3,4]), rq 4 6 0 0x380 4 (some [1,2,3,4])] }
def s12b : State := hb { H0 with waiting := [rq 3 5 2 0x300 64 none, rq 4 5 3 0x340 4 (some [1,2,3,4])], lastSrc := [(14, 3)] }
def q12 (l : List PcEntry) : State := aq (hb { H0 with pcs := [(3, { PcUnit.initial with queue := l, owed := 1, rows := [(0, some 0), (3, some 5)] })] })
def e12 (src tag a : Nat) (w : Option (List Byte)) : PcEntry := ⟨rq src tag 2 a 8 w, .ok, [1,2,3,4,5,6,7,8], [], []⟩
def rf (owed lim : Nat) (s : State) : State := fr { s with hbm := { s.hbm with pcs := mapSet (fun _ => PcUnit.initial) s.hbm.pcs 3 { pcAt s 3 with owed := owed } } } .hbm Off.HBM_CFG (BitVec.ofNat 32 (lim + 256*2 + 95*65536))
def mm (s : State) : State := { s with mem := [(0x12340,7),(0x12342,9)] }
def cf (v : Nat) (s : State) : State := fr s .hbm Off.HBM_CFG (BitVec.ofNat 32 (8 + 256*8 + v*65536))
def ch12 (v : HbmChan) : State := hb { H0 with chans := [(5, v)], pcs := [(10, { PcUnit.initial with owed := 5, queue := [e12 3 6 0xA00 none] })] }
def fm (i n : Nat) (s : State) : State := rg (rg (rg s .diag Off.DIAG_FMAP_LEN 1000) .diag Off.DIAG_FMAP_IDX (BitVec.ofNat 32 i)) .diag Off.DIAG_FMAP_CNT (BitVec.ofNat 32 n)
def fd (op : Nat) : State := { fm 990 10 (rg allUp .diag Off.DIAG_FMAP_BASE_LO 0x12000) with diag := { allUp.diag with cmd := some (op,0x340,3) }, mem := [(0x12340,7),(0x12342,0x89)] }

/-- States and operands that meet the hypotheses of the clauses of `Obligations.FaultMapCommands`. -/
theorem witness_FaultMapCommands :
  (let s : State := fd 1
   let op : Nat := 1
   let i : Nat := 0x340
   let n : Nat := 3
   pageUp s Page.diag = true ∧ s.diag.cmd = some (op, i, n) ∧ s.ecc = [] ∧ s.hbm.inj = none ∧
   (∀ (k : Nat), k < n → hbmReadOk s (fmapBase s + i + k) 1 = true)) ∧
  (let s : State := fm 990 10 allUp
   let c : Instr := .fmapMask
   let op : Nat := 1
   pageUp s Page.diag = true ∧ (c = Instr.fmapMask ∧ op = 1 ∨ c = Instr.fmapUnmask ∧ op = 2 ∨ c = Instr.fmapClear ∧ op = 3) ∧
   s.diag.cmd = none ∧ regF s Page.diag Off.DIAG_FMAP_IDX 0 30 + regF s Page.diag Off.DIAG_FMAP_CNT 0 17 ≤ fmapLen s) ∧
  (let s : State := fm 990 11 allUp
   let c : Instr := .fmapClear
   let op : Nat := 3
   pageUp s Page.diag = true ∧ (c = Instr.fmapMask ∧ op = 1 ∨ c = Instr.fmapUnmask ∧ op = 2 ∨ c = Instr.fmapClear ∧ op = 3) ∧
   (s.diag.cmd.isSome = true ∨ fmapLen s < regF s Page.diag Off.DIAG_FMAP_IDX 0 30 + regF s Page.diag Off.DIAG_FMAP_CNT 0 17)) := by
  and_intros <;> first | decide +kernel | rfl

/-- States and operands that meet the hypotheses of the clauses of `Obligations.MemoryQueues`. -/
theorem witness_MemoryQueues :
  (let n : Fin 16 := 3
   let s : State := rf 1 4 (q12 [])
   pageUp s Page.hbm = true ∧ s.hbm.sr = false ∧ (pcAt s n.val).owed + 1 ≤ ↑(forceF s Page.hbm Off.HBM_CFG 0 4) ∧
   chanStopped s (n.val / 2) = false ∧ s.hbm.inj = none ∧ refMay s (pcAt s n.val) = true) ∧
  (let s : State := s12a
   pageUp s Page.pcie = true) ∧
  (let s : State := s12a
   hbmLive s = true) ∧
  (let s : State := { s12a with isl := [] }
   hbmLive s = false) ∧
  (let n : Fin 16 := 3
   let s : State := q12 []
   forceF s (Page.hbmpc n) Off.HBMPC_PAGE_CFG 0 2 = 0) ∧
  (let s : State := { s12a with isl := [] }
   bar2Waits s = false ∧ hbmLive s = false) ∧
  (let a : BitVec 35 := 0x12340
   let n : Nat := 4
   let s : State := mm allUp
   bar2Waits s = false ∧ s.ecc = [] ∧ hbmOk s a.toNat n = true) ∧
  (let s : State := s12a
   let r : HbmReq := rq 3 5 2 0x300 64 none
   r ∈ s.hbm.waiting ∧ 1 ≤ r.cls ∧ r.cls ≤ 3 ∧ pageUp s Page.fab = true) ∧
  (let a : BitVec 35 := 0x12340
   let bs : List Byte := [1,2,3]
   let s : State := s12a
   hbmLive s = true ∧ bs ≠ [] ∧ a.toNat % 256 + bs.length ≤ 256 ∧ a.toNat + bs.length ≤ hbmBytes s) ∧
  (let n : Fin 16 := 3
   let s : State := hb { H0 with chanFailed := 2, waiting := [rq 3 5 2 0x300 64 none] }
   let r : HbmReq := rq 3 5 2 0x300 64 none
   arbPick s n.val = some r ∧ hbmOk s r.addr r.len = false) ∧
  (let a : BitVec 35 := 0x12340
   let n : Nat := 4
   let s : State := { mm allUp with ecc := [(0x12340 / 8, 2)] }
   bar2Waits s = false ∧ hbmOk s a.toNat n = true ∧ n ≠ 0 ∧ memPoison s a.toNat n = true) ∧
  (let n : Fin 16 := 3
   let s : State := s12b
   let r : HbmReq := rq 3 5 2 0x300 64 none
   s.ecc = [] ∧ s.hbm.inj = none ∧ arbPick s n.val = some r ∧ r.src ≠ srcBar2 ∧ hbmOk s r.addr r.len = true ∧ r.write = none) ∧
  (let n : Fin 16 := 3
   let s : State := s12a
   let r : HbmReq := rq 4 6 0 0x380 4 (some [1,2,3,4])
   s.ecc = [] ∧ s.hbm.inj = none ∧ arbPick s n.val = some r ∧ r.src ≠ srcBar2 ∧ hbmOk s r.addr r.len = true ∧
   (∃ q, q ∈ s.hbm.waiting ∧ hbmPc q.addr = n.val ∧ q.cls = 0)) ∧
  (let n : Fin 16 := 3
   let s : State := aq s12a
   let r : HbmReq := rq 4 6 0 0x380 4 (some [1,2,3,4])
   let bs : List Byte := [1,2,3,4]
   s.ecc = [] ∧ s.hbm.inj = none ∧ arbPick s n.val = some r ∧ r.src ≠ srcBar2 ∧ hbmOk s r.addr r.len = true ∧ r.write = some bs ∧
   bs.length = r.len) ∧
  (let n : Fin 16 := 3
   let s : State := rf 4 4 (q12 [])
   pageUp s Page.hbm = true ∧ s.hbm.sr = false ∧ ↑(forceF s Page.hbm Off.HBM_CFG 0 4) < (pcAt s n.val).owed + 1 ∧
   chanStopped s (n.val / 2) = false ∧ s.hbm.inj = none ∧ refMay s (pcAt s n.val) = true) ∧
  (let n : Fin 16 := 3
   let s : State := q12 [e12 3 6 0x300 none]
   let e : PcEntry := e12 3 6 0x300 none
   let rest : List PcEntry := []
   s.hbm.inj = none ∧ hbmLive s = true ∧ chanStopped s (n.val / 2) = false ∧ (pcAt s n.val).queue = e :: rest ∧ e.req.write = none ∧
   e.req.src < srcBar2 ∧ e.errs = [] ∧ (weirAt s e.req.src).shadow.contains e.req.tag = true ∧ (weirAt s e.req.src).orphans = [] ∧
   (∀ (x : Nat × ReplyStatus × List Byte), x ∈ (weirAt s e.req.src).due ++ (weirAt s e.req.src).replies → x.fst ≠ e.req.tag)) := by
  and_intros <;> first | decide +kernel | rfl

/-- States and operands that meet the hypotheses of the clauses of `Obligations.MemoryUpkeep`. -/
theorem witness_MemoryUpkeep :
  (let c : Fin 8 := 5
   let s : State := ch12 { HbmChan.initial with retrain := true, repeats := 4 }
   (chanAt s c.val).retrain = true ∧ pageUp s Page.hbm = true) ∧
  (let s : State := rg allUp .hbm Off.HBM_INJ_ADDR_LO 0x12345678
   pageUp s Page.hbm = true) ∧
  (let s : State := rg (rg allUp .hbm Off.HBM_INJ_ADDR_LO 0x1234567F) .hbm Off.HBM_INJ_ADDR_HI 0x5
   let k : Fin 4 := 2
   pageUp s Page.hbm = true ∧ k.val ≠ 0) ∧
  (let c : Instr := .hbmTempSample none
   let s : State := hb H0
   (c = Instr.hbmTempSample none ∨ c = Instr.hbmTempSampleTimeout) ∧ pageUp s Page.hbm = true ∧ s.hbm.doubled = false) ∧
  (let c : Fin 8 := 5
   let s : State := ch12 { HbmChan.initial with eddy := [⟨10, some 5, none⟩] }
   hbmLive s = true ∧ s.hbm.chanFailed.testBit c.val = false ∧ (chanAt s c.val).retrain = false) ∧
  (let v : BitVec 8 := 40
   let s : State := cf 85 (hb H0)
   pageUp s Page.hbm = true ∧ s.hbm.doubled = false ∧ v.toInt < ↑s.cpm.policy.hbmTrip ∧ v.toInt < ↑(forceF s Page.hbm Off.HBM_CFG 16 8)) ∧
  (let v : BitVec 8 := 80
   let s : State := cf 75 (hb { H0 with pcs := [(3, { PcUnit.initial with owed := 5 })] })
   pageUp s Page.hbm = true ∧ s.hbm.doubled = false ∧ v.toInt < ↑s.cpm.policy.hbmTrip ∧ ↑(forceF s Page.hbm Off.HBM_CFG 16 8) ≤ v.toInt) ∧
  (let c : Fin 8 := 5
   let s : State := ch12 { HbmChan.initial with replay := true, repeats := 3, eddy := [⟨10, some 5, none⟩] }
   hbmLive s = true ∧ s.hbm.chanFailed.testBit c.val = false ∧ (chanAt s c.val).retrain = false ∧ (chanAt s c.val).replay = true) ∧
  (let c : Fin 8 := 5
   let s : State := ch12 { HbmChan.initial with replay := true, repeats := 3 }
   hbmLive s = true ∧ s.hbm.chanFailed.testBit c.val = false ∧ (chanAt s c.val).retrain = false ∧ (chanAt s c.val).replay = true ∧
   (chanAt s c.val).repeats = 3) ∧
  (let s : State := fr (hb { H0 with scrub := 5 }) .hbm Off.HBM_SCRUB_CFG 77
   s.ecc = [] ∧ s.hbm.inj = none ∧ hbmLive s = true ∧ forceF s Page.hbm Off.HBM_SCRUB_CFG 0 16 ≠ 0 ∧
   chanStopped s (hbmPc (s.hbm.scrub * 256) / 2) = false ∧ (pcAt s (hbmPc (s.hbm.scrub * 256))).queue = [] ∧
   s.hbm.scrub * 256 + 256 < hbmBytes s) ∧
  (let s : State := fr (hb { H0 with scrub := 2^27-1 }) .hbm Off.HBM_SCRUB_CFG 77
   s.ecc = [] ∧ s.hbm.inj = none ∧ hbmLive s = true ∧ forceF s Page.hbm Off.HBM_SCRUB_CFG 0 16 ≠ 0 ∧
   chanStopped s (hbmPc (s.hbm.scrub * 256) / 2) = false ∧ (pcAt s (hbmPc (s.hbm.scrub * 256))).queue = [] ∧
   hbmBytes s ≤ s.hbm.scrub * 256 + 256) ∧
  (let v : BitVec 8 := 40
   let s : State := cf (85+256*75) (hb { H0 with doubled := true, pcs := [(3, { PcUnit.initial with owed := 5 }),(7, { PcUnit.initial with owed := -3 })] })
   pageUp s Page.hbm = true ∧ s.hbm.doubled = true ∧ v.toInt < ↑s.cpm.policy.hbmTrip ∧ v.toInt < ↑(forceF s Page.hbm Off.HBM_CFG 16 8) ∧
   v.toInt < ↑(forceF s Page.hbm Off.HBM_CFG 24 8)) := by
  and_intros <;> first | decide +kernel | rfl

end W12

namespace W13

def bt13 (s : State) : State := rg (rg s .layr Off.LAYR_BUF_TBL_BASE_LO 0x100000) .layr Off.LAYR_BUF_TBL_BASE_HI 0x80000000
def db13 (v : Buf) : State := bt13 (rg (setBuf { allUp with host := { allUp.host with bells := [(5,77),(6,3)] } } 9 v) .pcie (Off.PCIE_DB_BUF + 40) 9)
def dq (c : Nat) (d : List Word) (s : State) : State :=
  let w (off : Nat) (v : Word) (s : State) := rg s .pcie (off + 32 * c) v
  { w Off.PCIE_DMA_CTRL 1 (w Off.PCIE_DMA_QB_LO 0x10000 (w Off.PCIE_DMA_QB_HI 0x80000000 (w Off.PCIE_DMA_QSIZE 8 (w Off.PCIE_DMA_QHEAD 7 (w Off.PCIE_DMA_QTAIL 2 s))))) with mem := cellsPut s.mem (0x10000 + 64*7) (bytesOfWords d) }
def d13 (op : Word) : List Word := [op, 9, 0, 1, 0x5000, 0, 100, 64, 0, 0, 0, 0, 5, 0, 0, 8]
def fb13 (s : State) : State := let s := bt13 s; { s with mem := cellsPut s.mem (0x100000 + 32*9) (bytesOfWords [0, 0, 0x200000, 0, 256, 0, 0, 0]) }
def J13 : DmaJob := { desc := d13 0, index := 7, got := 40, image := [], buf := none, dead := none, asked := 100, reads := [] }
def jq (j : DmaJob) : State := setDma (dq 2 (d13 0) allUp) 2 (some j)
def dr (d : Nat) (v : Drive) (s : State) : State := setDrvState s d v
def R : Drive := { Drive.initial with st := 2, speed := 4, width := 4, lbaLog2 := 12, cap := 2^20, most := 2^19 }
def C13 : NvmeCmd := ⟨32, 0, 0, 0x9000, 4096, false, false, 77, 1⟩
def Q13 : NvmeReq := ⟨0, 1, [], 2, 0, 0⟩
def rq13 : State := let s := setCmd (dr 1 R allUp) 300 (some C13); { s with store := { s.store with req := some Q13 }, mem := [(0x9001, 5), (0x9005, 6)] }
def cl13 : List Word := [0x100 + 3 + 16*2, 0x1000, 0, 9999999, 0, 0, 0, 0]
def clp (s : State) : State := let s := rg (rg (rg s .nvme Off.NVME_CLIP_BASE_LO 0x20000) .nvme Off.NVME_CLIP_BASE_HI 0x80000000) .nvme Off.NVME_CLIP_CNT 5; { rg s .nvme Off.NVME_CTRL 3 with mem := cellsPut s.mem (0x20000 + 96) (bytesOfWords cl13) }
def sc13 (cfg seek : Word) : State := rg (rg (rg (clp (dr 0 R (dr 1 R allUp))) .nvme (Off.NVME_STR_CFG + 64*7) cfg) .nvme (Off.NVME_STR_SEEK_LO + 64*7) seek) .nvme (Off.NVME_STR_STAGE_LO + 64*7) 0x40000
def run13 (cfg : Word) : State := outOf (exec (.strStart 7) (sc13 cfg 0))
 where outOf : Host.Outcome State Fault Refusal → State
  | .next t => t
  | _ => State.reset
def pr13 : State := let s := run13 0x01040003; setStr s 7 { strAt s 7 with chunks := match (strAt s 7).chunks with | x :: r => { x with prom := true } :: r | [] => [], proms := 1 }
def K13 : NvmeCmd := { C13 with who := 33, addr := 4000, bytes := 4096, write := true, lba := 77 }
def Q13c : Ckpt := ⟨true, [1, 500, 3], 1, [], 1, false⟩
def ck13 : State := let s := setCmd (dr 1 R allUp) 300 (some K13); { s with trim := { s.trim with ckpt := some Q13c } }

/-- States and operands that meet the hypotheses of the clauses of `Obligations.HostPort`. -/
theorem witness_HostPort :
  (let s : State := allUp
   pageUp s Page.pcie = true) ∧
  (let s : State := allUp
   islandUp s islHost = true) ∧
  (let s : State := allUp
   islandUp s islHost = true) ∧
  (let s : State := allUp
   pageUp s Page.pcie = true) ∧
  (let c : Fin 4 := 2
   let s : State := dq 2 (d13 3) allUp
   (dmaMayStart s c.val fun o => decide (o = 3)) = true) ∧
  (let s : State := rg allUp .pcie (Off.PCIE_DMA_QHEAD + 64) 7
   pageUp s Page.pcie = true) ∧
  (let c : Fin 4 := 2
   let s : State := jq { J13 with desc := d13 1 }
   let j : DmaJob := { J13 with desc := d13 1 }
   s.ecc = [] ∧ s.hbm.inj = none ∧ pageUp s Page.pcie = true ∧ dmaRun s c.val = some j ∧ j.dead = none ∧ djOp j = 1 ∧
   hbmReadOk s (djHbm j) (djLen j) = true) ∧
  (let c : Fin 4 := 2
   let s : State := jq J13
   let j : DmaJob := J13
   let bs : List Byte := [3,4,5]
   s.ecc = [] ∧ s.hbm.inj = none ∧ pageUp s Page.pcie = true ∧ dmaRun s c.val = some j ∧ j.dead = none ∧ djOp j = 0 ∧ j.index < 256 ∧
   j.got + bs.length ≤ j.asked ∧ hbmOk s (djHbm j + j.got) bs.length = true) ∧
  (let i : Instr := .dmaToHbm 2
   let c : Fin 4 := 2
   let op : Nat := 0
   let s : State := dq 2 (d13 0) allUp
   s.ecc = [] ∧ (i = Instr.dmaToHbm c ∧ op = 0 ∨ i = Instr.dmaFromHbm c ∧ op = 1) ∧ (dmaMayStart s c.val fun o => decide (o = op)) = true ∧
   dmaDescOk s c.val = true ∧ dmaDescBad s (dmaFresh s c.val) = false) ∧
  (let i : Instr := .dmaFromHbm 2
   let c : Fin 4 := 2
   let op : Nat := 1
   let s : State := dq 2 (d13 0x11) allUp
   s.ecc = [] ∧ (i = Instr.dmaToHbm c ∧ op = 0 ∨ i = Instr.dmaFromHbm c ∧ op = 1) ∧ (dmaMayStart s c.val fun o => decide (o = op)) = true ∧
   dmaDescOk s c.val = true ∧ dmaDescBad s (dmaFresh s c.val) = true) ∧
  (let k : Fin 8 := 5
   let seq : Word := 77
   let s : State := db13 { Buf.initial with st := 2 }
   let rest : List (Nat × Word) := [(6,3)]
   let b : Nat := 9
   pageUp s Page.pcie = true ∧ s.host.bells = (k.val, seq) :: rest ∧ bar2Waits s = false ∧
   regF s Page.pcie (Off.PCIE_DB_BUF + 8 * k.val) 0 14 = b ∧ pageUp s Page.layr = true ∧ hostReadyCode s b ≠ 0) ∧
  (let c : Fin 4 := 2
   let s : State := jq { J13 with desc := d13 2, buf := some 9 }
   let j : DmaJob := { J13 with desc := d13 2, buf := some 9 }
   let bs : List Byte := [3,4,5]
   s.ecc = [] ∧ s.hbm.inj = none ∧ pageUp s Page.pcie = true ∧ dmaRun s c.val = some j ∧ j.dead = none ∧ djOp j = 2 ∧ j.index < 256 ∧
   j.got + bs.length ≤ j.asked) ∧
  (let k : Fin 8 := 5
   let seq : Word := 77
   let s : State := db13 { Buf.initial with st := 1 , ownerClass := 1}
   let rest : List (Nat × Word) := [(6,3)]
   let b : Nat := 9
   pageUp s Page.pcie = true ∧ s.host.bells = (k.val, seq) :: rest ∧ bar2Waits s = false ∧
   regF s Page.pcie (Off.PCIE_DB_BUF + 8 * k.val) 0 14 = b ∧ pageUp s Page.layr = true ∧ hostReadyCode s b = 0) ∧
  (let c : Fin 4 := 2
   let s : State := fb13 (dq 2 (d13 2) allUp)
   s.ecc = [] ∧ (dmaMayStart s c.val fun o => decide (o = 2)) = true ∧ dmaDescOk s c.val = true ∧ dmaDescBad s (dmaFresh s c.val) = false ∧
   pageUp s Page.layr = true ∧ ownedBy s (djBuf (dmaFresh s c.val)) ownPcie c.val = false ∧ claimCode s (djBuf (dmaFresh s c.val)) = 0 ∧
   (surfOf (bufEntry s (djBuf (dmaFresh s c.val)))).st < 4 ∧
   (surfOf (bufEntry s (djBuf (dmaFresh s c.val)))).w * fmtBytes (surfOf (bufEntry s (djBuf (dmaFresh s c.val)))).fmt ≤ djPitch (dmaFresh s c.val)) ∧
  (let c : Fin 4 := 2
   let s : State := jq J13
   let j : DmaJob := J13
   let i : Instr := .dmaAbort 2
   let status : Nat := 5
   s.ecc = [] ∧ s.hbm.inj = none ∧ pageUp s Page.pcie = true ∧ dmaRun s c.val = some j ∧ j.buf = none ∧
   (i = Instr.dmaJobEnd c ∧ j.dead = some status ∨ i = Instr.dmaJobEnd c ∧ j.dead = none ∧ djOp j = 0 ∧ djLen j ≤ j.got ∧ status = 0 ∨ i = Instr.cplTimeout c ∧ j.dead = none ∧ djOp j = 0 ∧ status = 3 ∨ i = Instr.dmaCompletionRx c (Fin.ofNat 256 j.index) none ∧ j.index < 256 ∧ j.dead = none ∧ djOp j = 0 ∧ status = 3 ∨ i = Instr.dmaAbort c ∧ status = 5) ∧
   status < 256 ∧ 0 < dmaSize s c.val ∧ dmaSize s c.val ≤ 256) := by
  and_intros <;> first | decide +kernel | rfl

/-- States and operands that meet the hypotheses of the clauses of `Obligations.SceneStore`. -/
theorem witness_SceneStore :
  (let s : State := run13 0x01040003
   pageUp s Page.nvme = true) ∧
  (let d : Fin 4 := 1
   let s : State := dr 2 R (dr 1 R allUp)
   pageUp s Page.nvme = true ∧ (drvAt s d.val).st ≠ 0 ∧ s.store.cmds = [] ∧ s.store.streams = [] ∧ s.store.req = none) ∧
  (let s : State := dr 2 R (dr 1 R (rg allUp .nvme Off.NVME_CTRL 6))
   pageUp s Page.nvme = true ∧ s.store.cmds = [] ∧ s.store.streams = [] ∧ s.store.req = none) ∧
  (let d : Fin 4 := 1
   let s : State := dr 1 { Drive.initial with st := 1 } allUp
   pageUp s Page.nvme = true ∧ (drvAt s d.val).st = 1) ∧
  (let q : NvmeReq := ⟨0,1,[],0,3,77⟩
   let s : State := { allUp with store := { allUp.store with req := some ⟨0,1,[],0,3,77⟩ } }
   pageUp s Page.nvme = true ∧ s.store.req = some q ∧ q.todo = [] ∧ q.out = 0) ∧
  (let d : Fin 4 := 1
   let s : State := dr 1 { Drive.initial with st := 1 } allUp
   let lba : Fin 64 := 9
   let mqes : BitVec 16 := 256
   pageUp s Page.nvme = true ∧ (drvAt s d.val).st = 1 ∧ (lba.val = 9 ∨ lba.val = 12) ∧ 256 ≤ mqes.toNat) ∧
  (let k : Fin 32 := 7
   let c : Instr := .strSeek 7
   let s : State := sc13 0 0
   pageUp s Page.nvme = true ∧ islandRuns s islHost = true ∧ hlpRun s 16 = true ∧ s.store.streams = [] ∧ s.store.cmds = [] ∧
   s.store.req = none ∧ (c = Instr.strStart k ∨ c = Instr.strSeek k) ∧ strClipFor s k.val = none) ∧
  (let d : Fin 4 := 1
   let tag : Fin 256 := 44
   let c : NvmeCmd := K13
   let q : Ckpt := Q13c
   let s : State := ck13
   cmdAt s (d.val * 256 + tag.val) = some c ∧ c.who = 33 ∧ s.trim.ckpt = some q ∧ q.todo = [] ∧ s.store.streams = [] ∧ s.store.req = none ∧
   c.write = true ∧ ckptReadOk s q.hdr c.addr c.bytes = true) ∧
  (let k : Fin 32 := 7
   let s : State := pr13
   let x : StrChunk := (strAt pr13 7).chunks.headD ⟨0,0,0,[],0,false⟩
   let rest : List StrChunk := (strAt pr13 7).chunks.drop 1
   pageUp s Page.nvme = true ∧ (strAt s k.val).chunks = x :: rest ∧ x.prom = true ∧ strDecodes (strAt s k.val) = false ∧
   (strAt s k.val).st = 1 ∧ (∃ y, y ∈ rest ∧ y.prom = false)) ∧
  (let d : Fin 4 := 1
   let s : State := { rg allUp .nvme Off.NVME_CTRL 2 with store := { allUp.store with rperst := [0,2,3] } }
   pageUp s Page.nvme = true ∧ hlpRun s 16 = true ∧ bitOf (reg s Page.nvme Off.NVME_CTRL) d.val = true ∧ drvPresent s d.val = true ∧
   (drvAt s d.val).st = 0 ∧ s.store.rperst.contains d.val = false) ∧
  (let d : Fin 4 := 1
   let tag : Fin 256 := 44
   let c : NvmeCmd := C13
   let q : NvmeReq := Q13
   let s : State := rq13
   let field : BitVec 15 := 0x281
   cmdAt s (d.val * 256 + tag.val) = some c ∧ c.who = 32 ∧ c.write = false ∧ s.store.req = some q ∧ q.todo = [] ∧ s.store.streams = [] ∧
   s.trim.ckpt = none ∧ s.ecc = [] ∧ s.hbm.inj = none ∧ field ≠ 0 ∧ q.status = 0) ∧
  (let d : Fin 4 := 1
   let tag : Fin 256 := 44
   let c : NvmeCmd := C13
   let q : NvmeReq := Q13
   let s : State := rq13
   cmdAt s (d.val * 256 + tag.val) = some c ∧ c.who = 32 ∧ c.write = false ∧ s.store.req = some q ∧ q.todo = [] ∧ s.store.streams = [] ∧
   s.trim.ckpt = none ∧ s.ecc = [] ∧ s.hbm.inj = none ∧ q.status = 0 ∧ pageUp s Page.nvme = true ∧ (drvAt s d.val).lastReset = none ∧
   s.store.cmds = [(d.val * 256 + tag.val, some c)]) ∧
  (let d : Fin 4 := 1
   let tag : Fin 256 := 44
   let c : NvmeCmd := C13
   let q : NvmeReq := Q13
   let s : State := rq13
   let data : List Byte := [1,2,3]
   cmdAt s (d.val * 256 + tag.val) = some c ∧ c.who = 32 ∧ c.write = false ∧ s.store.req = some q ∧ q.todo = [] ∧ s.store.streams = [] ∧
   s.trim.ckpt = none ∧ s.ecc = [] ∧ s.hbm.inj = none ∧ c.flush = false ∧ data.length ≤ c.blocks * 2 ^ (drvAt s d.val).lbaLog2 ∧
   hbmOk s c.addr data.length = true) ∧
  (let k : Fin 32 := 7
   let c : Instr := .strSeek 7
   let s : State := sc13 0x01040003 1234
   let clip : Clip := ⟨3,2^18,4096,9999999⟩
   pageUp s Page.nvme = true ∧ islandRuns s islHost = true ∧ hlpRun s 16 = true ∧ s.store.streams = [] ∧ s.store.cmds = [] ∧
   s.store.req = none ∧ (c = Instr.strStart k ∨ c = Instr.strSeek k) ∧ strClipFor s k.val = some clip ∧
   bitOf (strReg s (k.val) Off.NVME_STR_CFG) 12 = false ∧
   BitVec.toNat (strReg s (k.val) Off.NVME_STR_SEEK_LO) + fld (strReg s (k.val) Off.NVME_STR_SEEK_HI) 0 14 * 2 ^ 32 < clip.len) ∧
  (let d : Fin 4 := 1
   let c : Instr := .nvmeReqFlush 1
   let op : Nat := 2
   let s : State := dr 1 R allUp
   pageUp s Page.nvme = true ∧ islandRuns s islHost = true ∧ s.store.req = none ∧ s.store.streams = [] ∧ s.store.cmds = [] ∧
   s.trim.ckpt = none ∧ (c = Instr.nvmeReqRead d ∧ op = 0 ∨ c = Instr.nvmeReqWrite d ∧ op = 1 ∨ c = Instr.nvmeReqFlush d ∧ op = 2) ∧
   (drvAt s d.val).st = 2 ∧
   (op < 2 → regF s Page.nvme Off.NVME_REQ_CNT 0 16 ≠ 0 ∧ BitVec.toNat (reg s Page.nvme Off.NVME_REQ_LBA_LO) + regF s Page.nvme Off.NVME_REQ_LBA_HI 0 16 * 2 ^ 32 + regF s Page.nvme Off.NVME_REQ_CNT 0 16 ≤ (drvAt s d.val).cap ∧ addrPair s Page.nvme Off.NVME_REQ_HBM_LO Off.NVME_REQ_HBM_HI + regF s Page.nvme Off.NVME_REQ_CNT 0 16 * 2 ^ (drvAt s d.val).lbaLog2 ≤ hbmBytes s ∧ addrPair s Page.nvme Off.NVME_REQ_HBM_LO Off.NVME_REQ_HBM_HI % 4 = 0)) := by
  and_intros <;> first | decide +kernel | rfl

end W13

namespace W14

def R14 : State := State.reset
def nv (o : Nat) (r : NvRec) (s : State) : State := nvPut s o r
def img14 : List Byte := [1, 1, 0, 0, 0, 0, 0, 0, 9]
def bt14 : State := nv nvBootA ⟨0x13,1,3,[1]⟩ (nv (nvCp 1) ⟨0x14,1,1,img14⟩ R14)
def mg : State := nv nvSetA ⟨0x10, 0, 3, List.replicate 32 0xFF⟩ { allUp with cpm := { allUp.cpm with migrated := false, settings := [0,0,0,0,0,0xFFFFFFFF,1,0], helpers := [(17, ⟨1,5,true⟩), (18, ⟨1,0,false⟩)] } }
def hu (h : Nat) : State := nv (nvImageBanks 2 (hlpKind h)).1 ⟨0x14,1,1,img14⟩ (setHlp allUp h ⟨4, 3, true⟩)
def hs14 (h : Nat) : State := { setHlp allUp h ⟨4, 3, true⟩ with cpm := { (setHlp allUp h ⟨4, 3, true⟩).cpm with staged := [(2*256 + hlpKind h, some ⟨0x1000, 8, Config.shake256 (imgPayload (memBytes allUp 0x1000 8)) 64, 77⟩)] } }
def cp (v : Cpm) : State := { allUp with cpm := v }
def C14 : Cpm := allUp.cpm
def ho (n src : Nat) : State := nv (nvCp 1) ⟨0x14,1,1,img14⟩ (cp { C14 with ho := n, hoSrc := src, hoVer := 5, hoSvn := 6 })
def au (i : Nat) (st : IslState) (tried : Bool) : State := isl (cp { C14 with auto := some i, autoTried := tried }) (autoOrder.getD i 0) { Island.initial (autoOrder.getD i 0) with st := st, target := none }
def ce (k : Nat) : CampEntry := ⟨[BitVec.ofNat 32 (2+256*k),0,0,0], 0, 0, [], false⟩
def ca (k : Nat) (st : IslState) : State := isl (cp { C14 with camp := 1, entries := [ce k] , staged := [(3*256 + (islKind k).getD 0, some ⟨0x1000, 8, Config.shake256 (imgPayload (memBytes allUp 0x1000 8)) 64, 77⟩)] }) k { Island.initial k with st := st, target := none }
def sens (v : Nat) : List (Option (BitVec 16)) := (List.range 24).map (fun k => if k = 3 then some (BitVec.ofNat 16 v) else some 500)
def th (v : Therm) : State := { allUp with therm := v }
def T14 : Therm := allUp.therm
def ccfg (s : State) : State := fr s .cal Off.CAL_CAL_CFG 0x01000005
def cd : State := { allUp with cal := { allUp.cal with busy := true, due := [3,5], lines := [(3,⟨7,true,9⟩)] } }

/-- States and operands that meet the hypotheses of the clauses of `Obligations.FirmwareStart`. -/
theorem witness_FirmwareStart :
  (let s : State := mg
   s.cpm.up = true ∧ s.cpm.migrated = false ∧ s.cpm.req = none ∧ s.cpm.late = none) ∧
  (let key : BitVec 16 := 0x5AFD
   let s : State := allUp
   pageUp s Page.pcie = true ∧ (key ≠ 23294 ∨ s.recov.st = 2 ∨ s.recov.st = 4)) ∧
  (let s : State := { allUp with recov := ⟨1,[(0,1)],false⟩ }
   pageUp s Page.pcie = true ∧ (s.recov.st = 1 ∨ s.recov.st = 3)) ∧
  (let key : BitVec 16 := 0x5AFE
   let s : State := allUp
   pageUp s Page.pcie = true ∧ key = 23294 ∧ (s.recov.st = 0 ∨ s.recov.st = 1 ∨ s.recov.st = 3)) ∧
  (let s : State := R14
   s.pins.strapped = false ∧ s.pins.porst = true ∧ s.pins.tripped = false ∧ (island s 1).st = IslState.reset ∧
   nvBest s nvBootA nvBootB 19 = none) ∧
  (let s : State := rg { allUp with recov := ⟨2,[(0,1),(6,7)],false⟩ } .pcie Off.PCIE_REC_LEN 4
   let img : List Byte := [1,0,0,0]
   s.recov.st = 2 ∧ pageUp s Page.pcie = true ∧ recImage s = some img) ∧
  (let s : State := rg (rg { allUp with recov := ⟨2,[(0,1),(6,7)],true⟩ } .pcie Off.PCIE_REC_LEN 4) .pcie Off.PCIE_REC_SRC_HI 7
   s.recov.st = 2 ∧ pageUp s Page.pcie = true ∧ recImage s = none) ∧
  (let img : List Byte := [1,0,0,0]
   let s : State := rg { State.reset with recov := ⟨4,[(0,1),(6,7)],false⟩ } .pcie Off.PCIE_REC_LEN 4
   s.recov.st = 4 ∧ (island s 1).st = IslState.reset ∧ recImage s = some img) ∧
  (let s : State := rg { allUp with recov := ⟨1,[(0,1),(6,7)],false⟩ } .pcie Off.PCIE_REC_LEN 4
   pageUp s Page.pcie = true ∧ s.recov.st = 1 ∧ regF s Page.pcie Off.PCIE_REC_LEN 0 23 + 4 ≤ 2 ^ 21 + 4096) ∧
  (let s : State := bt14
   let b : NvRec := ⟨0x13,1,3,[1]⟩
   let r : NvRec := ⟨0x14,1,1,img14⟩
   s.pins.strapped = false ∧ s.pins.porst = true ∧ s.pins.tripped = false ∧ (island s 1).st = IslState.reset ∧
   nvBest s nvBootA nvBootB 19 = some b ∧ nvGet s (nvCp (leAt b.payload 0 1 % 2)) 20 = some r) := by
  and_intros <;> first | decide +kernel | rfl

/-- States and operands that meet the hypotheses of the clauses of `Obligations.HelpersAndSequences`. -/
theorem witness_HelpersAndSequences :
  (let s : State := ho 2 1
   s.cpm.ho = 2 ∧ pageUp s Page.cpm = true) ∧
  (let s : State := nv (nvLog 5) ⟨0x12,1,5,[]⟩ allUp
   s.cpm.up = true ∧ pageUp s Page.cpm = true) ∧
  (let s : State := ho 4 1
   s.cpm.ho = 4 ∧ pageUp s Page.cpm = true) ∧
  (let s : State := ho 3 1
   s.cpm.ho = 3 ∧ s.cpm.req = none ∧ s.cpm.late = none) ∧
  (let h : Fin 23 := 0
   let s : State := allUp
   hlpRun s h.val = true ∧ pageUp s Page.cpm = true) ∧
  (let h : Fin 23 := 5
   let s : State := hs14 5
   (hlpAt s h.val).st = 4 ∧ s.cpm.entries = [] ∧ s.cpm.rspHelper = none) ∧
  (let img : List Byte := img14
   let s : State := ho 1 1
   s.cpm.ho = 1 ∧ hoImage s = some img ∧ pageUp s Page.cpm = true) ∧
  (let s : State := cp { C14 with ho := 4, switched := true }
   s.cpm.up = true ∧ s.cpm.switched = true ∧ s.cpm.ho ≠ 3 ∧ islandUp s 1 = true) ∧
  (let h : Fin 23 := 5
   let s : State := hu 5
   let img : Word × Bool := (imgVersion img14, imgWhole img14)
   (hlpAt s h.val).st = 4 ∧ s.cpm.entries = [] ∧ s.cpm.rspHelper = none ∧ hlpImage s h.val = some img) ∧
  (let e : CampEntry := ce 7
   let k : Nat := 7
   let s : State := ca 7 .run
   s.cpm.camp = 1 ∧ 0 ≤ sinceTime s s.cpm.campSec s.cpm.campNs ∧ s.cpm.entries = [e] ∧ e.st = 0 ∧ e.going = false ∧
   fld (e.words.getD 0 0) 0 2 = 2 ∧ k = fld (e.words.getD 0 0) 8 6 ∧ (island s k).st ≠ IslState.idle ∧ pageUp s Page.cpm = true) ∧
  (let i : Nat := 3
   let k : Nat := autoOrder.getD 3 0
   let s : State := au 3 .reset false
   s.cpm.auto = some i ∧ i < autoOrder.length ∧ k = autoOrder.getD i 0 ∧ s.cpm.up = true ∧ s.cpm.migrated = true ∧ s.pins.tripped = false ∧
   islandPresent s.part k = true ∧ (island s k).target = none ∧ (island s k).st = IslState.reset) ∧
  (let i : Nat := 3
   let k : Nat := autoOrder.getD 3 0
   let s : State := au 3 .idle true
   s.cpm.auto = some i ∧ i < autoOrder.length ∧ k = autoOrder.getD i 0 ∧ s.cpm.up = true ∧ s.cpm.migrated = true ∧ s.pins.tripped = false ∧
   islandPresent s.part k = true ∧ (island s k).target = none ∧ (island s k).st = IslState.idle ∧
   (s.cpm.autoTried = true ∨ islImage s k = none)) ∧
  (let e : CampEntry := ce 7
   let k : Nat := 7
   let s : State := ca 7 .idle
   s.cpm.camp = 1 ∧ 0 ≤ sinceTime s s.cpm.campSec s.cpm.campNs ∧ s.cpm.entries = [e] ∧ e.st = 0 ∧ e.going = false ∧
   fld (e.words.getD 0 0) 0 2 = 2 ∧ k = fld (e.words.getD 0 0) 8 6 ∧ (island s k).st = IslState.idle ∧ (island s k).target = none ∧
   islandPresent s.part k = true ∧ islFixed s k = false ∧ hlpRun s 21 = true ∧ (islImage s k).isSome = true ∧ k < 44) := by
  and_intros <;> first | decide +kernel | rfl

/-- States and operands that meet the hypotheses of the clauses of `Obligations.ThermalAndCalibration`. -/
theorem witness_ThermalAndCalibration :
  (let k : Fin 43 := 5
   let sum : Nat := 640
   let s : State := cd
   pageUp s Page.cal = true ∧ s.cal.due.contains k.val = true ∧ hlpRun s 19 = true ∧ calScale sum ≠ 0 ∧ calQuiet s k.val = true) ∧
  (let s : State := { allUp with cal := { allUp.cal with saveBusy := true, lines := [(3,⟨7,true,9⟩)] } }
   pageUp s Page.cal = true ∧ s.cal.saveBusy = true ∧ pageUp s Page.cpm = true) ∧
  (let s : State := allUp
   hlpRun s 20 = true) ∧
  (let s : State := allUp
   pageUp s Page.cal = true ∧ hlpRun s 19 = true) ∧
  (let rs : List (Option (BitVec 16)) := sens 400
   let i : Nat := 3
   let s : State := allUp
   let x : BitVec 16 := 400
   i ∈ dieSensors s ∧ rs.getD i none = some x ∧ -320 ≤ x.toInt ∧ x.toInt ≤ 1200) ∧
  (let c : Instr := .calRun
   let s : State := ccfg allUp
   (c = Instr.calPeriodTimer ∨ c = Instr.calRun) ∧ pageUp s Page.cal = true ∧ hlpRun s 19 = true ∧
   bitOf (force s Page.cal Off.CAL_CAL_CFG) 24 = true) ∧
  (let s : State := { allUp with cal := { allUp.cal with busy := true, saveWait := true, lines := [(3,⟨7,true,9⟩)] } }
   pageUp s Page.cal = true ∧ hlpRun s 19 = true ∧ s.cal.busy = true ∧ s.calDone = true ∧ s.cal.again = false) ∧
  (let rs : List (Option (BitVec 16)) := (sens 400).set 3 none
   let i : Nat := 3
   let s : State := th { T14 with sens := [(3,⟨5,true,false⟩)] }
   i ∈ dieSensors s ∧ (rs.getD i none = none ∨ ∃ x, rs.getD i none = some x ∧ (x.toInt < -320 ∨ 1200 < x.toInt))) ∧
  (let k : Fin 43 := 13
   let s : State := { cd with cal := { cd.cal with due := [13] }, slots := [(40, { Slot.initial with armed := true, action := 1, target := 2 })] }
   pageUp s Page.cal = true ∧ s.cal.due.contains k.val = true ∧ calQuiet s k.val = false) := by
  and_intros <;> first | decide +kernel | rfl

end W14

namespace W15

def cp15 (v : Cpm) : State := { allUp with cpm := v }
def C15 : Cpm := allUp.cpm
def nr15 : State := cp15 { C15 with migrated := false, busy := false, rsp := some [1] }
def m15 : State := { cp15 { C15 with settings := [1,2,3,4,5,6,7,8], entries := [⟨[0,1,2,3],1,0,[],false⟩, ⟨[0,1,2,3],2,5,[],true⟩, ⟨[0,1,2,3],0,0,[],true⟩] } with last := { allUp.last with hotMs := 0x123456789A, cycles := 7, porsts := 9, onEdges := 2^60 } }
def s15 (h : Nat) : State := cp15 { C15 with staged := [(2*256 + hlpKind h, some ⟨0x1000, 8, Config.shake256 (imgPayload (memBytes allUp 0x1000 8)) 64, 77⟩)] }
def cm15 : State := { m15 with mem := cellsPut [] 0x2000 (bytesOfWords [0,3,0x00050007,0, 0x702,0,0,0, 1,5,6,7]) }
def im15 : List Byte := [1, 3, 0, 0, 2, 0, 0, 0, 9]
def mi : State := { m15 with mem := cellsPut [] 0x3000 im15 }
def g15 (d : List Byte) : Staged := ⟨0x3000, 9, d, 9⟩
def gs (d : List Byte) (s : State) : State := { s with cpm := { s.cpm with staged := [(3*256+2, some (g15 d))] } }
def bl (kind : Nat) (body : List Nat) : List Byte :=
  let f (k : Nat) (v : Nat) : List Byte := leBytes k v
  let d := nonceWord mi 0
  [1, BitVec.ofNat 8 kind, 0, 0] ++ f 4 body.length ++ f 8 Config.deviceId.toNat ++ (List.range 4).flatMap (fun k => f 4 (nonceWord mi k).toNat) ++ List.replicate 57 0 ++ List.replicate 7 0 ++ body.map (BitVec.ofNat 8) ++ List.replicate 114 (if d = 0 then 0 else 0)
def mb (kind : Nat) (body : List Nat) : State := { mi with mem := cellsPut [] 0x5000 (bl kind body) }
def ln (body : List Nat) : Word := BitVec.ofNat 32 (0x60 + body.length + 114)

theorem rings15_ok : ∀ r : Word, r ∈ List.take 16 (([0x050301, 0, 0x050301] : List Word) ++ List.replicate 16 0) →
    fld r 1 7 = 0 ∧ fld r 24 8 = 0 ∧ (bitOf r 0 = true → fld r 8 8 ≤ fld r 16 8 ∧ fld r 16 8 < 192) := by
  intro r hr
  have h : (List.take 16 (([0x050301, 0, 0x050301] : List Word) ++ List.replicate 16 0)).all
      (fun r => decide (fld r 1 7 = 0 ∧ fld r 24 8 = 0 ∧ (bitOf r 0 = true → fld r 8 8 ≤ fld r 16 8 ∧ fld r 16 8 < 192))) = true := by
    decide +kernel
  exact of_decide_eq_true (List.all_eq_true.mp h r hr)

/-- States and operands that meet the hypotheses of the clauses of `Obligations.Mailbox`. -/
theorem witness_Mailbox :
  (let s : State := m15
   pageUp s Page.cpm = true ∧ s.cpm.busy = false ∧ cpReady s = true ∧ s.cpm.ho = 0) ∧
  (let s : State := s15 5
   let h : Fin 32 := 5
   pageUp s Page.cpm = true ∧ s.cpm.busy = false ∧ cpReady s = true ∧ hlpMayUpdate s h.val = true) ∧
  (let s : State := cp15 { C15 with busy := true, tag := 7, rspHelper := some 3 }
   pageUp s Page.cpm = true ∧ s.cpm.busy = true ∧ s.cpm.rsp = none) ∧
  (let ws : List Word := [0x7000100,2,3]
   let s : State := cp15 { C15 with busy := true, rsp := some [0x7000100,2,3] }
   pageUp s Page.cpm = true ∧ s.cpm.rsp = some ws ∧ ws.length ≤ 64) ∧
  (let s : State := m15
   let p : List Word := [2]
   pageUp s Page.cpm = true ∧ s.cpm.busy = false ∧ cpReady s = true ∧ settingsOk (List.take 8 (p ++ List.replicate 8 0)) = false) ∧
  (let s : State := { m15 with cpm := { m15.cpm with camp := 1 } }
   pageUp s Page.cpm = true ∧ s.cpm.busy = false ∧ cpReady s = true ∧ (s.cpm.camp = 1 ∨ s.cpm.camp = 2)) ∧
  (let s : State := m15
   let p : List Word := [1,2,1,16,5,6,0]
   pageUp s Page.cpm = true ∧ s.cpm.busy = false ∧ cpReady s = true ∧ settingsOk (List.take 8 (p ++ List.replicate 8 0)) = true) ∧
  (let s : State := cm15
   let a : BitVec 35 := 0x2000
   let n : Word := 3
   let ns : Word := 999999999
   pageUp s Page.cpm = true ∧ s.cpm.busy = false ∧ cpReady s = true ∧ s.ecc = [] ∧ n ≠ 0 ∧ BitVec.toNat n ≤ 32 ∧
   BitVec.toNat ns ≤ 999999999 ∧ s.cpm.camp ≠ 1 ∧ s.cpm.camp ≠ 2 ∧ mbHbm s = true ∧ hbmReadOk s a.toNat (16 * BitVec.toNat n) = true) ∧
  (let c : Instr := .getInfo 7
   let op : Nat := 1
   let tag : BitVec 8 := 7
   let s : State := nr15
   pageUp s Page.cpm = true ∧
   (c = Instr.getInfo tag ∧ op = 1 ∨ c = Instr.settingsRead tag ∧ op = 32 ∨ c = Instr.lifetimeRead tag ∧ op = 49 ∨ c = Instr.campaignStatus tag ∧ op = 65 ∨ c = Instr.campaignCancel tag ∧ op = 66) ∧
   s.cpm.busy = false ∧ cpReady s = false) ∧
  (let c : Instr := .getInfo 7
   let op : Nat := 1
   let tag : BitVec 8 := 7
   let s : State := cp15 { C15 with busy := true }
   pageUp s Page.cpm = true ∧
   (c = Instr.getInfo tag ∧ op = 1 ∨ c = Instr.settingsRead tag ∧ op = 32 ∨ c = Instr.lifetimeRead tag ∧ op = 49 ∨ c = Instr.campaignStatus tag ∧ op = 65 ∨ c = Instr.campaignCancel tag ∧ op = 66) ∧
   s.cpm.busy = true) ∧
  (let tag : BitVec 8 := 7
   let s : State := m15
   let c : Instr := .settingsRead 7
   let ws : List Word := [1,2,3,4,5,6,7,8]
   pageUp s Page.cpm = true ∧ s.cpm.busy = false ∧ cpReady s = true ∧
   (c = Instr.getInfo tag ∧ ws = [s.cpm.ver, word (settingsVersion + b2n s.cpm.newer * 2 ^ 16), word s.cpm.svn, BitVec.setWidth 32 Config.deviceId, BitVec.setWidth 32 (Config.deviceId >>> 32)] ∨ c = Instr.settingsRead tag ∧ ws = s.cpm.settings ∨ c = Instr.lifetimeRead tag ∧ ws = [word (onSeconds s), word (onSeconds s / 2 ^ 32), word s.last.hotMs, word (s.last.hotMs / 2 ^ 32), word s.last.cycles, word s.last.porsts] ∨ c = Instr.campaignStatus tag ∧ ws = List.map (fun i => (Option.map campWord s.cpm.entries[i]?).getD 0) (List.range 32))) := by
  and_intros <;> first | exact rings15_ok | decide +kernel | rfl

/-- States and operands that meet the hypotheses of the clauses of `Obligations.MailboxImages`. -/
theorem witness_MailboxImages :
  (let s : State := mi
   let a : BitVec 35 := 0x7000
   pageUp s Page.cpm = true ∧ s.cpm.busy = false ∧ cpReady s = true ∧ mbHbm s = true ∧ s.ecc = [] ∧ s.hbm.inj = none ∧ a.toNat % 64 = 0 ∧
   hbmOk s a.toNat 640 = true) ∧
  (let s : State := gs [7] mi
   let cls : Fin 16 := 3
   let target : BitVec 8 := 2
   pageUp s Page.cpm = true ∧ s.cpm.busy = false ∧ cpReady s = true ∧ mbHbm s = true ∧ s.ecc = [] ∧ s.hbm.inj = none ∧
   (1 ≤ cls.val ∧ cls.val ≤ 3) ∧ imgTargetOk (cls.val) target.toNat = true) ∧
  (let s : State := mi
   let a : BitVec 35 := 0x3000
   let n : Word := 9
   pageUp s Page.cpm = true ∧ s.cpm.busy = false ∧ cpReady s = true ∧ mbHbm s = true ∧ s.ecc = [] ∧ s.hbm.inj = none ∧
   BitVec.toNat n ≤ 2 ^ 21 + 4096 ∧ hbmReadOk s a.toNat (BitVec.toNat n) = true) ∧
  (let s : State := mi
   let words : List Word := (List.range 32).map (fun k => BitVec.ofNat 32 (if k % 2 = 1 then k else k * 0x1234567))
   pageUp s Page.cpm = true ∧ s.cpm.busy = false ∧ cpReady s = true ∧ mbHbm s = true ∧ s.ecc = [] ∧ s.hbm.inj = none ∧ words.length = 32 ∧
   (∀ (k : Nat), k < 16 → fld (words.getD (2 * k + 1) 0) 16 16 = 0)) ∧
  (let s : State := mi
   let a : BitVec 35 := 0x3000
   let first : Word := 10
   let lamps : Word := 8
   pageUp s Page.cpm = true ∧ s.cpm.busy = false ∧ cpReady s = true ∧ mbHbm s = true ∧ s.ecc = [] ∧ s.hbm.inj = none ∧
   BitVec.toNat first % 2 = 0 ∧ BitVec.toNat lamps % 2 = 0 ∧ BitVec.toNat first + BitVec.toNat lamps ≤ 2097152 ∧
   hbmReadOk s a.toNat (BitVec.toNat lamps / 2) = true) ∧
  (let s : State := gs [] mi
   let cls : Fin 16 := 3
   let target : BitVec 8 := 2
   let g : Staged := g15 []
   pageUp s Page.cpm = true ∧ s.cpm.busy = false ∧ cpReady s = true ∧ mbHbm s = true ∧ s.ecc = [] ∧ s.hbm.inj = none ∧
   (cls.val = 2 ∨ cls.val = 3) ∧ imgTargetOk (cls.val) target.toNat = true ∧ stagedAt s (cls.val) target.toNat = some g ∧
   hbmReadOk s g.addr g.len = true) ∧
  (let s : State := mi
   let g : Fin 16 := 3
   let rings : List Word := [0x050301,0,0x050301]
   pageUp s Page.cpm = true ∧ s.cpm.busy = false ∧ cpReady s = true ∧ mbHbm s = true ∧ s.ecc = [] ∧ s.hbm.inj = none ∧
   g.val < groupCount s.part ∧ islandUp s islFab = true ∧
   (∀ (r : Word), r ∈ List.take 16 (rings ++ List.replicate 16 0) → fld r 1 7 = 0 ∧ fld r 24 8 = 0 ∧ (bitOf r 0 = true → fld r 8 8 ≤ fld r 16 8 ∧ fld r 16 8 < 192)) ∧
   ensignLamps s (g.val) (ensignRings (word 0 :: word g.val :: List.take 16 (rings ++ List.replicate 16 0))) ≤ 2097152) ∧
  (let tag : BitVec 8 := 7
   let s : State := mb 3 [2,0,0,0]
   let c : Instr := .keyRevoke 0x5000 (ln [2,0,0,0]) 7
   let kind : Nat := 3
   let a : BitVec 35 := 0x5000
   let n : Word := ln [2,0,0,0]
   pageUp s Page.cpm = true ∧ s.cpm.busy = false ∧ cpReady s = true ∧ mbHbm s = true ∧ s.ecc = [] ∧ s.hbm.inj = none ∧
   BitVec.toNat n ≤ 96 + 256 + 114 ∧ hbmReadOk s a.toNat (BitVec.toNat n) = true ∧
   (c = Instr.policy a n tag true ∧ kind = 1 ∨ c = Instr.keyEnroll a n tag ∧ kind = 2 ∨ c = Instr.keyRevoke a n tag ∧ kind = 3 ∨ c = Instr.svnAdvance a n tag ∧ kind = 4)) := by
  and_intros <;> first | exact rings15_ok | decide +kernel | rfl

end W15

namespace W16

def ne (n : Fin 16) (s : State) : State := fr (fr s (.net n) Off.NET_PORT_CFG 1) (.net n) Off.NET_MTU 9216
def lk (n : Fin 16) (s : State) : State := setPort (ne n s) n.val ⟨true, true, true, 1⟩
def mc16 : List Byte := 1 :: List.replicate 11 0
def ptpf : List Byte := mc16 ++ [0x88,0xF7] ++ List.replicate 60 0
def othf : List Byte := List.replicate 12 1 ++ [0x08,0x07] ++ List.replicate 60 0
def z16 (n : Nat) : List Byte := List.replicate n 0
def udpf (marker : Nat) (seq ts : Nat) (pl : List Byte) : List Byte :=
  let be (k v : Nat) : List Byte := (leBytes k v).reverse
  let rtp := [0x80, BitVec.ofNat 8 (marker * 128 + 96)] ++ be 2 seq ++ be 4 ts ++ z16 4 ++ pl
  let udp := be 2 7 ++ be 2 5000 ++ be 2 (8 + rtp.length) ++ z16 2 ++ rtp
  let ip := [0x45, 0] ++ be 2 (20 + udp.length) ++ z16 4 ++ [64, 17] ++ z16 2 ++ be 4 0x0A000001 ++ be 4 0xEF000001 ++ udp
  mc16 ++ [8,0] ++ ip ++ z16 4
def srd (len row cont off : Nat) : List Byte := let be (k v : Nat) : List Byte := (leBytes k v).reverse; be 2 0 ++ be 2 len ++ be 2 row ++ be 2 (cont * 32768 + off)
def fl (f : Fin 8) (cfg fmt : Word) (s : State) : State :=
  let w (off : Nat) (v : Word) (s : State) := fr s .flow (off + 64 * f.val) v
  w Off.FLOW_FL_CFG cfg (w Off.FLOW_FL_FMT fmt (w Off.FLOW_FL_SIZE 0x000F000F (w Off.FLOW_FL_BUF 0x00030005 (w Off.FLOW_FL_A_IP 0xEF000001 (w Off.FLOW_FL_A_UDP 5000 (w Off.FLOW_FL_STAGE_LO 0x100000 (w Off.FLOW_FL_STAGE_HI 0x40000 s)))))))
def ffmt : Word := 0x00006004
def bt16 (s : State) : State := { rg (rg s .layr Off.LAYR_BUF_TBL_BASE_LO 0x10000) .layr Off.LAYR_BUF_TBL_BASE_HI 0x80000000 with mem := cellsPut s.mem 0x10000 ((List.range 16).flatMap (fun k => bytesOfWords [0x1, 0x000F000F, BitVec.ofNat 32 (0x200000 + 0x10000 * k), 0, 256, 0, 0, 0])) }
def f1 : State := bt16 (fl 3 (1 + 4*2) ffmt (lk 2 allUp))
def run16 (c : State) (f : Nat) : State := setFlow c f { Flow.initial with st := 1, cfg := flowForce c f, lbuf := 640 , run := 1, legB := true}
def pk1 : List Byte := udpf 0 77 9000 (z16 2 ++ srd 10 0 0 0 ++ (List.range 10).map (BitVec.ofNat 8))
def f2 : State := bt16 (fl 3 (2 + 4*2) ffmt (lk 2 allUp))
def runb : State := setFlow f2 3 { Flow.initial with st := 1, cfg := flowForce f2 3, slot := some 0, run := 1 }
def clo (d : FlowDone) (cfg : Word) : State := setBuf (setFlow (fl 3 cfg ffmt (f1)) 3 { Flow.initial with cfg := flowForce (fl 3 cfg ffmt f1) 3, sent := 4, st := 1, closing := [d, ⟨9,1,0,false⟩], seq := 5 }) 7 { Buf.initial with st := 1, ownerClass := ownNet, ownerInst := 3 }
def cc (v : Cam) (s : State) : State := setCam s 2 v
def cr (off : Nat) (v : Word) (s : State) : State := fr s (.cam 2) off v
def cam16 : State := cr Off.CAM_CSI_CFG (BitVec.ofNat 32 (4*1 + 16*0x2B)) (cr Off.CAM_FR_SIZE 0x00020003 (cr Off.CAM_CROP_WH 0x00020003 (cr Off.CAM_STATS_CFG 1 (cr Off.CAM_SPOT_CFG 1 allUp))))
def cf16 (l fg : Nat) : CamFrame := ⟨false, 9, 777, camSnap cam16 2, l, List.replicate l [1,2,3,4], fg, 6, none⟩
def ci (f : CamFrame) (s : State := cam16) : State := cc { Cam.initial with frame := some f, trigSeq := 9 } s
def tr (s : State) : State := fr (fr (fr s (.cam 2) Off.CAM_TRIG_CFG (BitVec.ofNat 32 (1 + 4*3 + 64*15 + 65536*0))) (.cam 2) Off.CAM_TRIG_DLY 0xFFFFFF00) (.cam 2) Off.CAM_TRIG_WID 0x1000
def pl16 (f : Word) (gov : GenState) (l : Rat) : FramePlan := ⟨f, gov, l, 16666667, 2, [8000000,0,0], 1000, false, true, true,true,false,0,[],[]⟩
def tg16 : State := tg (tr allUp) 3 { Tgen.initial with gen := .run, cur := 6, closed := 7, latch := 100, sched := 33333334, plans := [pl16 6 .run 100, pl16 7 .run 16666767] }
def st16 : CamSet := ⟨6, 0x4000, 0, [], 0, 0⟩
def sm16 (s : State) : State := { s with mem := cellsPut s.mem 0x4000 [0x34,0x12,1,0,0,0,0,0, 0x20, 5, 0x02, 0x01, 0xAA, 0xBB, 0, 0] }
def w16 : CamSet := ⟨6, 0x4000, 0x1234, [[0x20, 5, 0x02, 0x01, 0xAA, 0xBB, 0, 0],[1]], 5, 0⟩
def wr16 (w : CamSet) : State := cc { Cam.initial with trigSeq := 5, writing := some w, i2c := [(1,1,1,[])] } allUp
def stq : State := cc { Cam.initial with statsQ := [cf16 3 1, cf16 2 3], spotQ := [cf16 3 1] } (cr Off.CAM_STATS_LO 0x40000 cam16)
def spc : State := cr Off.CAM_SPOT_IN_LO 0x50000 (cr Off.CAM_SPOT_CNT 2 (cr Off.CAM_SPOT_OUT_LO 0x50010 cam16))
def spf : CamFrame := { cf16 3 1 with regs := camSnap spc 2 }
def spq : State := { cc { Cam.initial with spotQ := [spf] } spc with mem := cellsPut [] 0x50000 (bytesOfWords [0x123456,0x00020001,0x00010001,0x22345678,0x00020001,0x0]) }
def bset : State := rg (rg allUp .blit Off.BLIT_OP 0x80) .blit Off.BLIT_DST_PITCH 256
def bj (f : Nat) (x : Nat) (w h : Nat) : BlitJob := ⟨(List.range 20).map (fun k => if k = 1 then BitVec.ofNat 32 (f*16) else if k = 2 then 0x6000 else if k = 4 then 256 else if k = 5 then BitVec.ofNat 32 x else if k = 6 then BitVec.ofNat 32 (w - 1 + 65536*(h-1)) else if k = 11 then 0xAB else 0), none, 0, 0⟩
def bs (j : BlitJob) : State := { allUp with blit := ⟨some j, 0, 0⟩, mem := [(0x6001,5),(0x6010,6)] }

theorem blit16_abort : Instr.blitAbort 3 = Instr.blitComplete ∨ ∃ rows, Instr.blitAbort 3 = Instr.blitAbort rows := Or.inr ⟨3, rfl⟩
theorem blit16_complete : Instr.blitComplete = Instr.blitComplete ∨ ∃ rows, Instr.blitComplete = Instr.blitAbort rows := Or.inl rfl

/-- States and operands that meet the hypotheses of the clauses of `Obligations.Blitter`. -/
theorem witness_Blitter :
  (let c : Instr := .blitAbort 3
   let j : BlitJob := bj 5 3 7 5
   let s : State := bs (bj 5 3 7 5)
   pageUp s Page.blit = true ∧ s.blit.run = some j ∧ (c = Instr.blitComplete ∨ ∃ rows, c = Instr.blitAbort rows)) ∧
  (let c : Instr := .blitGlyph
   let op : Nat := 2
   let s : State := bs (bj 5 3 7 1)
   pageUp s Page.blit = true ∧ islandRuns s islMedia = true ∧
   (c = Instr.blitFill ∧ op = 0 ∨ c = Instr.blitCopy ∧ op = 1 ∨ c = Instr.blitGlyph ∧ op = 2) ∧ s.blit.run.isSome = true) ∧
  (let c : Instr := .blitFill
   let op : Nat := 0
   let s : State := bset
   pageUp s Page.blit = true ∧ islandRuns s islMedia = true ∧
   (c = Instr.blitFill ∧ op = 0 ∨ c = Instr.blitCopy ∧ op = 1 ∨ c = Instr.blitGlyph ∧ op = 2) ∧ s.blit.run = none ∧
   regF s Page.blit Off.BLIT_OP 8 1 = 0) ∧
  (let j : BlitJob := { bj 5 3 7 1 with res := 2 }
   let s : State := bs { bj 5 3 7 1 with res := 2 }
   let c : Instr := .blitComplete
   pageUp s Page.blit = true ∧ s.blit.run = some j ∧ j.entry = none ∧ s.ecc = [] ∧ s.hbm.inj = none ∧
   bitOf (bw j.words Off.BLIT_OP) 8 = false ∧ j.res ≠ 0 ∧ (c = Instr.blitComplete ∨ ∃ rows, c = Instr.blitAbort rows)) ∧
  (let j : BlitJob := bj 5 3 7 1
   let s : State := bs (bj 5 3 7 1)
   pageUp s Page.blit = true ∧ s.blit.run = some j ∧ j.entry = none ∧ s.ecc = [] ∧ s.hbm.inj = none ∧
   bitOf (bw j.words Off.BLIT_OP) 8 = false ∧ j.res = 0 ∧ j.rows = 0 ∧ (blitOp j.words none).op = 0 ∧ (blitOp j.words none).bits = 8 ∧
   (blitOp j.words none).h = 1 ∧
   hbmReadOk s (((blitOp j.words none).base + (blitOp j.words none).dy * (blitOp j.words none).pitch + (blitOp j.words none).dx) / 32 * 32) 32 = true ∧
   ((blitOp j.words none).base + (blitOp j.words none).dy * (blitOp j.words none).pitch + (blitOp j.words none).dx) % 32 + (blitOp j.words none).w ≤ 32) := by
  and_intros <;> first | with_reducible exact blit16_abort | with_reducible exact blit16_complete | decide +kernel | rfl

/-- States and operands that meet the hypotheses of the clauses of `Obligations.Cameras`. -/
theorem witness_Cameras :
  (let c : Fin 4 := 2
   let s : State := cam16
   pageUp s (Page.cam c) = true) ∧
  (let c : Fin 4 := 2
   let s : State := fr allUp (.cam 2) Off.CAM_TRIG_CFG 2
   pageUp s (Page.cam c) = true) ∧
  (let c : Fin 4 := 2
   let s : State := rg allUp (.cam 2) Off.CAM_SET_TRIG 77
   pageUp s (Page.cam c) = true) ∧
  (let c : Fin 4 := 2
   let s : State := rg (rg cam16 (.cam 2) Off.CAM_FR_SEQ 7) (.cam 2) Off.CAM_FR_FLAGS 5
   pageUp s (Page.cam c) = true) ∧
  (let c : Fin 4 := 2
   let s : State := fr allUp (.cam 2) Off.CAM_TRIG_CFG 2
   pageUp s (Page.cam c) = true ∧ camRuns s c.val = true ∧ trigMode s c.val = 2) ∧
  (let c : Fin 4 := 2
   let f : CamFrame := cf16 3 0
   let s : State := ci (cf16 3 0)
   camRuns s c.val = true ∧ (camAt s c.val).frame = some f ∧ f.discard = false ∧ f.tap = none) ∧
  (let c : Fin 4 := 2
   let s : State := wr16 { w16 with todo := [] }
   let w : CamSet := { w16 with todo := [] }
   pageUp s (Page.cam c) = true ∧ (camAt s c.val).writing = some w ∧ w.bad = 0 ∧ w.todo = []) ∧
  (let c : Fin 4 := 2
   let s : State := wr16 w16
   let w : CamSet := w16
   let e : List Byte := [0x20, 5, 0x02, 0x01, 0xAA, 0xBB, 0, 0]
   let rest : List (List Byte) := [[1]]
   pageUp s (Page.cam c) = true ∧ (camAt s c.val).writing = some w ∧ w.bad = 0 ∧ w.todo = e :: rest) ∧
  (let c : Fin 4 := 2
   let s : State := cam16
   let vc : Fin 4 := 1
   camRuns s c.val = true ∧ islandRuns s islCam = true ∧ trigMode s c.val = 0 ∧ (camAt s c.val).frame = none ∧
   camF s (c.val) Off.CAM_TAP_CFG 0 1 = 0 ∧ camF s (c.val) Off.CAM_CSI_CFG 2 2 = vc.val) ∧
  (let c : Fin 4 := 2
   let f : CamFrame := cf16 3 0
   let s : State := ci (cf16 3 0)
   let vc : Fin 4 := 1
   camRuns s c.val = true ∧ (camAt s c.val).frame = some f ∧ f.discard = false ∧ f.tap = none ∧
   cfF (cfRead (c.val) f) Off.CAM_CSI_CFG 2 2 = vc.val ∧ cfH (cfRead (c.val) f) ≤ f.lines ∧ f.flags.testBit 2 = false) ∧
  (let c : Fin 4 := 2
   let s : State := wr16 w16
   let w : CamSet := w16
   let i : Instr := .i2cBusStuckTimeout 2
   let code : Nat := 2
   pageUp s (Page.cam c) = true ∧ (camAt s c.val).writing = some w ∧
   (i = Instr.i2cTransaction c true ∧ w.bad = 0 ∧ w.todo ≠ [] ∧ code = 1 ∨ i = Instr.i2cTransaction c false ∧ w.bad ≠ 0 ∧ code = w.bad ∨ i = Instr.i2cBusStuckTimeout c ∧ code = 2)) ∧
  (let c : Fin 4 := 2
   let s : State := stq
   let f : CamFrame := cf16 3 1
   let rest : List CamFrame := [cf16 2 3]
   pageUp s (Page.cam c) = true ∧ s.ecc = [] ∧ s.hbm.inj = none ∧ (camAt s c.val).statsQ = f :: rest ∧
   hbmOk s (BitVec.toNat (cfRead (c.val) f Off.CAM_STATS_LO) + cfF (cfRead (c.val) f) Off.CAM_STATS_HI 0 3 * 2 ^ 32 + BitVec.toNat f.seq % 2 ^ cfF (cfRead (c.val) f) Off.CAM_STATS_CFG 24 3 * 69888) 69888 = true) ∧
  (let c : Fin 4 := 2
   let f : CamFrame := cf16 1 0
   let s : State := ci (cf16 1 0)
   let vc : Fin 4 := 1
   let dt : Fin 64 := 0x2B
   let raw : List (BitVec 16) := [1,2,0xFFFF,4]
   camRuns s c.val = true ∧ (camAt s c.val).frame = some f ∧ f.discard = false ∧ f.tap = none ∧
   cfF (cfRead (c.val) f) Off.CAM_CSI_CFG 2 2 = vc.val ∧ cfF (cfRead (c.val) f) Off.CAM_CSI_CFG 4 6 = dt.val ∧
   f.lines < cfH (cfRead (c.val) f) ∧ cfW (cfRead (c.val) f) ≤ raw.length ∧ f.flags.testBit 3 = false) ∧
  (let c : Fin 4 := 2
   let s : State := spq
   let f : CamFrame := spf
   let rest : List CamFrame := []
   pageUp s (Page.cam c) = true ∧ s.ecc = [] ∧ s.hbm.inj = none ∧ (camAt s c.val).spotQ = f :: rest ∧
   hbmReadOk s (BitVec.toNat (cfRead (c.val) f Off.CAM_SPOT_IN_LO) + cfF (cfRead (c.val) f) Off.CAM_SPOT_IN_HI 0 3 * 2 ^ 32) (12 * spotCount (cfRead (c.val) f)) = true ∧
   hbmOk s (BitVec.toNat (cfRead (c.val) f Off.CAM_SPOT_OUT_LO) + cfF (cfRead (c.val) f) Off.CAM_SPOT_OUT_HI 0 3 * 2 ^ 32) (12 * spotCount (cfRead (c.val) f)) = true) ∧
  (let c : Fin 4 := 2
   let s : State := sm16 (cc { Cam.initial with trigSeq := 5, queued := some st16 } allUp)
   let w : CamSet := st16
   pageUp s (Page.cam c) = true ∧ islandRuns s islCam = true ∧ s.ecc = [] ∧ hlpRun s 22 = true ∧ (camAt s c.val).queued = some w ∧
   (camAt s c.val).writing = none ∧ frameGe (camAt s c.val).trigSeq (w.target - 1) = true ∧ w.addr % 8 = 0 ∧ hbmReadOk s w.addr 8 = true ∧
   BitVec.toNat (memByte s (w.addr + 2)) = 1 ∧ (∀ (i : Nat), i < 5 → memByte s (w.addr + 3 + i) = 0) ∧ hbmReadOk s (w.addr + 8) 8 = true ∧
   setEntryOk (memBytes s (w.addr + 8) 8) = true) ∧
  (let c : Fin 4 := 2
   let k : Fin 4 := 1
   let frame : Word := 7
   let p : FramePlan := pl16 7 .run 16666767
   let s : State := tg16
   camRuns s c.val = true ∧ islandRuns s islCam = true ∧ trigMode s c.val = 1 ∧
   planOf (tgen s (camF s (c.val) Off.CAM_TRIG_CFG 2 4)) frame = some p ∧
   ((tgen s (camF s (c.val) Off.CAM_TRIG_CFG 2 4)).gen = GenState.run ∨ (tgen s (camF s (c.val) Off.CAM_TRIG_CFG 2 4)).gen = GenState.slack) ∧
   k.val < p.phases ∧ bitOf (force s (Page.cam c) Off.CAM_TRIG_CFG) (6 + k.val) = true ∧
   BitVec.toNat frame % (camF s (c.val) Off.CAM_TRIG_CFG 16 8 + 1) = 0 ∧ s.camPulses = [] ∧ (camAt s c.val).queue.length < 4) := by
  and_intros <;> first | with_reducible exact blit16_abort | with_reducible exact blit16_complete | decide +kernel | rfl

/-- States and operands that meet the hypotheses of the clauses of `Obligations.NetworkFlows`. -/
theorem witness_NetworkFlows :
  (let f : Fin 8 := 3
   let s : State := runb
   pageUp s Page.flow = true ∧ (flowAt s f.val).st ≠ 0) ∧
  (let f : Fin 8 := 3
   let s : State := f1
   pageUp s Page.flow = true ∧ (flowAt s f.val).st = 0) ∧
  (let f : Fin 8 := 3
   let s : State := runb
   pageUp s Page.flow = true ∧ (islandRuns s islNet = false ∨ (flowAt s f.val).st ≠ 0)) ∧
  (let f : Fin 8 := 3
   let s : State := run16 f1 3
   pageUp s Page.flow = true ∧ (flowAt s f.val).st ≠ 0 ∧ flKind s f.val = 1 ∧ (flowAt s f.val).frame = none) ∧
  (let f : Fin 8 := 3
   let s : State := fl 3 (0 + 4*2) ffmt allUp
   pageUp s Page.flow = true ∧ islandRuns s islNet = true ∧ (flowAt s f.val).st = 0 ∧ flowStartCode s f.val ≠ 0) ∧
  (let f : Fin 8 := 3
   let s : State := f1
   pageUp s Page.flow = true ∧ islandRuns s islNet = true ∧ (flowAt s f.val).st = 0 ∧ flowStartCode s f.val = 0 ∧ flKind s f.val = 1) ∧
  (let n : Fin 16 := 2
   let up : Bool := true
   let s : State := ne 2 allUp
   pageUp s (Page.net n) = true ∧ (up = true → forceF s (Page.net n) Off.NET_PORT_CFG 0 1 = 1)) ∧
  (let f : Fin 8 := 3
   let s : State := f2
   let k : Nat := 0
   pageUp s Page.flow = true ∧ islandRuns s islNet = true ∧ (flowAt s f.val).st = 0 ∧ flowStartCode s f.val = 0 ∧ flKind s f.val = 2 ∧
   freeSlot s = some k) ∧
  (let f : Fin 8 := 3
   let s : State := clo ⟨7, 99, 2, true⟩ 0x809
   let d : FlowDone := ⟨7, 99, 2, true⟩
   let rest : List FlowDone := [⟨9,1,0,false⟩]
   pageUp s Page.flow = true ∧ (flowAt s f.val).closing = d :: rest ∧ ownedBy s d.buf ownNet f.val = true ∧ d.cause ≠ 0) ∧
  (let n : Fin 16 := 2
   let bytes : List Byte := othf
   let s : State := ne 2 allUp
   ((portAt s n.val).link = false ∨ bytes.length < 64 ∨ forceF s (Page.net n) Off.NET_MTU 0 14 < bytes.length ∨ (ethOf bytes).dst ≠ netMac s n.val ∧ (ethOf bytes).dst / 2 ^ 40 % 2 = 0)) ∧
  (let f : Fin 8 := 3
   let s : State := clo ⟨7, 99, 0, false⟩ 0x9
   let d : FlowDone := ⟨7, 99, 0, false⟩
   let rest : List FlowDone := [⟨9,1,0,false⟩]
   pageUp s Page.flow = true ∧ (flowAt s f.val).closing = d :: rest ∧ ownedBy s d.buf ownNet f.val = true ∧ d.cause = 0 ∧
   (d.damaged = false ∨ flF s (f.val) Off.FLOW_FL_CFG 11 1 = 1)) ∧
  (let n : Fin 16 := 2
   let bytes : List Byte := ptpf
   let s : State := lk 2 allUp
   pageUp s (Page.net n) = true ∧ islState s islNet = IslState.run ∧ (portAt s n.val).link = true ∧ 64 ≤ bytes.length ∧
   bytes.length ≤ forceF s (Page.net n) Off.NET_MTU 0 14 ∧ ((ethOf bytes).dst = netMac s n.val ∨ (ethOf bytes).dst / 2 ^ 40 % 2 = 1)) ∧
  (let n : Fin 16 := 2
   let bytes : List Byte := ptpf
   let s : State := lk 2 allUp
   pageUp s (Page.net n) = true ∧ islState s islNet = IslState.run ∧ (portAt s n.val).link = true ∧ 64 ≤ bytes.length ∧
   bytes.length ≤ forceF s (Page.net n) Off.NET_MTU 0 14 ∧ ((ethOf bytes).dst = netMac s n.val ∨ (ethOf bytes).dst / 2 ^ 40 % 2 = 1) ∧
   flowFor s (n.val) (ethOf bytes) = none) ∧
  (let n : Fin 16 := 2
   let bytes : List Byte := pk1
   let s : State := runb
   let f : Nat := 3
   let a : Bool := true
   let b : Bool := false
   let r : RtpPkt := ((flowFor (runb) 2 (ethOf pk1)).getD (0, false, false, ⟨false, 0, 0, 0, []⟩)).2.2.2
   pageUp s (Page.net n) = true ∧ islState s islNet = IslState.run ∧ (portAt s n.val).link = true ∧ 64 ≤ bytes.length ∧
   bytes.length ≤ forceF s (Page.net n) Off.NET_MTU 0 14 ∧ ((ethOf bytes).dst = netMac s n.val ∨ (ethOf bytes).dst / 2 ^ 40 % 2 = 1) ∧
   flowFor s (n.val) (ethOf bytes) = some (f, a, b, r)) := by
  and_intros <;> first | with_reducible exact blit16_abort | with_reducible exact blit16_complete | decide +kernel | rfl

end W16

namespace W17

def sn17 (l : List (Nat × Word)) (p : Page) (b : Nat) : AMap Word := l.foldl (fun m x => mapSet regDefault m (regKey p x.1 b) x.2) []
def ld17 (p : Page) (b : Nat) (l : List (Nat × Word)) : State := cm allUp p b { CommitSlot.initial with armSeq := 9, loading := [⟨3, [b], { pd0 with snap := sn17 l p b, frame := 44, phases := 2 }⟩] }

/-- States and operands that meet the hypotheses of the clauses of `Obligations.ArmLoads`. -/
theorem witness_ArmLoads :
  (let b : Nat := 5
   let s : State := ld17 .geom 5 [(Off.GEOM_CTX_LIST_CNT, 2)]
   let e : Nat × Nat := (8,0)
   pageUp s Page.geom = true ∧ loadingBanks s Page.geom = [b] ∧ b < 16 ∧ geomBankLoad s (loadSnap s Page.geom b) b = Sum.inl e) ∧
  (let b : Nat := 5
   let s : State := ld17 .layr 5 [(Off.LAYR_STACK_CNT,1)]
   let r : Nat := (layrArmCode (ld17 .layr 5 [(Off.LAYR_STACK_CNT,1)]) [5]).getD 0
   pageUp s Page.layr = true ∧ loadingBanks s Page.layr = [b] ∧ b < 16 ∧ layrArmCode s [b] = some r ∧ s.ecc = []) ∧
  (let b : Nat := 5
   let s : State := ld17 .layr 5 []
   let pd : Pending := { pd0 with snap := sn17 [] .layr 5, frame := 44, phases := 2 }
   pageUp s Page.layr = true ∧ loadingBanks s Page.layr = [b] ∧ b < 16 ∧ layrArmCode s [b] = none ∧ loadOf s Page.layr b = some pd ∧
   (cslot s Page.layr b).pending = none) ∧
  (let b : Nat := 5
   let s : State := ld17 .geom 5 []
   let rs : List (List Word) := []
   let pd : Pending := { pd0 with snap := sn17 [] .geom 5, frame := 44, phases := 2 }
   pageUp s Page.geom = true ∧ loadingBanks s Page.geom = [b] ∧ b < 16 ∧ geomBankLoad s (loadSnap s Page.geom b) b = Sum.inr rs ∧
   loadOf s Page.geom b = some pd ∧ (cslot s Page.geom b).pending = none) := by
  and_intros <;> first | decide +kernel | rfl

end W17

namespace W18

def off18 : State := { h3 with msix := { h3.msix with enable := false } }
def msk18 : State := { h3 with msix := { h3.msix with funcMask := true } }
def upd18 (st : IslState) : State := nvPut (isl allUp 2 { Island.initial 2 with st := st, target := none }) (nvImageBanks 3 0).1 ⟨0x14, 1, 1, []⟩
def rr18 : WeirReq := .hbmRead 0x100 64
def tb18 : State := { rg allUp .geom Off.GEOM_TYPE_SEL 2 with geom := { allUp.geom with types := [(2, 0x80000000)], ctx := [(0, 0x21)] } }
def bf18 : State := setBuf allUp 5 { Buf.initial with st := 2 }

/-- States and operands that meet the hypotheses of the clauses of `Obligations.IndexedPorts`. -/
theorem witness_IndexedPorts_more2 :
  (let a : Nat := 0
   let s : State := tb18
   pageUp s Page.geom = true ∧ a = regF s Page.geom Off.GEOM_VIEW_ADDR 0 8 ∧ typeBusy s (typeSel s) = true) := by
  and_intros <;> first | decide +kernel | rfl

/-- States and operands that meet the hypotheses of the clauses of `Obligations.IslandRequests`. -/
theorem witness_IslandRequests_more2 :
  (let p : Page := .trim
   let s : State := upd18 .run
   pagePresent s p = true ∧ islFixed s (islandOf p) = false ∧ (island s (islandOf p)).target = none ∧
   ((island s (islandOf p)).st = IslState.idle ∨ (island s (islandOf p)).st = IslState.run) ∧ hlpRun s 21 = true ∧
   (islImage s (islandOf p)).isSome = true) := by
  and_intros <;> first | decide +kernel | rfl

/-- States and operands that meet the hypotheses of the clauses of `Obligations.TableWrites`. -/
theorem witness_TableWrites_more2 :
  (let s : State := bf18
   pageUp s Page.layr = true ∧ (∃ e, e ∈ s.layr.bufs ∧ e.snd.st ≠ 0)) := by
  and_intros <;> first | decide +kernel | rfl

/-- States and operands that meet the hypotheses of the clauses of `Obligations.VectorMessages`. -/
theorem witness_VectorMessages_more2 :
  (let s : State := off18
   s.msix.enable = false) ∧
  (let s : State := msk18
   s.msix.funcMask = true) ∧
  (let s : State := h2
   let v : Nat := 20
   s.msix.enable = true ∧ s.msix.funcMask = false ∧ v ∈ s.msix.unmasked ∧ v ∈ vecInputs s ∧ ¬v ∈ s.msix.inputs) := by
  and_intros <;> first | decide +kernel | rfl

/-- States and operands that meet the hypotheses of the clauses of `Obligations.WearAndFades`. -/
theorem witness_WearAndFades_more2 :
  (let c : Instr := .wearCkptNow
   let s : State := allUp
   pageUp s Page.trim = true ∧ s.trim.ckpt = none ∧
   (c = Instr.wearCkptNow ∨ c = Instr.wearCkptTimer ∧ regF s Page.trim Off.TRIM_WEAR_CTRL 16 16 ≠ 0)) := by
  and_intros <;> first | decide +kernel | rfl

/-- States and operands that meet the hypotheses of the clauses of `Obligations.Weirs`. -/
theorem witness_Weirs_more2 :
  (let w : Fin 158 := 0
   let alt : Bool := false
   let r : WeirReq := rr18
   let s : State := isl allUp 2 { Island.initial 2 with st := .off }
   let tag : Nat := 0
   weirTagged w.val = true ∧ reqFits (w.val) r = true ∧ weirExists s w.val = true ∧ weirSide s (weirEnds w.val).fst = true ∧
   freePoolTag s (w.val) (drawsTrim alt r) = some tag ∧ weirSide s (weirEnds w.val).snd = false) ∧
  (let w : Fin 158 := 0
   let alt : Bool := true
   let r : WeirReq := rr18
   let s : State := setWeir allUp 0 { Weir.initial with queue := [(64, true, rr18)], shadow := [65] }
   let tag : Nat := 66
   weirTagged w.val = true ∧ reqFits (w.val) r = true ∧ weirExists s w.val = true ∧ weirSide s (weirEnds w.val).fst = true ∧
   freePoolTag s (w.val) (drawsTrim alt r) = some tag ∧ weirSide s (weirEnds w.val).snd = true ∧
   (weirAt s w.val).queue.length < weirDepth w.val) := by
  and_intros <;> first | decide +kernel | rfl

end W18

end Sys2Proof.Tests
end

section
/-!
SUPPORT. Reads after writes of the register file and of HBM, and the host's write path from BAR0 to a plain register
(spec/00_scope.md R4, R14, spec/02_register_pages.md R35, R38, R40, R62).
-/
namespace Sys2Proof.Machine

/-! ## The page map and the keys of the register file -/

/-- Every page answers at its own slot of BAR0 (R37). -/
@[simp] theorem pageOfSlot_pageSlot (p : Page) : pageOfSlot (pageSlot p) = some p := by
  cases p with
  | tgen g | reng g | codec g | bport g | bgrp g | hbmpc g | net g | cam g | aud g =>
    have hg := g.isLt
    simp (disch := omega) only [pageSlot, pageOfSlot, if_neg, dif_neg, dif_pos, Nat.add_sub_cancel_left]
  | _ => rfl

/-- The key of a register names its page, its offset and its bank. -/
theorem regKey_eq_iff {p q : Page} {o o' b b' : Nat} (ho : o < 4096) (ho' : o' < 4096) :
    regKey q o' b' = regKey p o b ↔ q = p ∧ o' = o ∧ b' = b := by
  have hp := pageSlot_lt p
  have hq := pageSlot_lt q
  unfold regKey pageBase
  constructor
  · intro h
    exact ⟨pageSlot_inj (by omega), by omega, by omega⟩
  · rintro ⟨rfl, rfl, rfl⟩
    rfl

/-! ## Reads after writes -/

@[simp] theorem regBank_setReg (s : State) (p q : Page) (b o o' : Nat) (w : Word) :
    regBank (setReg s p o w) q b o' = if regKey q o' b = regKey p o 0 then w else regBank s q b o' :=
  mapGet_mapSet _ _ _ _ _

@[simp] theorem reg_settle (s : State) (p : Page) (o : Nat) : reg (settle s) p o = reg s p o := by
  simp only [reg, settle_frame]

@[simp] theorem regBank_settle (s : State) (p : Page) (b o : Nat) : regBank (settle s) p b o = regBank s p b o := by
  simp only [regBank, settle_frame]

@[simp] theorem evPend_settle (s : State) (p : Page) : evPend (settle s) p = evPend s p := by
  simp only [evPend, settle_frame]

/-- While no word of HBM is marked, a write stores its bytes and nothing more of memory. -/
theorem memPut_mem {s : State} (h : s.ecc = []) (a : Nat) (bs : List Byte) : (memPut s a bs).mem = cellsPut s.mem a bs := by
  simp [memPut, injWrite_mem, h]

/-- Settles O8: the laws of the sparse map, read through the keys of the register file and the bytes of HBM. -/
theorem storeReadBack : Obligations.StoreReadBack := by
  unfold Obligations.StoreReadBack
  refine ⟨fun s p q o o' w ho ho' => ?_, fun s a k bs hecc => ?_, fun s a bs hw => memPut_wf s a bs hw⟩
  · simp only [reg_setReg, regKey_eq_iff ho ho', and_true]
  · rw [memByte, memPut_mem hecc]
    exact mapGet_cellsPut s.mem a k bs

/-! ## A plain write by its access codes (R14) -/

theorem bitOf_ofNat (x : Nat) {i : Nat} (hi : i < 32) : bitOf (BitVec.ofNat 32 x) i = x.testBit i := by
  rw [bitOf, BitVec.toNat_ofNat, Nat.testBit_mod_two_pow, decide_eq_true hi, Bool.true_and]

/-- The low word of a host write keeps its bits. -/
theorem bitOf_setWidth (v : BitVec 64) {i : Nat} (hi : i < 32) : bitOf (v.setWidth 32) i = v.toNat.testBit i := by
  rw [bitOf, BitVec.toNat_setWidth, Nat.testBit_mod_two_pow, decide_eq_true hi, Bool.true_and]

/-- The complement of a mask within a register word. -/
theorem testBit_wordMask_xor (x : Nat) {i : Nat} (hi : i < 32) : (0xFFFFFFFF ^^^ x).testBit i = !x.testBit i := by
  rw [Nat.testBit_xor, show 0xFFFFFFFF = 2 ^ 32 - 1 from rfl, Nat.testBit_two_pow_sub_one, decide_eq_true hi, Bool.true_xor]

/-- The word that a plain write leaves in a register of row `r` that held `old`: the expression of `writePlain`. -/
def plainWord (r : RegRow) (old v : Word) : Word :=
  BitVec.ofNat 32 ((old.toNat &&& (0xFFFFFFFF ^^^ (r.rw ||| r.w1c))) ||| (v.toNat &&& r.rw) |||
    (old.toNat &&& r.w1c &&& (0xFFFFFFFF ^^^ v.toNat)))

/-- R14: the RW bits take the word, a 1 clears a W1C bit, and every other bit stands. -/
theorem bitOf_plainWord (r : RegRow) (old v : Word) {i : Nat} (hi : i < 32) :
    bitOf (plainWord r old v) i =
      ((r.rw.testBit i && bitOf v i) || (r.w1c.testBit i && bitOf old i && !bitOf v i)
        || (!r.rw.testBit i && !r.w1c.testBit i && bitOf old i)) := by
  rw [plainWord, bitOf_ofNat _ hi]
  simp only [Nat.testBit_or, Nat.testBit_and, testBit_wordMask_xor _ hi, bitOf]
  cases r.rw.testBit i <;> cases r.w1c.testBit i <;> simp [Bool.or_comm, Bool.and_comm]

/-- A register without a bit that a write can change keeps its word. -/
theorem plainWord_readOnly {r : RegRow} (hm : r.rw ||| r.w1c = 0) (old v : Word) : plainWord r old v = old := by
  obtain ⟨hrw, hw1c⟩ := Nat.or_eq_zero_iff.mp hm
  have hmask : old.toNat &&& 0xFFFFFFFF = old.toNat := by
    rw [show 0xFFFFFFFF = 2 ^ 32 - 1 from rfl, Nat.and_two_pow_sub_one_eq_mod, Nat.mod_eq_of_lt old.isLt]
  simp [plainWord, hrw, hw1c, hmask]

section
variable {s : State} {p : Page} {off : Nat} {v : Word} {r : RegRow}

/-- An RWS register takes the word whole, into the shadow that the bank selects. -/
theorem writePlain_rws (hr : regRow (kindOf p) off = some r) (h : r.rws ≠ 0) :
    writePlain s p off v = setRegBank s p (bankSel s p) off v := by
  simp [writePlain, hr, h]

theorem writePlain_readOnly (hr : regRow (kindOf p) off = some r) (h : r.rws = 0) (hm : r.rw ||| r.w1c = 0) :
    writePlain s p off v = s := by
  simp only [writePlain, hr, h, hm, ne_eq, not_true_eq_false, if_false, if_true]

theorem writePlain_masked (hr : regRow (kindOf p) off = some r) (h : r.rws = 0) (hm : r.rw ||| r.w1c ≠ 0) :
    writePlain s p off v = setReg s p off (plainWord r (reg s p off) v) := by
  simp only [writePlain, plainWord, hr, h, hm, ne_eq, not_true_eq_false, if_false]

/-- What a register that is not RWS holds after a plain write, whether or not a bit of it can change. -/
theorem reg_writePlain (hr : regRow (kindOf p) off = some r) (h : r.rws = 0) :
    reg (writePlain s p off v) p off = plainWord r (reg s p off) v := by
  by_cases hm : r.rw ||| r.w1c = 0
  · rw [writePlain_readOnly hr h hm, plainWord_readOnly hm]
  · rw [writePlain_masked hr h hm, reg_setReg, if_pos rfl]

/-- A plain write leaves every register but the one it names, in the bank it names. -/
theorem regBank_writePlain_of_ne (hr : regRow (kindOf p) off = some r) {q : Page} {b o : Nat}
    (hne : regKey q o b ≠ regKey p off (if r.rws = 0 then 0 else bankSel s p)) :
    regBank (writePlain s p off v) q b o = regBank s q b o := by
  by_cases h : r.rws = 0
  · rw [if_pos h] at hne
    by_cases hm : r.rw ||| r.w1c = 0
    · rw [writePlain_readOnly hr h hm]
    · rw [writePlain_masked hr h hm, regBank_setReg, if_neg hne]
  · rw [if_neg h] at hne
    rw [writePlain_rws hr h, regBank_setRegBank, if_neg hne]

end

/-! ## The host's path to a register (R4, R35, R38, R40, R62) -/

section
variable {s : State} {n off : Nat} {v : Word}

/-- A write to a page that answers reaches the page's register. -/
theorem bar0Write_of_pageUp {p : Page} (hp : pageUp s p = true) (ho : off < 4096) (hc : off ≠ Off.HDR_PCTRL) :
    bar0Write s (pageBase p + off) v = pageWrite s p off v := by
  have hlt := pageSlot_lt p
  have hpres : pagePresent s p = true := (Bool.and_eq_true_iff.mp hp).1
  have hslot : (pageBase p + off) / 4096 = pageSlot p := by unfold pageBase; omega
  have hoff : (pageBase p + off) % 4096 = off := by unfold pageBase; omega
  have hbar : pageBase p + off < 2 ^ 24 := by unfold pageBase; omega
  rw [bar0Write, if_pos hbar, hslot, hoff]
  simp [hpres, hp, hc]

/-- A write to a slot where no page answers is discarded. -/
theorem bar0Write_unanswered (hn : n < 4096) (ho : off < 4096) (hc : off ≠ Off.HDR_PCTRL)
    (hdown : ∀ p, pageOfSlot n = some p → pageUp s p = false) : bar0Write s (n * 4096 + off) v = s := by
  have hslot : (n * 4096 + off) / 4096 = n := by omega
  have hoff : (n * 4096 + off) % 4096 = off := by omega
  have hbar : n * 4096 + off < 2 ^ 24 := by omega
  rw [bar0Write, if_pos hbar, hslot, hoff]
  cases hp : pageOfSlot n with
  | none => rfl
  | some p => simp [hc, hdown p hp]

/-- An aligned 32-bit write of a host that is reached is one write of BAR0. -/
theorem hostWrite_aligned {a : Nat} (v : BitVec 64) (hr : hostReach s = true) (ha : a % 4 = 0) :
    hostWrite s a false v = bar0Write s a (v.setWidth 32) := by
  simp [hostWrite, hr, ha]

/-- A host that is not reached writes nothing. -/
theorem hostWrite_unreached {a : Nat} (wide : Bool) (v : BitVec 64) (hr : hostReach s = false) : hostWrite s a wide v = s := by
  simp [hostWrite, hr]

end

theorem exec_regWrite (a : BitVec 26) (wide : Bool) (v : BitVec 64) (s : State) :
    exec (.regWrite a wide v) s = .next (settle (hostWrite s a.toNat wide v)) := rfl

/-- What an access error of a host that is reached does before the vectors follow. -/
theorem exec_accessErr {s : State} (hr : hostReach s = true) (a : BitVec 26) (isWrite : Bool) :
    exec (.accessErr a isWrite) s =
      .next (settle (if isWrite then raise s .glb 0 else answer (raise s .glb 0) 0xFFFFFFFF)) := by
  show execAccessErr a isWrite s = _
  simp only [execAccessErr, done, hr, if_true]

/-! ## The three kinds of access -/

/-- R14: a write of a register that has no behaviour of its own is a plain write. -/
theorem exec_regWrite_plain {s : State} {p : Page} {off : Nat} {a : BitVec 26} {v : BitVec 64} (hreach : hostReach s = true)
    (hup : pageUp s p = true) (ho : off < 4096) (hal : off % 4 = 0) (ha : a.toNat = pageBase p + off)
    (hc : off ≠ Off.HDR_PCTRL) (hact : actWrite s p off (v.setWidth 32) = none) :
    exec (.regWrite a false v) s = .next (settle (writePlain s p off (v.setWidth 32))) := by
  have hmod : (pageBase p + off) % 4 = 0 := by unfold pageBase; omega
  rw [exec_regWrite, ha, hostWrite_aligned v hreach hmod, bar0Write_of_pageUp hup ho hc, pageWrite, hact]

/-- R4, R35, R38, R40: a write where no page answers leaves the machine. -/
theorem exec_regWrite_unanswered {s : State} {n off : Nat} {a : BitVec 26} {v : BitVec 64} (hn : n < 4096) (ho : off < 4096)
    (hal : off % 4 = 0) (ha : a.toNat = n * 4096 + off) (hc : off ≠ Off.HDR_PCTRL)
    (hdown : ∀ p, pageOfSlot n = some p → pageUp s p = false) :
    exec (.regWrite a false v) s = .next (settle s) := by
  rw [exec_regWrite, ha]
  cases hreach : hostReach s with
  | false => rw [hostWrite_unreached false v hreach]
  | true => rw [hostWrite_aligned v hreach (by omega), bar0Write_unanswered hn ho hc hdown]

/-- R62: the event of an access error, the word it returns, and nothing else of the machine. -/
theorem exec_accessErr_effect {s : State} (hreach : hostReach s = true) (hup : pageUp s .glb = true) (a : BitVec 26)
    (isWrite : Bool) : ∃ t, exec (.accessErr a isWrite) s = .next t ∧ evPend t .glb = putBit (evPend s .glb) 0 true ∧
      t.lastRead = (if isWrite then s.lastRead else 0xFFFFFFFF) ∧
      t = { s with evPend := t.evPend, lastRead := t.lastRead, msix := t.msix } := by
  have hpend : evPend (raise s .glb 0) .glb = putBit (evPend s .glb) 0 true := by
    rw [raise_up 0 hup, evPend_setPend, if_pos rfl]
  refine ⟨_, exec_accessErr hreach a isWrite, ?_⟩
  cases isWrite with
  | true =>
    refine ⟨by rw [evPend_settle]; exact hpend, by simp, ?_⟩
    simp only [if_true]
    rw [settle_eq, raise_eq s]
  | false =>
    refine ⟨by rw [evPend_settle]; exact hpend, by simp [answer], ?_⟩
    simp only [Bool.false_eq_true, if_false]
    rw [settle_eq, raise_eq s]
    rfl

/-- Settles O9: a host write reaches `writePlain`, or nothing, and an access error raises its event. -/
theorem registerWrites : Obligations.RegisterWrites := by
  unfold Obligations.RegisterWrites
  refine ⟨?_, ?_, fun s a isWrite hreach hup => exec_accessErr_effect hreach hup a isWrite⟩
  · intro s p off a v r hreach hup ho hal ha hc hact hrow
    refine ⟨_, exec_regWrite_plain hreach hup ho hal ha hc hact, fun h => ?_, fun h i hi => ?_, fun q b o hne => ?_, ?_⟩
    · rw [regBank_settle, writePlain_rws hrow h, regBank_setRegBank, if_pos rfl]
    · rw [reg_settle, reg_writePlain hrow h, bitOf_plainWord r _ _ hi, bitOf_setWidth v hi]
    · rw [regBank_settle, regBank_writePlain_of_ne hrow hne]
    · rw [settle_eq, writePlain_eq]
  · intro s n off a v hn ho hal ha hc hdown
    exact ⟨_, exec_regWrite_unanswered hn ho hal ha hc hdown, settle_eq s⟩

end Sys2Proof.Machine
end
